-- ==== Sys2Proof/Word.lean ====
section
/-! DEFINITION. The word types of the model and the small closed sets of names the manual uses everywhere.
Nothing here computes: arithmetic on these types stands in files under Sys2Proof/Machine. -/

namespace Sys2Proof

/-- A register, a command word or a record word (R4: every register is 32 bits wide). -/
abbrev Word := BitVec 32
/-- One byte. -/
abbrev Byte := BitVec 8
/-- A byte string, first byte at the lowest address (R74). -/
abbrev Bytes := List Byte
/-- A 128-bit block: one AES block, bit 127 the most significant bit of its first byte (R170). -/
abbrev Block := BitVec 128
/-- A 64 B line, byte 0 in bits 7:0 (Table 6.3). -/
abbrev Line := BitVec 512
/-- A sparse table: key and value, keys strictly rising. An absent key has the default its user names. -/
abbrev Tab (α : Type) := List (Nat × α)

/-- The worlds (R37, R105, Table 5.3 WORLDS). -/
inductive World
  | root | mgmt | host | tenant | debug
deriving DecidableEq, Repr, Inhabited

/-- A session's side (chapter 4, Sessions). -/
inductive Side
  | host | device
deriving DecidableEq, Repr, Inhabited

/-- Protection classes, Table 6.1. -/
inductive Cls
  | s | c | r
deriving DecidableEq, Repr, Inhabited

/-- QoS classes, Table 2.5. -/
inductive Qos
  | bestEffort | reserved | scheduled
deriving DecidableEq, Repr, Inhabited

/-- The three address spaces a command names (R98, R126). -/
inductive Space
  | hub | host | accord
deriving DecidableEq, Repr, Inhabited

/-- Memory request operations, Table 7.1. The reserved values are carried so that R182 can refuse them. -/
inductive MemOp
  | readLine | readStretcher | writeLine | writeStretcher | writeBrick | atomic | reserved
deriving DecidableEq, Repr, Inhabited

/-- The kinds of resource a handover moves (HUB_RES_SEL.KIND, Table 2.11). -/
inductive ResKind
  | channel | port | coreGroup
deriving DecidableEq, Repr, Inhabited

/-- What a line an MPE asked its HBM controller for is (R185, R192): a data line of the stretcher, its tag line,
or a metadata line of tree level 0 (course line), 1 or 2. -/
inductive HbmPart
  | data (line : Fin 4) | tag | node (level : Fin 3)
deriving DecidableEq, Repr, Inhabited

/-- What the block's own checkers find while they serve one memory request: nothing; the spare of a lane disagrees
(R33); a word of the node at capstone offset `off` fails ECC beyond correction in one copy, the shadow or the capstone, or in
both (R163); bit `i` of the second register of root counter `k` turns over (R164); a coalescing-store word is uncorrectable
(Table 8.13). -/
inductive Upset
  | none | lane (i : Nat) | capOne (shadow : Bool) (off : Nat) | capBoth (off : Nat) | root (k i : Nat) | storeWord
deriving DecidableEq, Repr, Inhabited

/-- Where an SPDM message comes from (R393): MCTP over PCIe VDM, MCTP over I3C, CTRL flits of a bond handshake by the port they arrive on
and their source chip. `answer` is a peer's response of that handshake, whose body is the response's after its code (R245). -/
inductive Transport
  | pcie | i3c
  | bond (port : Nat) (src : BitVec 16)
  | answer (port : Nat) (src : BitVec 16) (body : Bytes)
deriving DecidableEq, Repr, Inhabited

/-- The unit a rung 1 resets (Table 16.2). -/
inductive UnitRef
  | laneGroup (mpe : Nat) (group : Nat) | lpePort (port : Nat) | hpeLane (out : Bool) (lane : Nat)
deriving DecidableEq, Repr, Inhabited

end Sys2Proof
end

