-- ==== Sys2Proof/Syntax.lean ====
section
/-! DEFINITION. The commands the block takes from outside, one constructor per row of spec/opcode_table.json, in the
table's order. The table gives its rows no operand fields; the operands below are the ones the rules name. A row that
works on something the block already holds (a fetched command, an admitted request, a received message) names only
where it stands: a queue index, an MPE, a port. -/

namespace Sys2Proof

/-- A compute request at a stamp unit, Table 1.17. `op` is the 3-bit OP of Table 7.1. -/
structure ComputeReq where
  src : BitVec 4
  tag : BitVec 16
  op : BitVec 3
  addr : BitVec 64
  mask : BitVec 64
  control : BitVec 32
  arrival : BitVec 11
  data : Bytes
deriving DecidableEq, Repr, Inhabited

/-- The commands, events and accesses of the opcode table. `q` is a hub queue index; `m` an MPE (stack) number;
`w` the world that makes a register access. -/
inductive Instr
  -- hub commands (chapter 4, Table 4.6): start the oldest fetched command of queue q, which is of this opcode
  | nop (q : Nat)
  | sessionOpen (q : Nat)
  | sessionClose (q : Nat)
  | sessionAbort (q : Nat)
  | queueCreate (q : Nat)
  | queueDestroy (q : Nat)
  | queueSetTimeout (q : Nat)
  | queueRestart (q : Nat)
  | fenceCreate (q : Nat)
  | fenceSignal (q : Nat)
  | fenceError (q : Nat)
  | fenceQuery (q : Nat)
  | objectRef (q : Nat)
  | objectUnref (q : Nat)
  | objectShare (q : Nat)
  | coreAttach (q : Nat)
  | imageLoad (q : Nat)
  /-- phase 2 of the image of the started IMAGE_LOAD `id` (R81) -/
  | imageCommit (id : Nat)
  | accordBind (q : Nat)
  | accordUnbind (q : Nat)
  | accordRetire (q : Nat)
  | partitionReset (q : Nat)
  | allocate (q : Nat)
  | carvePoolSet (q : Nat)
  | regionSealBegin (q : Nat)
  | regionSeal (q : Nat)
  | epochRetire (q : Nat)
  | sillageHarvest (q : Nat)
  | fold (q : Nat)
  | bondOpen (q : Nat)
  | bondClose (q : Nat)
  | bondRekey (q : Nat)
  | streamOpen (q : Nat)
  | streamClose (q : Nat)
  | portEnable (q : Nat)
  | portDisable (q : Nat)
  | keyStage (q : Nat)
  | keyCheck (q : Nat)
  | keyCommit (q : Nat)
  | keyRetire (q : Nat)
  | keyDerive (q : Nat)
  | gceRun (q : Nat)
  | gceJobStart
  | drbgRead (q : Nat)
  | otuInvalidate (q : Nat)
  | invalidationDrained (id : Nat)
  | otuMissReply (q : Nat)
  | bounceIn (q : Nat)
  | bounceOut (q : Nat)
  | vfQuiesce (q : Nat)
  | vfResume (q : Nat)
  | lcTransition (q : Nat)
  | debugAuth (q : Nat)
  | globalStop (q : Nat)
  | tensorWatch (q : Nat)
  | configUpdate (q : Nat)
  | trimWrite (q : Nat)
  | powerState (q : Nat)
  | powerCycle (q : Nat)
  | zeroizeAll (q : Nat)
  | faultAck (q : Nat)
  -- doorbells, queues
  | doorbell (cg : Nat) (word : BitVec 32)
  | hostDoorbell (fn : Nat) (word : BitVec 32)
  | vfCommandSlotWrite (vf : Nat) (slot : Nat) (words : List Word)
  | debugDoorbell (w : World) (value : BitVec 32)
  | pfqEnable (w : World) (value : BitVec 32)
  | commandFetch (q : Nat)
  | commandTimeout (q : Nat) (ring : Nat)
  -- stamp units
  | stampRequest (st : Nat) (r : ComputeReq)
  | carve (cg : Nat) (tag : BitVec 16) (offset : BitVec 12)
  | stCgClearAck (cg : Nat)
  -- memory protection engines; `u` is what the MPE's own checkers find meanwhile
  | admissionSlot (m : Nat)
  | readLine (m : Nat) (u : Upset)
  | readStretcher (m : Nat) (u : Upset)
  | accordResident (a : Nat)
  | writeLine (m : Nat) (u : Upset)
  | writeStretcher (m : Nat) (u : Upset)
  | writeBrick (m : Nat) (u : Upset)
  | add (m : Nat) (u : Upset)
  | min (m : Nat) (u : Upset)
  | max (m : Nat) (u : Upset)
  | cas (m : Nat) (u : Upset)
  | swap (m : Nat) (u : Upset)
  | cellW64 (m : Nat) (u : Upset)
  | cellX512 (m : Nat) (u : Upset)
  | touch (m : Nat) (u : Upset)
  | storeFillComplete (m : Nat) (stretcher : Nat)
  /-- a line of read `rid` returns: `line = none` is the line as the stack holds it, `some l` is what its holder made of it -/
  | hbmReadReturn (m : Nat) (rid : Nat) (part : HbmPart) (line : Option Line) (rerr : BitVec 2)
  | reencryptionComplete (m : Nat) (brick : Nat)
  | pinnedWriteback (m : Nat) (level : Nat) (index : Nat)
  | epochPassStep (m : Nat) (chan : Nat)
  | scrubStep (chan : Nat)
  | harvestWalkStep (m : Nat)
  | sealRewriteComplete (m : Nat) (rt : Nat)
  | bandwidthWindowEnd (m : Nat)
  | handoverDrainComplete (k : ResKind) (i : Nat)
  | eraseComplete (k : ResKind) (i : Nat)
  -- links
  | streamDrainTimeout (stream : Nat)
  | linkUp (p : Nat)
  | linkDown (p : Nat)
  | portTransmit (p : Nat) (lanes : List Nat)
  | windowIdleClose (stream : Nat)
  | dataFlitReceive (p : Nat) (flit : Bytes) (rxErr : Bool) (lanes : List Nat)
  | tagFlitReceive (p : Nat) (flit : Bytes) (rxErr : Bool) (lanes : List Nat)
  | ackOwedTimeout (stream : Nat)
  | retransmitTimeout (stream : Nat)
  | stopFlit (p : Nat) (flit : Bytes)
  | helloI (p : Nat) (src : BitVec 16) (msg : Bytes)
  | helloR (p : Nat) (src : BitVec 16) (msg : Bytes)
  | bondFinish (p : Nat) (src : BitVec 16) (msg : Bytes)
  | abort (p : Nat) (src : BitVec 16) (code : BitVec 8)
  | handshakeRepeat (bond : Nat)
  | handshakeTimeout (bond : Nat)
  | openReq (bond : Nat)
  | openAck (bond : Nat)
  | openRefuse (bond : Nat)
  | streamOpenTimeout (stream : Nat)
  | closeStream (bond : Nat)
  | phasePrepare (bond : Nat)
  | phaseReady (bond : Nat)
  | phaseDone (bond : Nat)
  | phaseFlipStart (bond : Nat)
  | reagreementStart (bond : Nat)
  | reagreeOffer (bond : Nat)
  | reagreeAnswer (bond : Nat)
  | bondStaleMsg (bond : Nat)
  | bondCloseMsg (bond : Nat)
  | rekeyRequest (bond : Nat)
  -- fabric transactions and gateways
  | remoteResponse (stream : Nat)
  | gatewayRequest (p : Nat)
  | gatewayRecordIdleClose (p : Nat) (a : Nat) (chip : BitVec 16)
  | gatewayResendTimeout (p : Nat) (a : Nat) (chip : BitVec 16) (rseq : Nat)
  | gatewayFlitReceive (p : Nat) (flit : Bytes) (rxErr : Bool) (lanes : List Nat)
  | landingWaitTimeout (p : Nat) (slot : Nat)
  -- translation
  | domainRequest (otu : Nat)
  | xlateTimeout (otu : Nat) (slot : Nat)
  | map (w : World)
  | unmap (w : World)
  -- host interface
  | hostPageRequest
  | move (w : World) (value : BitVec 32)
  | vfBind (w : World) (value : BitVec 32)
  | flr (fn : Nat)
  | vfDisable (numVfs : Nat)
  | recordLaneStall (out : Bool) (lane : Nat)
  | hostDma (id : Option Nat)
  -- check-value units
  | cvuInit (w : World) (n : Nat) (value : BitVec 32)
  | cvuPolySwitch (w : World) (n : Nat) (value : BitVec 32)
  | cvuFeed8 (w : World) (n : Nat) (value : BitVec 32)
  | cvuFeed16 (w : World) (n : Nat) (value : BitVec 32)
  | cvuFeed32 (w : World) (n : Nat) (value : BitVec 32)
  -- register accesses
  | registerWrite (w : World) (offset : BitVec 24) (width : Nat) (value : BitVec 32)
  | loCaptureRead (w : World) (offset : BitVec 24) (width : Nat)
  | hotFifoPop (w : World) (width : Nat)
  | becAck (w : World) (width : Nat)
  | becEoi (w : World) (value : BitVec 32)
  | pop (w : World)
  | unfreeze (w : World)
  | kick (w : World)
  | watchdogArm (w : World) (value : BitVec 32)
  | watchdog
  | lockstep
  | revoke (w : World)
  | grantExpiry
  /-- an access of `width` bytes to DBG_WIN_DATA by world w: `write = none` is a read -/
  | apertureAccess (w : World) (width : Nat) (write : Option (BitVec 32))
  | resume
  | scan
  | stopCtrlReset
  | lccPlainProbeClosed (w : World)
  | lccPlainVoid (w : World)
  | otpWordProgrammed
  | testEngineCommand (w : World) (value : BitVec 32)
  -- faults and recovery
  | faultAccept
  | rung0
  | rung1
  | rung2
  | rung3
  | rung4
  | rung5
  | rungTimeout
  /-- attempt `attempt` of a transfer on a die-to-die link, counted from 1, failed its CRC -/
  | mortarCrcError (link : Nat) (attempt : Nat)
  | tamper (die : Nat)
  | lcDecode
  /-- `digest` is the recomputed SHA-384 of the firmware image in hub SRAM -/
  | fwSelfcheck (digest : BitVec 384)
  /-- the health tests of R144 on the 1,024 raw bits `bits` that the noise source gave last, the first of them least significant -/
  | entropyFail (bits : BitVec 1024)
  | drbgReseed
  | aonStart
  /-- the self-test result at this start, as Table 17.4 failure entries (used where R447 runs self-test) -/
  | blockStart (failures : List (BitVec 64))
  | aonStatus
  | aonFaultRecord (nonce : BitVec 256)
  | aonZeroize
  | aonPowerCycle
  | aonWake
  | wake (source : Option Nat)
  | vidAck
  | temperatureThreshold (celsius : Nat)
  -- management messages
  | command (words : List Word)
  | cplRead
  | stageWrite (offset : BitVec 32) (data : Bytes)
  | stageRead (offset : BitVec 32) (length : BitVec 16)
  | regRead (selOffset : BitVec 32) (selValue : BitVec 32) (first : BitVec 32) (count : BitVec 8)
  | moduleReport (port : BitVec 8) (cmis : Bytes)
  | dbgAccess (offset : BitVec 32) (write : Bool) (data : BitVec 32)
  | mgmtSessionEnd
  -- SPDM requests, by transport
  | getVersion (t : Transport)
  | getCapabilities (t : Transport)
  | negotiateAlgorithms (t : Transport)
  | getDigests (t : Transport)
  | getCertificate (t : Transport) (slot : BitVec 8) (offset : BitVec 16) (length : BitVec 16)
  | challenge (t : Transport) (nonce : BitVec 256)
  | getMeasurements (t : Transport) (index : BitVec 8) (signed : Bool) (nonce : BitVec 256)
  | keyExchange (t : Transport) (request : Bytes)
  | finish (t : Transport) (request : Bytes) (chain : Bytes)
  | endSession (t : Transport)
  | heartbeat (t : Transport)
  | keyUpdate (t : Transport) (request : Bytes)
  | getPqChain (t : Transport) (response : Bytes)
  | getPqSignature (t : Transport)
  | getAccordCert (t : Transport) (gid : BitVec 32)
  | accordQuote (t : Transport) (gid : BitVec 32) (nonce : BitVec 256)
  | pqBind (t : Transport) (signature : Bytes)
  -- the surroundings
  | powerLoss
  | pcieCompletion (fn : Nat) (addr : BitVec 64) (data : Bytes)
  /-- firmware restarts the noise source, whose first 1,024 raw bits are `bits` -/
  | entropySourceRestart (bits : BitVec 1024)
  | portUpHour (p : Nat)
deriving DecidableEq, Repr, Inhabited

end Sys2Proof
end

