-- ==== Sys2Proof/Config.lean ====
section
/-! DEFINITION. What the spec leaves open: constants without a body, so that no statement can rest on a value of theirs.
Randomness is applied to the running count `State.draws`; the published constructions that the spec cites and the model
leaves uninterpreted are functions of their inputs (log entry 3 and 4). -/

namespace Sys2Proof.Config

/-- Raw bits of the noise source, 384 at a time, by number of the draw (R144). -/
opaque noise : Nat → BitVec 384
/-- Bytes of the fixed key that conditions them (R144 does not give it). -/
opaque conditionByte : Nat → Byte
/-- Any other open value, as a number, by number of the draw. -/
opaque freeNat : Nat → Nat
/-- P-384: the 48-byte x-coordinate of the shared point of a private scalar's seed and a public key (X then Y); none
when the key fails full validation or the result is the point at infinity (R137, FIPS 186-5). (DESIGN CHOICE, log entry 4) -/
opaque ecdhX : Bytes → Bytes → Option Bytes
/-- P-384: the public key (X then Y, 96 bytes) of a private scalar's seed. (DESIGN CHOICE, log entry 4) -/
opaque ecdhPublic : Bytes → Bytes
/-- ML-KEM-1024: decapsulation under the key expanded from a 64-byte seed (FIPS 203; it never fails). (DESIGN CHOICE,
log entry 4) -/
opaque kemDecaps : Bytes → Bytes → Bytes
/-- ML-KEM-1024: the encapsulation key (1,568 bytes) of a seed. -/
opaque kemPublic : Bytes → Bytes
/-- ML-KEM-1024: ciphertext and shared secret for an encapsulation key and a random seed; none for a malformed key.
(DESIGN CHOICE, log entry 4) -/
opaque kemEncaps : Bytes → Bytes → Option (Bytes × Bytes)
/-- ECDSA P-384 verification: public key, message, signature (r then s). (DESIGN CHOICE, log entry 4) -/
opaque ecdsaVerify : Bytes → Bytes → Bytes → Bool
/-- ECDSA P-384 signature: key seed, message. (DESIGN CHOICE, log entry 4) -/
opaque ecdsaSign : Bytes → Bytes → Bytes
/-- ECDSA P-384 public key of a key seed. -/
opaque ecdsaPublic : Bytes → Bytes
/-- ML-DSA-65 verification: public key, message, signature. (DESIGN CHOICE, log entry 4) -/
opaque mldsaVerify : Bytes → Bytes → Bytes → Bool
/-- ML-DSA-65 signature: key seed, message; none when every attempt rejects (R431). (DESIGN CHOICE, log entry 4) -/
opaque mldsaSign : Bytes → Bytes → Option Bytes
/-- ML-DSA-65 public key of a key seed. -/
opaque mldsaPublic : Bytes → Bytes
/-- P-384 public keys (X then Y) of the root and of the leaf of a well-formed X.509 chain whose signatures verify (R398). -/
opaque certKeys : Bytes → Option (Bytes × Bytes)
/-- The ML-DSA-65 key certified with the leaf of a peer's chain: the requests of R245 do not fetch it. (DESIGN CHOICE, log entry 22) -/
opaque peerMldsa : Bytes → Bytes
/-- The leaf certificate of such a chain. -/
opaque chainLeaf : Bytes → Bytes
/-- The X.509 certificate of a layer: layer, issuer's key seed, subject public key, SERIAL, FWID (R392). (DESIGN
CHOICE, log entry 4) -/
opaque x509 : Nat → Bytes → Bytes → Bytes → Bytes → Bytes
/-- An SPDM message on the wire (DSP0274): its code and what the manual puts into it. -/
opaque spdmMessage : Nat → Bytes → Bytes
/-- The transcript hash that DSP0274 forms for a signed message of this code, from the messages exchanged since GET_VERSION. -/
opaque spdmHash : Nat → Bytes → BitVec 384
/-- The bytes that an SPDM signature in a message of this code covers. -/
opaque spdmSigned : Nat → BitVec 384 → Bytes
/-- Verify data of a message of this code: the SPDM key schedule's code under a shared secret, for a transcript hash. -/
opaque spdmMac : Nat → Bytes → BitVec 384 → Bytes
/-- Bytes of the digests in measurement index 0x04 of a section that no slot holds (R395 does not say). -/
opaque absentDigest : Nat → Byte
/-- Bytes of the ROM digest (R390). -/
opaque romByte : Nat → Byte
/-- The ECDSA and ML-DSA public keys that a digest in ROM or OTP stands for (R375, R376). -/
opaque keysOfDigest : Bytes → Bytes × Bytes
/-- A FIRMWARE section verifies under the Saldibex key whose digest is in ROM (R88). -/
opaque firmwareSigned : Bytes → Bool
/-- Security version that a FIRMWARE section carries (Table 3.8). -/
opaque firmwareSvn : Bytes → Nat
/-- The firmware image within a FIRMWARE section. -/
opaque firmwareImage : Bytes → Bytes
/-- A COMPOSER_TRUST or BOND_POLICY section verifies under the owner key of this digest (R88). -/
opaque ownerSigned : Bytes → Bytes → Bool
/-- A command of the test engine: the OTP words it programs, as kind, index and value (R450). -/
opaque testEngine : BitVec 32 → BitVec 32 → List (Nat × Nat × BitVec 32)
/-- What the engine leaves in its data register. -/
opaque testEngineData : BitVec 32 → BitVec 32 → BitVec 32

end Sys2Proof.Config
end

