-- ==== Sys2Proof/Machine/State.lean ====
section
/-! DEFINITION. The state of the block: everything chapters 0 to 17 of the spec give it, as plain data. Each field's
docstring ends with its width, the file and rule of spec/ that names it, and its reset value (the field's default).
A field marked MODEL is the model's own bookkeeping of something the rules only describe in words. -/

namespace Sys2Proof.Machine

/-! ## Objects, commands and fences (chapter 4) -/

/-- The object types of Table 4.1. -/
inductive ObjType
  | session | queue | fence | region | bond | key
deriving DecidableEq, Repr, Inhabited

/-- An object, by type and index (Table 4.2 without GEN). -/
structure ObjRef where
  type : ObjType
  index : Nat
deriving DecidableEq, Repr, Inhabited

/-- Command status, Table 4.7. -/
inductive Status
  | ok | rejected | badOpcode | reservedNonzero | badHandle | staleHandle | noAccess | world | lifeCycle | limit
  | busy | resourceBusy | refOverflow | refUnderflow | badOperand | sequenceExhausted | aborted | timeout | waitFailed
deriving DecidableEq, Repr, Inhabited

/-- A session (R95 to R97). -/
structure Session where
  /-- world | 3 | 04 R95 | session 0 root, 1 mgmt, 2 host -/
  world : World
  /-- local accord index, 0 for ROOT, MGMT and HOST | 10 | 04 R97 | 0 -/
  accord : Nat := 0
  /-- side | 1 | 04 R95 | session 0 device, 1 and 2 host -/
  side : Side := .host
  /-- fault fence, as a fence index | 32-bit handle | 04 R97 | none -/
  faultFence : Option Nat := none
  /-- owning function, 0 the PF | 6 | 12 R323 | session 2: the PF -/
  fn : Option Nat := none
  /-- primary session of its accord | 1 | 04 R96 | false -/
  primary : Bool := false
  /-- reference list: object and number of references | 1,024 objects | 04 R112 | empty -/
  refs : List (ObjRef × Nat) := []
  /-- HREF and DREF | 16 each | 04 R112 | 0 -/
  href : Nat := 0
  /-- DREF | 16 | 04 R112 | 0 -/
  dref : Nat := 0
  /-- MODEL: being closed or aborted; its queues fetch and start nothing new | 1 | 04 R116 | false -/
  dying : Bool := false
  /-- creating session | 12 | 04 R94 | itself for the fixed sessions -/
  creator : Nat := 0
deriving DecidableEq, Repr, Inhabited

/-- A command fetched and not yet started (R94, R454). -/
structure Fetched where
  /-- ring slot | 16 | 04 R104 -/
  ring : Nat
  /-- the 16 words of Table 4.3 | 512 | 04 R103 -/
  words : List Word
  /-- the fetch check it failed, if any | 8 | 04 R454 -/
  failed : Option Status := none
  /-- whether SIGNAL_FENCE itself passed its check | 1 | 04 R454 -/
  signalOk : Bool := false
  /-- objects whose DREF the fetch raised | 3 handles | 04 Table 4.11 -/
  refs : List ObjRef := []
deriving DecidableEq, Repr, Inhabited

/-- A queue (R98 to R102). -/
structure Queue where
  /-- session index | 12 | 04 R98 -/
  session : Nat
  /-- space of its rings | 2 | 04 R98 | hub for the fixed queues -/
  space : Space := .hub
  /-- ring address | 64 | 04 R98 | 0 -/
  ring : BitVec 64 := 0
  /-- completion ring address | 64 | 04 R98 | 0 -/
  cpl : BitVec 64 := 0
  /-- LOG2 of the slots | 5 | 04 R98 | 6 (queue 2: 4, HPE_PFQ_CTRL.LOG2) -/
  log2 : Nat := 6
  /-- timeout in microseconds | 26 | 04 R102 | 10,000 -/
  timeoutUs : Nat := 10000
  /-- BEC source, 511 none | 9 | 04 Table 4.6, 17 R434 | 511 -/
  src : Nat := 511
  /-- creating session | 12 | 04 R94 | none for the fixed and primary queues -/
  creator : Option Nat := none
  /-- next slot to fetch | 16 | 04 R98 | 0 -/
  head : Nat := 0
  /-- tail rung by software | 16 | 04 R98 | 0 -/
  tail : Nat := 0
  /-- completion entry to be written next | 16 | 04 R104 | 0 -/
  cplIndex : Nat := 0
  /-- PHASE of that entry | 1 | 04 Table 4.5 | 1 -/
  cplPhase : Bool := true
  /-- STOPPED | 1 | 04 R101 | false -/
  stopped : Bool := false
  /-- stopped fetching for good (destroy, abort, rung 2) | 1 | 04 R101, R116, R413 | false -/
  noFetch : Bool := false
  /-- fetched and not started, oldest first | list | 04 R101 | empty -/
  fetched : List Fetched := []
  /-- HUB-space command slots written so far | 512 each | 04 R98, 12 R324, 14 R378, 15 R400 | none written -/
  slots : Tab (List Word) := []
  /-- HUB-space completion entries written so far | 128 each | 04 R104 | none written -/
  entries : Tab (List Word) := []
  /-- HREF | 16 | 04 R112 | 0 -/
  href : Nat := 0
  /-- DREF | 16 | 04 R112 | 0 -/
  dref : Nat := 0
deriving DecidableEq, Repr, Inhabited

/-- A fence (R106 to R111). -/
structure Fence where
  /-- VALUE | 64 | 04 R106 -/
  value : BitVec 64
  /-- CODE of an ERROR fence; none while ACTIVE | 8 | 04 R107 -/
  code : Option (BitVec 8) := none
  /-- BACKWARD | 1 | 04 Table 4.8 -/
  backward : Bool := false
  /-- LATE_SIGNAL | 1 | 04 Table 4.8 -/
  lateSignal : Bool := false
  /-- MULTI_SIGNALER | 1 | 04 R111 -/
  multi : Bool := false
  /-- ERROR_COUNT, saturating | 8 | 04 Table 4.8 -/
  errorCount : Nat := 0
  /-- UPDATES | 32 | 04 Table 4.10 -/
  updates : BitVec 32 := 0
  /-- mirror space and address | 2 + 64 | 04 R109 -/
  mirror : Option (Space × BitVec 64) := none
  /-- function whose requester ID writes a mirror in HOST space | 6 | 04 R109 -/
  fn : Nat := 0
  /-- creating session | 12 | 04 R111 -/
  creator : Nat
  /-- accord and world of the creator, kept after it dies | 10 + 3 | 04 R113 -/
  accord : Nat := 0
  /-- sessions that hold SIGNAL | list | 04 R111 -/
  signalers : List Nat := []
  /-- sessions that hold WAIT | list | 04 R111 -/
  waiters : List Nat := []
  /-- HREF | 16 | 04 R112 -/
  href : Nat := 0
  /-- DREF | 16 | 04 R112 -/
  dref : Nat := 0
deriving DecidableEq, Repr, Inhabited

/-- An update ready at the fence unit (R108): a signal, or an error to attach. -/
structure FenceUpdate where
  /-- fence | 16 -/
  fence : Nat
  /-- source index: 0 the command processor, 1 the FRS -/
  source : Nat := 0
  /-- code of an error; none for a signal | 8 -/
  code : Option (BitVec 8) := none
  /-- value signalled, and whether it is added | 64 + 1 -/
  value : BitVec 64 := 0
  add : Bool := false
deriving DecidableEq, Repr, Inhabited

/-- A region object: where its region table entry stands (R93). -/
structure Region where
  /-- owning accord | 10 | 06 Table 6.11 -/
  accord : Nat
  /-- stack | 3 | 03 Table 3.3 -/
  stack : Nat
  /-- region table index | 8 | 06 R178 -/
  rt : Nat
  /-- sessions granted USE | list | 04 Table 4.1 -/
  users : List Nat := []
  /-- creating session; none when an image made it | 12 | 04 R94 -/
  owner : Option Nat := none
  /-- HREF | 16 | 04 R112 -/
  href : Nat := 0
  /-- DREF | 16 | 04 R112 -/
  dref : Nat := 0
deriving DecidableEq, Repr, Inhabited

/-- A key object: its index is the slot number, or at least 256 for a flacon (R129). -/
structure KeyObj where
  /-- creating session | 12 | 04 R94 -/
  owner : Nat
  /-- HREF | 16 | 04 R112 -/
  href : Nat := 0
  /-- DREF | 16 | 04 R112 -/
  dref : Nat := 0
deriving DecidableEq, Repr, Inhabited

/-- What a started command still waits for before it completes (the last column of Table 4.6). -/
inductive Wait
  /-- its start is being applied in this command slot -/
  | starting
  | sessionClose (session : Nat)
  | sessionAbort (session : Nat)
  | queueDestroy (queue : Nat)
  /-- phase 1 passed; the image stands in the image buffer until its commit -/
  | imageChecked (image : List Word) (m d : BitVec 384) (heartChip heartShared : Bytes)
  | imageApply (accord : Nat)
  | bind (k : ResKind) (i : Nat)
  | unbind (k : ResKind) (i : Nat)
  | retire (accord : Nat)
  | rung2 (accord : Nat)
  | sealRewrite (stack rt : Nat)
  | epochRetire (accord stack : Nat) (cls : Cls)
  | harvest (stack : Nat)
  | bondOpen (bond : Nat)
  | bondClose (bond : Nat)
  | bondRekey (bond : Nat) (txDone rxDone : Bool)
  | streamOpen (stream : Nat)
  | streamClose (stream : Nat)
  | portUp (port : Nat)
  /-- PORT_ENABLE of a port that still drains -/
  | portAgain (port : Nat)
  | portDown (port : Nat)
  | keyStage (slot : Nat) (block : Bytes)
  /-- a KEY_STAGE, KEY_DERIVE or DRBG_READ that waits for residency (R62) or for a reseed (R145), and is then applied -/
  | retry
  | keyRetire (slot : Nat)
  | gceQueued
  | invalidation (id : Nat)
  | vfQuiesce (vf : Nat)
  /-- a bounce record; `ready` once its payload and tag have come; `head` is its header once that was read, `acc` its accord once step 1
  of R331 has accepted it -/
  | bounce (out ready : Bool) (head : Bytes) (acc : Option Nat)
  | lifeCycle
  | stop
  | watch
  | wakeUp (target : Nat)
  | configWrite
deriving DecidableEq, Repr, Inhabited

/-- A command started and not completed (R100). -/
structure Started where
  /-- queue index | 10 | 04 R100 -/
  queue : Nat
  /-- ring slot | 16 | 04 R104 -/
  ring : Nat
  /-- session index | 12 | 04 R97 -/
  session : Nat
  /-- its 16 words | 512 | 04 R103 -/
  words : List Word
  /-- objects whose DREF the fetch raised | 3 handles | 04 Table 4.11 -/
  refs : List ObjRef := []
  /-- what its completion waits for | - | 04 Table 4.6 -/
  wait : Wait
  /-- MODEL: it was completed by its timeout and its effect goes on | 1 | 04 Cases left undefined -/
  timedOut : Bool := false
deriving DecidableEq, Repr, Inhabited

/-! ## Accords and resources (chapters 2 and 3) -/

/-- Accord states, Table 2.3. -/
inductive AccordState
  | free | composing | live | retiring
deriving DecidableEq, Repr, Inhabited

/-- A class C or R epoch of an accord on a stack (R143). -/
structure Epoch where
  /-- generation of the current epoch | 15 | 05 Table 5.9 -/
  gen : Nat := 0
  /-- PREV_LIVE | 1 | 05 Table 5.9 -/
  prevLive : Bool := false
  /-- MODEL: the current keys are loaded into the MPE | 1 | 07 R195 -/
  loaded : Bool := true
deriving DecidableEq, Repr, Inhabited

/-- A bandwidth reservation of an accord on a stack, GB/s (Table 3.3 BANDWIDTH). -/
structure Resv where
  c : Nat := 0
  r : Nat := 0
  s : Nat := 0
deriving DecidableEq, Repr, Inhabited

/-- A schedule of an accord on a stack (Table 3.3 SCHEDULE). -/
structure Sched where
  cls : Cls := .c
  slots : BitVec 256 := 0
deriving DecidableEq, Repr, Inhabited

/-- A pinned range (Table 3.3 PIN), in MiB. -/
structure Pin where
  stack : Nat
  base : Nat
  len : Nat
deriving DecidableEq, Repr, Inhabited

/-- The key context of Table 5.9, as the hub key context cache holds it. -/
structure KeyContext where
  /-- HEART_CHIP | 256 | 05 R120 -/
  heartChip : Bytes
  /-- HEART_SHARED | 256 | 05 R120 -/
  heartShared : Bytes
deriving DecidableEq, Repr, Inhabited

/-- An accord, by local index (R47, R50). -/
structure Accord where
  /-- STATE | 4 | 02 Table 2.3 -/
  state : AccordState := .free
  /-- global ID | 32 | 02 R47 -/
  gid : Word := 0xFFFFFFFF
  /-- measurement M | 384 | 03 R78 -/
  m : BitVec 384 := 0
  /-- chip digest D | 384 | 03 R78, R86 -/
  d : BitVec 384 := 0
  /-- last applied DELTA_SEQ | 32 | 03 R84 -/
  deltaSeq : Nat := 0
  /-- a delta's fence has not signalled | 1 | 03 R84 -/
  deltaPending : Bool := false
  /-- scheduled mode | 1 | 02 R69 -/
  scheduled : Bool := false
  /-- FAR flag | 1 | 03 Table 3.3 -/
  far : Bool := false
  /-- number of chips spanned | 11 | 03 Table 3.3 -/
  chips : Nat := 0
  /-- CLASSES: bit 0 S, 1 C, 2 R | 3 | 03 Table 3.3 -/
  classes : BitVec 3 := 0
  /-- grantee policy list | 16 x 32 | 03 Table 3.3 -/
  grantees : List Word := []
  /-- TENANT_KEY words | 512 words | 03 Table 3.3, 14 R376 -/
  tenantKey : List Word := []
  /-- BOND_PEERS | 1,023 x 16 | 03 Table 3.3 -/
  peers : List Nat := []
  /-- reservations by stack | - | 02 R66 -/
  resv : Tab Resv := []
  /-- schedules by stack | - | 02 R69 -/
  sched : Tab Sched := []
  /-- pinned ranges | - | 02 R71 -/
  pins : List Pin := []
  /-- stage-1 roots by OTU | 52 each | 11 R295 -/
  roots : Tab (BitVec 52) := []
  /-- SHORTFALL | 1 | 02 R68 | 0 -/
  shortfall : Bool := false
  /-- RESIDENT: key context in the cache | 1 | 02 R60 -/
  ctx : Option KeyContext := none
  /-- flacon: bytes 0-151 of R140 as spilled (DESIGN CHOICE, log entry 92) | 256 B | 05 R140 -/
  flacon : Option Bytes := none
  /-- order of last use, for R62 | - | 02 R62 -/
  lastUse : Nat := 0
  /-- class C epochs by stack | 16 each | 05 Table 5.9 -/
  epochC : Tab Epoch := []
  /-- class R epochs by stack | 16 each | 05 Table 5.9 -/
  epochR : Tab Epoch := []
  /-- SEAL_COUNTER, the next seal value | 64 | 05 Table 5.9, 07 R198 -/
  sealCounter : BitVec 64 := 1
  /-- primary session index | 12 | 04 R96 -/
  primary : Option Nat := none
  /-- seeds of the accord key, drawn when it went LIVE | 88 B | 15 R391 -/
  accordKey : Option Bytes := none
  /-- NEXT bounce session number | 16 | 12 R328 -/
  bounceNext : Nat := 0
  /-- host sequence WSEQ | 64 | 12 R336 -/
  hostSeq : BitVec 64 := 1
  /-- gateway ports in use by target chip, as a mask | 32 each | 10 R273 | none -/
  farRoute : Tab Nat := []
  /-- last request RSEQ by target chip | 63 each | 10 R284 | 0 -/
  farSeq : Tab Nat := []
  /-- last response RSEQ by target chip | 63 each | 10 Table 10.4 | 0 -/
  farRsp : Tab Nat := []
  /-- PREV of the next request record by target chip | 63 each | 10 R287 | 0 -/
  farPrev : Tab Nat := []
  /-- A, and the map of A - 63 to A with bit 0 for A, by source chip | 63 + 64 each | 10 R290 | 0 -/
  farRx : Tab (Nat × BitVec 64) := []
  /-- owner word of the BEC | 6 | 17 R435 -/
  ownerEvents : BitVec 6 := 0
  /-- sillage buffers by stack: base, LOG2, next entry, overflowed | - | 07 R203, R204 -/
  sillage : Tab (BitVec 52 × Nat × Nat × Bool) := []
  /-- image digest order: the composing image binds still queued are those of resources pending for it -/
  composeId : Option Nat := none
deriving DecidableEq, Repr, Inhabited

/-- Resource states, Table 2.12. -/
inductive ResState
  | free | bound | drain | erase
deriving DecidableEq, Repr, Inhabited

/-- A bind queued under R58: new owner, started command (none for an image), and for a core group its entry fields. -/
structure PendingBind where
  accord : Nat
  cmd : Option Nat := none
  /-- Table 2.4 word of a core group; bit 0 = exclusive for a port -/
  info : Word := 0
deriving DecidableEq, Repr, Inhabited

/-- A channel, port or core group (R44, R55, Table 2.12). -/
structure Res where
  /-- STATE | 3 | 02 Table 2.12 -/
  state : ResState := .free
  /-- owners; more than one only for a shared port | 10 each | 02 Table 2.12 -/
  owners : List Nat := []
  /-- EXCLUSIVE | 1 | 02 Table 2.12 -/
  exclusive : Bool := false
  /-- BIND_PENDING and PENDING | 1 + 10 | 02 Table 2.12 -/
  pending : Option PendingBind := none
  /-- an unbind queued behind the pending bind: its command | - | 02 Table 2.7 -/
  unbindNext : Option (Option Nat) := none
  /-- SCRUBBING: the next brick of the channel | 19 | 02 R55 -/
  scrub : Option Nat := none
deriving DecidableEq, Repr, Inhabited

/-! ## Keys (chapter 5) -/

/-- Slot STATE, Table 5.3. -/
inductive SlotState
  | empty | staged | live | retiring
deriving DecidableEq, Repr, Inhabited

/-- Slot SHADOW, Table 5.3. -/
inductive ShadowState
  | empty | staged | checked | draining
deriving DecidableEq, Repr, Inhabited

/-- A KSF slot (R123, R129). -/
structure Slot where
  /-- STATE | 2 | 05 Table 5.3 -/
  state : SlotState := .empty
  /-- SHADOW | 2 | 05 Table 5.3 -/
  shadow : ShadowState := .empty
  /-- active half | 128-512 | 05 R129 -/
  key : Bytes := []
  /-- shadow half | 128-512 | 05 R129 -/
  shadowKey : Bytes := []
  /-- MASTERS | 8 | 05 Table 5.3 -/
  masters : BitVec 8 := 0
  /-- WORLDS | 5 | 05 Table 5.3 -/
  worlds : BitVec 5 := 0
  /-- USE | 7 | 05 Table 5.3 -/
  use : BitVec 7 := 0
  /-- LCMASK | 16 | 05 Table 5.4 -/
  lcmask : BitVec 16 := 0
  /-- OWNER | 10 | 05 Table 5.3 -/
  owner : Nat := 0
  /-- operations bound to the active half, by started id: ACTIVE_USERS counts them | 16 | 05 R130, Table 5.17 -/
  users : List Nat := []
  /-- operations bound to the DRAINING half: SHADOW_USERS counts them | 16 | 05 R130, Table 5.17 -/
  shadowUsers : List Nat := []
  /-- attributes written with the shadow (MASTERS, WORLDS, USE, LCMASK, OWNER) -/
  shadowAttr : BitVec 8 × BitVec 5 × BitVec 7 × BitVec 16 × Nat := (0, 0, 0, 0, 0)
deriving DecidableEq, Repr, Inhabited

/-! ## Memory protection engines (chapters 6 to 8) -/

/-- Seal state, Table 6.11. -/
inductive SealState
  | opened | sealing | sealed
deriving DecidableEq, Repr, Inhabited

/-- A region table entry with its grant list and its cell flags (Table 6.11, R230). -/
structure RtEntry where
  /-- CLASS | 2 -/
  cls : Cls
  /-- SEAL_STATE | 2 -/
  sealState : SealState := .opened
  /-- SCHED | 1 -/
  sched : Bool := false
  /-- EPOCH | 2 -/
  epoch : Nat := 0
  /-- grant list | 16 x 32 -/
  grants : List Word := []
  /-- OWNER | 10 -/
  owner : Nat
  /-- REGION_ID | 16 -/
  id : Nat
  /-- F, two's complement | 8 -/
  f : BitVec 8 := 0
  /-- BASE_BRICK | 24 -/
  base : Nat
  /-- LIMIT_BRICK | 24 -/
  limit : Nat
  /-- seal value | 64 -/
  sealVal : BitVec 64 := 0
  /-- the record rewrite of R198, or the class S fill of R157, is still running -/
  busy : Bool := false
  /-- OVERFLOW | 1 | 08 R230 -/
  overflow : Bool := false
  /-- INVALID | 1 | 08 R230 -/
  invalid : Bool := false
  /-- LOSS, saturating | 32 | 08 R230 -/
  loss : Nat := 0
deriving DecidableEq, Repr, Inhabited

/-- A counter record, Table 6.5. -/
structure Rec where
  /-- MAJOR | 44 -/
  major : Nat := 0
  /-- MINOR by stretcher | 16 x 3 -/
  minor : Tab Nat := []
  /-- OWNER | 10 -/
  owner : Nat := 0
  /-- EPOCH | 2 -/
  epoch : Nat := 0
  /-- CLASS (as the 2-bit code, 0b11 never written) | 2 -/
  cls : Cls := .s
  /-- INIT, DIRTY, SUSPECT, FROZEN, SCHED, Table 6.6 | 1 each -/
  init : Bool := false
  dirty : Bool := false
  suspect : Bool := false
  frozen : Bool := false
  sched : Bool := false
deriving DecidableEq, Repr, Inhabited

/-- A command at the HBM port: the word MPE_HBM_CMD, and the lines and masks MPE_HBM_WDATA and MPE_HBM_WMASK of a write (R211). -/
structure HbmCommand where
  /-- MPE_HBM_CMD | 64 | 07 R211 -/
  cmd : BitVec 64
  /-- MPE_HBM_WDATA and MPE_HBM_WMASK by line | 512 + 8 each | 07 R211 -/
  lines : List (Line × BitVec 8) := []
deriving DecidableEq, Repr, Inhabited

/-- A line of the counter cache: a course line (level 0), a T1 (1) or a T2 node (2). -/
structure CacheLine where
  level : Nat
  index : Nat
  /-- bytes 0-55 of the line | 448 -/
  body : BitVec 448
  dirty : Bool := false
deriving DecidableEq, Repr, Inhabited

/-- Who waits for the answer to a memory request (R407: the context a fault on it names). -/
inductive Origin
  | core (cg : Nat) (tag : BitVec 16)
  | command (id : Nat)
  /-- a stream's request: the stream, its instance and the OSEQ -/
  | remote (stream inst : Nat) (oseq : BitVec 32)
  | gateway (port : Nat) (src : BitVec 16) (rseq : BitVec 64)
  | block
deriving DecidableEq, Repr, Inhabited

/-- A request at an MPE, an OTU or a port. -/
structure Req where
  origin : Origin
  accord : Nat
  qos : Qos := .bestEffort
  op : MemOp
  /-- stack, or target chip's stack -/
  stack : Nat := 0
  brick : Nat := 0
  off : Nat := 0
  mask : BitVec 64 := 0
  control : BitVec 32 := 0
  arrival : BitVec 11 := 0
  data : Bytes := []
  /-- DVA of a domain-window request -/
  dva : BitVec 57 := 0
  /-- DPA of a host-resident request -/
  dpa : BitVec 52 := 0
  /-- access counter of a counted host page, 0x3FFF none -/
  counter : Nat := 0x3FFF
  /-- host address of a HOST target -/
  haddr : BitVec 64 := 0
  /-- target chip of a remote request -/
  chip : Nat := 0
  /-- OTU that translated it, and the order stamp of that -/
  via : Option Nat := none
  seq : Nat := 0
  /-- the lane cycle, numbered by `Mpe.cycle`, in which a SCHEDULED AXU operation reached its MPE (R227) -/
  cycle : Nat := 0
  /-- admitted before its channel entered DRAIN, so that it completes as before (02 Table 2.6) -/
  place : Option (Nat × RtEntry) := none
deriving DecidableEq, Repr, Inhabited

/-- A read of a stretcher waiting for the lines of the HBM controller (R185, R187). -/
structure PendingRead where
  req : Req
  /-- set for a coalescing-store fill: the stretcher number -/
  fill : Option Nat := none
  /-- lines still to come -/
  need : List HbmPart
  /-- lines that came, with RERR -/
  got : List (HbmPart × Line × BitVec 2) := []
  /-- the second attempt of R187 and R206 -/
  retried : Bool := false
  /-- the first attempt met an uncorrectable line (R206) -/
  firstUe : Bool := false
  /-- key generation at admission (R130): reads admitted before a retire complete under its keys (R195, R196) -/
  gen : Nat := 0
  /-- seal value of the region at admission, class R -/
  sealVal : BitVec 64 := 0
  /-- class and owner of the region at admission -/
  cls : Cls := .c
  owner : Nat := 0
  /-- heart note at admission that the read's keys come from (R130) -/
  heart : Bytes := []
deriving DecidableEq, Repr, Inhabited

/-- Coalescing-store entry states (R213). -/
inductive EntryState
  | filling | valid | held
deriving DecidableEq, Repr, Inhabited

/-- The conditions of Tables 7.11 and 8.13. -/
inductive MemErr
  | badRequest | unbound | handover | access | integrity | memUe | lane | sealed | sealBufferFull | majorExhausted
  | lost | metadataLost | capstone | stackHalted | storeSetHeld | storeUe
deriving DecidableEq, Repr, Inhabited

/-- What a fill of the coalescing store came to: an error condition, or the plaintext of the stretcher (R214). -/
inductive FillResult
  | failed (e : MemErr) | data (b : Bytes)
deriving DecidableEq, Repr, Inhabited

/-- A coalescing-store entry (R213). -/
structure StoreEntry where
  state : EntryState
  /-- plaintext of the stretcher, 256 B | 2,048 -/
  data : Bytes := []
  owner : Nat := 0
  cls : Cls := .c
  rt : Nat := 0
  dirty : Bool := false
  /-- LRU order -/
  lastUse : Nat := 0
  /-- condition that holds a HELD entry -/
  heldBy : MemErr := .lost
  /-- number of the read that fills it -/
  fillRead : Option Nat := none
  /-- result of the fill once its lines are in -/
  fillResult : Option FillResult := none
  /-- requests waiting behind the fill, oldest first -/
  waiting : List Req := []
deriving DecidableEq, Repr, Inhabited

/-- A brick that is being re-encrypted: by the write `req` itself that waits for it (R190), or after `req` took a MINOR to 7 in a
SCHED brick (R191). -/
structure Reenc where
  brick : Nat
  sched : Bool := false
  req : Req
deriving DecidableEq, Repr, Inhabited

/-- A LOST table entry (R207, Table 7.19). -/
structure LostRange where
  base : Nat
  /-- 4, 32 or 256 bricks -/
  size : Nat
  /-- bricks still marked -/
  marks : List Nat
deriving DecidableEq, Repr, Inhabited

/-- An epoch pass (R197). -/
structure EpochPass where
  accord : Nat
  cls : Cls
  epoch : Nat
  /-- next data brick by channel still in the pass -/
  next : Tab Nat
deriving DecidableEq, Repr, Inhabited

/-- A harvest walk (R205). -/
structure Walk where
  accord : Nat
  /-- bricks still to visit -/
  bricks : List Nat
  /-- RESULT of the command -/
  result : Word
deriving DecidableEq, Repr, Inhabited

/-- One MPE with the stack behind it. -/
structure Mpe where
  /-- region table | 256 entries | 06 R178 | empty -/
  rt : Tab RtEntry := []
  /-- counter cache, most recently used first | 7,488 KiB | 06 R162 | empty -/
  cache : List CacheLine := []
  /-- sticky partition: the lines it holds | 64 KiB, 1,024 lines | 06 R162, R165 | empty -/
  sticky : List CacheLine := []
  /-- capstone SRAM: bytes 0-55 of the T3 to T7 nodes, by the offset of Table 6.7; absent 0 | 9,362 nodes | 06 R162 | 0 -/
  capstone : Tab (BitVec 448) := []
  /-- capstone shadow: the second copy, by the same offsets | 9,362 nodes | 06 R162 | 0 -/
  shadow : Tab (BitVec 448) := []
  /-- nodes of one copy (true the shadow) that failed ECC and whose repair runs | - | 06 R163 | none -/
  repairing : List (Bool × Nat) := []
  /-- root counters 0 and 1 | 56 each | 06 R164 | 0 -/
  root : Nat × Nat := (0, 0)
  /-- their second registers | 56 each | 06 R164 | 0 -/
  rootCopy : Nat × Nat := (0, 0)
  /-- MPE_STATUS.CAPSTONE: 0 OK, 1 REPAIRING, 2 FAILED | 2 | 06 R163 | 0 -/
  capState : BitVec 2 := 0
  /-- FORMATTED | 1 | 06 R166 | 0 -/
  formatted : Bool := false
  /-- BOOT_READY | 1 | 06 R169 | 0 -/
  bootReady : Bool := false
  /-- SHADOW_USES and REPAIRS, saturating | 16 each | 06 Table 6.14 | 0 -/
  shadowUses : Nat := 0
  repairs : Nat := 0
  /-- the stack: data lines and tags written, as bytes by stack-physical address | 64 GiB | 06 R153 | none -/
  hbm : List Host.Cell := []
  /-- the stack: course lines, T1 and T2 nodes and the capstone save area written since the format, by stack-physical address of
  the line; a metadata line absent is as formatted (R166) | - | 06 R154, R167, R168 | none -/
  metaLines : Tab Line := []
  /-- commands given to the HBM controller with their write lines and masks, oldest first | 64, 512 and 8 bits each | 07 R211 -/
  hbmOut : List HbmCommand := []
  /-- requests that reached the MPE and wait for admission | - | 02 R64 | empty -/
  ingress : List Req := []
  /-- requests let in by a TDM slot, in order | - | 02 R65, 07 R183 | empty -/
  ready : List Req := []
  /-- residency buffer | 64 entries | 02 R63 | empty -/
  residency : List Req := []
  /-- requests held by a brick re-encryption | - | 07 R190 | empty -/
  heldReqs : List (Nat × Req) := []
  /-- re-encryptions in progress | - | 07 R190, R191 | empty -/
  reenc : List Reenc := []
  /-- TDM slot number of the next admission slot | 8 | 02 R64 | 0 -/
  slot : Nat := 0
  /-- stretchers of the next slot's budget that write-backs and evictions have taken | 5 | 08 R214 | 0 -/
  slotUsed : Nat := 0
  /-- reservation credit by accord in this frame, in 1/4,352 of a byte; below 0 it is overdrawn | - | 02 R65 | empty -/
  credit : Tab Int := []
  /-- rotation position among accords | 10 | 02 R65 | 0 -/
  rotate : Nat := 0
  /-- number of the lane cycle in which the latest SCHEDULED AXU operation arrived; the model's own count | - | 08 R227 | 0 -/
  cycle : Nat := 0
  /-- stretchers delivered by accord in this measurement window | - | 02 R67 | empty -/
  delivered : Tab Nat := []
  /-- accords that had reserved requests waiting in this window | - | 02 R68 | empty -/
  waited : List Nat := []
  /-- common factor, in 1/256, of the RESERVED credit rates | 9 | 02 R67 | 256 -/
  scale : Nat := 256
  /-- share of BEST_EFFORT admissions left, in 1/256, reduced before the RESERVED rates are | 9 | 02 R67 | 256 -/
  beShare : Nat := 256
  /-- ingress credits of BEST_EFFORT and RESERVED are withheld until the residency buffer has drained | 1 | 02 R54, R63 | false -/
  withheld : Bool := false
  /-- requests that the on-package network keeps for want of an ingress credit, oldest first | - | 02 R54 | empty -/
  netHeld : List Req := []
  /-- reads waiting for HBM lines, by read number | - | 07 R185 | empty -/
  reads : Tab PendingRead := []
  /-- next read number (HBM read tag) | 19 | 07 R211 | 0 -/
  nextRead : Nat := 0
  /-- coalescing store by stretcher | 8,192 entries | 08 R213 | empty -/
  store : Tab StoreEntry := []
  /-- seal buffer: stretchers whose line 0 to 2 was written by WRITE_LINE, with their ciphertext lines | 1,024 | 07 R199 -/
  sealBuf : Tab (List Line) := []
  /-- LOST table | 64 | 07 R208 | empty -/
  lost : Tab LostRange := []
  /-- STACK_LOST | 1 | 07 R208 | 0 -/
  stackLost : Bool := false
  /-- MAJOR floor | 44 | 07 R207 | 0 -/
  majorFloor : Nat := 0
  /-- TREE floor | 56 | 07 R207 | 0 -/
  treeFloor : Nat := 0
  /-- epoch passes, oldest first | - | 07 R197 | none -/
  passes : List EpochPass := []
  /-- harvest walk | - | 07 R205 | none -/
  walk : Option Walk := none
  /-- counters: CC_HITS, CC_MISSES mod 2^32; RETRY_OK, FAILS, REENC SCHED, REENC INLINE saturating | 07 R212 | 0 -/
  ccHits : Nat := 0
  ccMisses : Nat := 0
  retryOk : Nat := 0
  fails : Nat := 0
  reencSched : Nat := 0
  reencInline : Nat := 0
  /-- AXU_OPS, HITS, FILLS, WRITEBACKS | 32 each | 08 R236 | 0 -/
  axuOps : Nat := 0
  axuHits : Nat := 0
  axuFills : Nat := 0
  axuWritebacks : Nat := 0
  /-- lanes marked for substitution at the next start | 80 lanes | 01 R33 | none -/
  marked : List Nat := []
  /-- lane groups that have taken rung 1 and run without a checking spare | 4 | 16 R412 | none -/
  resetGroups : List Nat := []
  /-- root counters in the retention store | 56 each | 06 R167 | none -/
  savedRoot : Option (Nat × Nat) := none
  /-- HUB_FRAME_PHASE of this stack | 10 | 02 R70 | 0 -/
  phase : BitVec 10 := 0
  /-- pinned dirty lines queued for write-back: level and index | - | 07 R193 | empty -/
  wbQueue : List (Nat × Nat) := []
deriving DecidableEq, Repr, Inhabited

/-! ## Stamp units (chapters 1, 2 and 4) -/

/-- A CARVE pool (R115). -/
structure Pool where
  region : Nat
  stack : Nat
  first : Nat
  /-- last brick, inclusive -/
  limit : Nat
  next : Nat
deriving DecidableEq, Repr, Inhabited

/-- A core group as its stamp unit holds it. -/
structure Core where
  /-- source-binding entry | 32 | 02 Table 2.4 | 0 -/
  entry : Word := 0
  /-- CARVE pool | - | 04 R115 | none -/
  pool : Option Pool := none
  /-- session attached | 12 | 04 R97 | none -/
  session : Option Nat := none
  /-- tags of stores and atomics not answered yet | - | 04 R110 | empty -/
  stores : List (BitVec 16) := []
  /-- doorbells held behind them, with the stores each waits for | - | 04 R110 | empty -/
  doorbells : List (Word × List (BitVec 16)) := []
  /-- local mark of rung 1 | 1 | 16 R412 | false -/
  localMark : Bool := false
  /-- LOST marks: target chips | - | 10 R281 | empty -/
  lostChips : List Nat := []
  /-- ST_CG_CLEAR_REQ raised | 1 | 02 R57 | 0 -/
  clearReq : Bool := false
  /-- requests held during a tensor watch dump, each with the entry it was stamped from | - | 14 R385, 02 R52 | empty -/
  watchHeld : List (ComputeReq × Word) := []
deriving DecidableEq, Repr, Inhabited

/-! ## Links (chapters 9 and 10) -/

/-- Port states, Table 9.1. -/
inductive PortState
  | disabled | noLink | unidentified | up | draining
deriving DecidableEq, Repr, Inhabited

/-- Stream states, Table 9.7. -/
inductive StreamState
  | closed | opening | opened | draining | failed
deriving DecidableEq, Repr, Inhabited

/-- Bond states, Table 9.17. -/
inductive BondState
  | free | attesting | agreeing | live | stale | closing | closed
deriving DecidableEq, Repr, Inhabited

/-- The answer of a local MPE to a remote request (R276): OSEQ, STATUS, data and the request. -/
structure Answered where
  /-- MODEL: the instance of the stream entry that the request came over -/
  inst : Nat
  /-- what the response carries | 32, 8, at most 256 B | 10 R276 -/
  oseq : BitVec 32
  code : BitVec 8
  data : Bytes
  req : Req
deriving DecidableEq, Repr, Inhabited

/-- The open window of a stream (R254 to R257). -/
structure OpenWindow where
  /-- SEQ, taken when it opened | 64 | 09 R257 -/
  seq : Nat
  /-- generation and salt it is encrypted under | 16, 32 | 09 R255 -/
  gen : Nat
  salt : Word
  /-- plaintext so far | 3,840 B | 09 R256 -/
  pt : Bytes := []
  /-- its DATA flits that have entered the PCS egress FIFO | 16 | 09 R256 -/
  flits : List Bytes := []
  /-- a partly filled DATA flit has been sent, whose padding ends the entries | 1 | 10 R274 -/
  ended : Bool := false
deriving DecidableEq, Repr, Inhabited

/-- A window sent and not acknowledged: sequence, generation and its flits (R261). -/
structure SentWindow where
  seq : Nat
  gen : Nat
  flits : List Bytes
deriving DecidableEq, Repr, Inhabited

/-- A stream table entry, or the control stream of a bond (R247 to R261). -/
structure Stream where
  /-- STATE | 3 | 09 Table 9.7 -/
  state : StreamState := .closed
  /-- local accord index; 0 for a control stream | 10 | 09 Table 9.16 -/
  accord : Nat := 0
  /-- bond index | 12 | 09 Table 9.16 -/
  bond : Nat := 0
  /-- peer's stream number | 13 | 09 Table 9.16 -/
  peerStream : Nat := 0
  /-- peer's port | 5 | 09 Table 9.5 -/
  peerPort : Nat := 0
  /-- transmit salt | 32 | 09 R251 -/
  txSalt : Word := 0
  /-- receive salt | 32 | 09 R251 -/
  rxSalt : Word := 0
  /-- receive salt under the next generation, from PHASE_PREPARE | 32 | 09 R264 | none -/
  rxSaltNext : Option Word := none
  /-- next transmit sequence | 64 | 09 R251 -/
  txSeq : Nat := 0
  /-- E | 64 | 09 R259 -/
  rxSeq : Nat := 0
  /-- generation of new windows; TX_PHASE is its parity | 16 | 09 R262 -/
  txGen : Nat := 0
  /-- generation of the last verified window | 16 | 09 R263 -/
  rxGen : Nat := 0
  /-- the open window | - | 09 R256 | none -/
  win : Option OpenWindow := none
  /-- it is still to send its first window, an empty one, under the bond's current generation | 1 | 09 R263 -/
  moveDue : Bool := false
  /-- MODEL: instance of the entry, so that a late answer finds no later stream | - -/
  inst : Nat := 0
  /-- retransmit buffer share: sent windows, oldest first | - | 09 R261 -/
  sent : List SentWindow := []
  /-- consecutive resends of the oldest window | 4 | 09 R261 -/
  resends : Nat := 0
  /-- window assembly: DATA flits held, by POS, and whether one was flawed | 16 flits | 09 R258 -/
  held : Tab Bytes := []
  flawed : Bool := false
  /-- an acknowledgement is owed | 1 | 09 R260 -/
  ackOwed : Bool := false
  /-- a NAK is owed | 1 | 09 R260 -/
  nakOwed : Bool := false
  /-- next OSEQ | 32 | 10 R275 -/
  oseq : BitVec 32 := 0
  /-- requests awaiting a response, oldest first | 4,096 | 10 R275 -/
  outstanding : List (BitVec 32 × Req) := []
  /-- answers of the local MPE for released remote requests, waiting to be sent | - | 10 R276 -/
  responses : List Answered := []
  /-- the arrival counter of the oldest of them has been advanced | 1 | 10 R276 -/
  arrived : Bool := false
  /-- draining for a port handover | 1 | 09 Table 9.6 -/
  handover : Bool := false
deriving DecidableEq, Repr, Inhabited

/-- A gateway request record (R282): header fields and payload, kept as plaintext. -/
structure Record where
  accord : Nat
  chip : BitVec 16
  rseq : Nat := 0
  prev : Nat := 0
  read : Bool := false
  arrival : BitVec 11 := 0
  /-- runs: stack, brick, line, lines -/
  runs : List (Nat × Nat × Nat × Nat) := []
  data : Bytes := []
  /-- the operations gathered in it -/
  reqs : List Req := []
  resends : Nat := 0
  /-- MODEL: among the 64 that have been sent | 1 | 10 R287 -/
  sent : Bool := false
deriving DecidableEq, Repr, Inhabited

/-- A fabric port. -/
structure Port where
  /-- STATE | 3 | 09 Table 9.12 | DISABLED -/
  state : PortState := .disabled
  /-- MODE GATEWAY | 1 | 09 R237 | BOND -/
  gateway : Bool := false
  /-- LINK_UP | 1 | 09 Table 9.12 | 0 -/
  linkUp : Bool := false
  /-- SPARE_PENDING: lanes marked for substitution | 1 | 09 Table 9.12 | none -/
  marked : List Nat := []
  /-- MODULE_ID | 128 | 09 R239 | 0 -/
  moduleId : BitVec 128 := 0
  /-- last MODULE_ID counted by UPHOURS | 128 | 09 R241 | 0 -/
  lastModule : BitVec 128 := 0
  /-- UPHOURS, saturating | 32 | 09 R241 | 0 -/
  upHours : Nat := 0
  /-- IDLE_CYCLES | 6 | 09 Table 9.12 | 0x20 -/
  idleCycles : BitVec 6 := 0x20
  /-- TXWIN, RXWIN | 64 each | 09 Table 9.14 | 0 -/
  txWin : BitVec 64 := 0
  rxWin : BitVec 64 := 0
  /-- TAG_FAIL, RETX, DUP, GAP, saturating | 16 each | 09 Table 9.15 | 0 -/
  tagFail : Nat := 0
  retx : Nat := 0
  dup : Nat := 0
  gap : Nat := 0
  /-- LOST, REFUSED, saturating | 32 each | 10 Table 10.9 | 0 -/
  lost : Nat := 0
  refused : Nat := 0
  /-- stream table by entry | 256 | 09 R248 | all CLOSED -/
  streams : Tab Stream := []
  /-- requests handed to the transmit stage, with the stream each goes on | - | 09 R257 | empty -/
  tx : List (Nat × Req) := []
  /-- windows sent by bond under the current generation | 26 each | 09 R262 | 0 -/
  genWindows : Tab Nat := []
  /-- PCS egress FIFO: flits sent | 256 B each | 09 R256 | empty -/
  egress : List Bytes := []
  /-- requests held under R272 or R278 | - | 10 Table 10.8 | empty -/
  heldReqs : List Req := []
  /-- requests at the gateway port not gathered yet | - | 10 R286 | empty -/
  gwIn : List Req := []
  /-- open WRITE records by accord and chip | - | 10 R286 | empty -/
  gwOpen : List Record := []
  /-- request records awaiting a response | 64 | 10 R287 | empty -/
  gwSent : List Record := []
  /-- GATEWAY flits of the record being received, by source chip, and whether one was flawed | 4,370 flits | 10 R285 | empty -/
  gwRx : Tab (List Bytes × Bool) := []
  /-- landing stage: verified records that wait (RSEQ, source, record) | 64 slots | 10 R289 | empty -/
  landing : List (BitVec 16 × Record) := []
  /-- TXREC, RXREC | 64 each | 10 Table 10.11 | 0 -/
  txRec : BitVec 64 := 0
  rxRec : BitVec 64 := 0
  /-- TAG_FAIL, RESENT, DUP, STALE, LOST, saturating | 16, 16, 16, 16, 32 | 10 Table 10.11 | 0 -/
  gwTagFail : Nat := 0
  gwResent : Nat := 0
  gwDup : Nat := 0
  gwStale : Nat := 0
  gwLost : Nat := 0
  /-- SEND_STAGE and LAND_STAGE reserved by hub firmware (DESIGN CHOICE, log entry 92) | 1 + 1 | 10 Table 10.10 | 0 -/
  stages : Bool := false
  /-- directions whose spare works in place of a lane and checks nothing: 0 transmit, 1 receive | 2 | 17 R448 | none -/
  unchecked : List Nat := []
deriving DecidableEq, Repr, Inhabited

/-- An SPDM responder's state on one transport (R393, R394). -/
structure Spdm where
  /-- version, capabilities and algorithms negotiated | 3 steps | 15 R393 | none -/
  stage : Nat := 0
  /-- transcript of the current exchange | - | 15 R393 | empty -/
  transcript : Bytes := []
  /-- transcript hash a signed response covered, still open to GET_PQ_SIGNATURE | 384 | 15 R394 | none -/
  pending : Option (BitVec 384) := none
  /-- responses sent: SPDM response code and what the manual puts into it | - | 15 R393 | none -/
  out : List (BitVec 8 × Bytes) := []
deriving DecidableEq, Repr, Inhabited

/-- This side's part of step 1 of a handshake (R245). -/
structure Attestation where
  /-- the request that awaits its answer: 1 GET_VERSION to 7 GET_MEASUREMENTS; 0 before them, 8 when the peer has passed | 4 | 09 R245 -/
  step : Nat := 0
  /-- a first request was answered, which settles who is the initiator | 1 | 09 R245 -/
  decided : Bool := false
  /-- the peer's GET_MEASUREMENTS was answered | 1 | 09 R245 -/
  served : Bool := false
  /-- requests and answers since GET_VERSION | - | 15 R393 -/
  log : Bytes := []
  /-- digest of the peer's chain, the chain so far, and its leaf's key | 48 B, -, 96 B | 09 R245 -/
  digest : Bytes := []
  chain : Bytes := []
  leaf : Bytes := []
deriving DecidableEq, Repr, Inhabited

/-- A bond (R243 to R264). -/
structure Bond where
  /-- STATE | 3 | 09 Table 9.4 -/
  state : BondState := .free
  /-- peer chip ID | 16 | 09 Table 9.17 -/
  peer : Nat := 0
  /-- port mask | 32 | 09 Table 9.17 -/
  mask : Word := 0
  /-- INITIATOR | 1 | 09 Table 9.17 -/
  initiator : Bool := false
  /-- LINK_VERSION | 4 | 09 Table 9.17 -/
  version : Nat := 0
  /-- step 1 of the handshake | - | 09 R245 -/
  att : Attestation := {}
  /-- the responder's state in this handshake | - | 15 R393 -/
  spdm : Spdm := {}
  /-- ephemeral scalar seed, ML-KEM seed and nonce of the handshake | 152 B | 09 R245 -/
  secret : Bytes := []
  /-- handshake transcript bytes | - | 09 R246 -/
  transcript : Bytes := []
  /-- T of the last agreement | 384 | 09 R246, R264 -/
  t : BitVec 384 := 0
  /-- LINK_ROOT | 256 | 09 R246 -/
  root : Bytes := []
  /-- LINK_ROOT of a re-agreement, in force from the next flip | 256 | 09 R264 -/
  nextRoot : Option Bytes := none
  /-- TX_GEN and RX_GEN | 16 each | 09 R262 -/
  txGen : Nat := 0
  rxGen : Nat := 0
  /-- root of the previous generation still held on receive (R263 step 3), on transmit (step 4) -/
  oldRx : Option Bytes := none
  oldTx : Option Bytes := none
  /-- LINK_ROOT that the flip under way brings in (ROOT_CHANGE) | 256 | 09 R264 | none -/
  flipRoot : Option Bytes := none
  /-- a flip with ROOT_CHANGE is due and waits for an OPENING stream | 1 | 09 R264 -/
  flipDue : Bool := false
  /-- generations run under the transmit root, at most 65,536 | 17 | 09 R264 -/
  rootGens : Nat := 1
  /-- roots of the current generations, one per direction (they differ while a ROOT_CHANGE is under way) -/
  rxRoot : Bytes := []
  /-- a flip of the sending direction is under way, until PHASE_DONE | 1 | 09 R263 -/
  flipping : Bool := false
  /-- a flip of the receiving direction awaits the last stream | 1 | 09 R263 -/
  rxFlipping : Bool := false
  /-- a re-agreement is in progress | 1 | 09 R264 -/
  reagreeing : Bool := false
  /-- salt counter of the sending direction | 32 | 09 R251 -/
  salt : Nat := 0
  /-- transmit salts that streams take at a flip with ROOT_CHANGE, by stream number | 32 each | 09 R264 | none -/
  newSalts : Tab Word := []
  /-- MODULE_IDs by local port, by peer port | 128 each | 09 R240 -/
  localModules : Tab (BitVec 128) := []
  peerModules : Tab (BitVec 128) := []
  /-- this side's FINISH sent | 1 | 09 R246 -/
  finishSent : Bool := false
  /-- HASH_SEED | 32 | 10 R277 -/
  hashSeed : Word := 0
  /-- control stream | - | 09 R247 -/
  ctl : Stream := {}
  /-- control messages delivered in order and not handled yet: type and body | - | 09 R250 -/
  inbox : List (BitVec 16 × Bytes) := []
  /-- control messages to be sent | - | 09 R250 -/
  outbox : List (BitVec 16 × Bytes) := []
  /-- bytes of a control message that has not ended | - | 09 R250 -/
  partialMsg : Bytes := []
  /-- the BOND_OPEN command pending here, by started id | - | 09 R243 -/
  openCmd : Option Nat := none
  /-- a BOND_REKEY queued behind the one running | 1 | 09 R263 -/
  rekeyQueued : Option Nat := none
  /-- HREF | 16 | 04 R112 -/
  href : Nat := 0
  /-- DREF | 16 | 04 R112 -/
  dref : Nat := 0
  /-- creating session | 12 | 04 R94 -/
  owner : Nat := 0
  /-- sessions granted USE | - | 04 Table 4.1 -/
  users : List Nat := []
deriving DecidableEq, Repr, Inhabited

/-! ## Translation (chapter 11) -/

/-- A TLB entry (R305). -/
structure TlbEntry where
  accord : Nat
  /-- first DVA of the page -/
  base : Nat
  /-- page size in bytes: 4 KiB, 64 KiB, 2 MiB or 1 GiB -/
  size : Nat
  writable : Bool
  host : Bool
  /-- TARGET of Table 11.3 -/
  target : BitVec 64
  counter : Nat := 0x3FFF
deriving DecidableEq, Repr, Inhabited

/-- A miss slot in use (R309). -/
structure Miss where
  accord : Nat
  /-- 4 KiB DVA page number -/
  page : Nat
  waiting : List Req
  /-- resolved into a page that is being moved, and held (R337 step 1) -/
  moveHeld : Bool := false
deriving DecidableEq, Repr, Inhabited

/-- An OTU. -/
structure Otu where
  /-- TLB, most recently used first | 4,096 | 11 R305 | empty -/
  tlb : List TlbEntry := []
  /-- miss slots in use | 256 | 11 R309 | none -/
  misses : Tab Miss := []
  /-- GEN by slot, absent 0 | 8 | 11 R310 | 0 -/
  gens : Tab (BitVec 8) := []
  /-- requests from the on-package network not looked up yet | - | 11 R309 | empty -/
  ingress : List Req := []
  /-- miss descriptors posted to hub firmware: tag, accord, kind, DVA page | 16 B each | 11 R309 | empty -/
  posted : List (Word × Nat × Nat × Nat) := []
  /-- HITS, MISSES mod 2^32; TIMEOUTS, FAULTS saturating | 32, 32, 16, 16 | 11 Table 11.10 | 0 -/
  hits : Nat := 0
  missCount : Nat := 0
  timeouts : Nat := 0
  faults : Nat := 0
deriving DecidableEq, Repr, Inhabited

/-- A stage-2 extent (R300). -/
structure Extent where
  gid : Word
  base : Nat
  pages : Nat
  writable : Bool
  host : Bool
  /-- access counters of its 2 MiB pages, in order; none when it is not counted -/
  counters : List Nat := []
  /-- TARGET of Table 11.3 -/
  target : BitVec 64
deriving DecidableEq, Repr, Inhabited

/-- An invalidation that has reached its OTUs and waits for earlier requests (R312). -/
structure Invalidation where
  accord : Nat
  /-- OTUs it reached -/
  otus : List Nat := []
  /-- order stamp of its arrival: requests translated before it have a lower one -/
  seq : Nat := 0
  /-- started command, if a command issued it -/
  cmd : Option Nat := none
  /-- fence of an UNMAP, to add 1 to -/
  fence : Option Nat := none
  /-- extent counters to free at completion -/
  counters : List Nat := []
deriving DecidableEq, Repr, Inhabited

/-- One world's stage-2 mailbox (R319). -/
structure Mailbox where
  desc : BitVec 64 := 0
  busy : Bool := false
  code : BitVec 8 := 0
deriving DecidableEq, Repr, Inhabited

/-! ## Host interface (chapter 12) -/

/-- VF states (R339). -/
inductive VfState
  | running | quiescing | quiesced
deriving DecidableEq, Repr, Inhabited

/-- A virtual function. -/
structure Vf where
  /-- HPE_VF_BIND VALID and ACCORD | 1 + 10 | 12 Table 12.9 | clear -/
  bound : Option Nat := none
  /-- ACCORD as last written | 10 | 12 Table 12.9 | 0 -/
  accord : Nat := 0
  /-- STATE | 2 | 12 R339 | RUNNING -/
  state : VfState := .running
deriving DecidableEq, Repr, Inhabited

/-- A bounce session entry (R328). -/
structure BounceSession where
  accord : Nat
  number : Nat
  /-- IN and OUT marks | 95 each -/
  inMark : Nat := 0
  outMark : Nat := 0
  lastUse : Nat := 0
deriving DecidableEq, Repr, Inhabited

/-- An access counter assigned to a host page (R314). -/
structure HostCounter where
  gid : Word
  /-- DPA bits 51:21 -/
  dpa : Nat
  count : Nat := 0
deriving DecidableEq, Repr, Inhabited

/-- The host protocol engine. -/
structure Hpe where
  /-- HPE_PFQ_RING, HPE_PFQ_CPL | 64 each | 12 Table 12.8 | 0 -/
  pfqRing : BitVec 64 := 0
  pfqCpl : BitVec 64 := 0
  /-- HPE_PFQ_CTRL.ENABLE | 1 | 12 Table 12.8 | 0 -/
  pfqEnable : Bool := false
  /-- HPE_PFQ_CTRL.LOG2 | 5 | 12 Table 12.8 | 4 -/
  pfqLog2 : Nat := 4
  /-- NumVFs | 6 | 12 Table 12.9 | 0 -/
  numVfs : Nat := 0
  /-- virtual functions | 63 | 12 R323 | all unbound, RUNNING -/
  vfs : Tab Vf := []
  /-- bounce sessions | 4,096 | 12 R328 | empty -/
  sessions : List BounceSession := []
  /-- records in progress: OUT flag, lane, started id | 16 each way | 12 R333 | none -/
  active : List (Bool × Nat × Nat) := []
  /-- TAG_FAIL, NONCE_STALE, saturating | 16 each | 12 Table 12.9 | 0 -/
  tagFail : Nat := 0
  nonceStale : Nat := 0
  /-- HPE_MOVE_GID, DPA, DEST | 32, 31, 27 | 12 Table 12.10 | 0 -/
  moveGid : Word := 0
  moveDpa : Word := 0
  moveDest : Word := 0
  /-- HPE_MOVE_STATUS BUSY, DONE, CODE, INTEG | 1, 1, 8, 14 | 12 Table 12.11 | 0 -/
  moveBusy : Bool := false
  moveDone : Bool := false
  moveCode : BitVec 8 := 0
  moveInteg : Nat := 0
  /-- the invalidation that the running move waits for | - | 12 R337 | none -/
  moveInv : Option Nat := none
  /-- access counters assigned | 16,383 | 11 R314 | none -/
  counters : Tab HostCounter := []
  /-- OTU_HOT_THRESH | 16 | 11 Table 11.11 | 0x1000 -/
  hotThresh : BitVec 16 := 0x1000
  /-- hot-page FIFO, oldest first | 64 | 11 R315 | empty -/
  hotFifo : List Nat := []
  /-- OTU_HOT_FIFO.OVERFLOW | 1 | 11 Table 11.11 | 0 -/
  hotOverflow : Bool := false
  /-- requests to host-resident pages, in arrival order | - | 12 R336 | empty -/
  pages : List Req := []
  /-- lanes put through rung 1 and marked | - | 16 R412 | none -/
  marked : List Nat := []
  /-- host bytes the PCIe port has returned or the HPE has written, keyed function * 2^64 + address | - | 12 R323, R331 | none -/
  mem : List Host.Cell := []
deriving DecidableEq, Repr, Inhabited

/-! ## Cipher engine and check-value units (chapter 13) -/

/-- The job that the GCE runs, bound to the key half it began with (R130, R344). -/
structure GceRun where
  /-- its GCE_RUN, by started id -/
  job : Nat
  /-- KEY_SLOT; 0 for a digest | 8 | 13 Table 13.2 -/
  slot : Nat
  /-- the key | 128-512 | 05 R130 -/
  key : Bytes
  /-- the descriptor as read | 64 B | 13 R345 -/
  desc : Bytes
deriving DecidableEq, Repr, Inhabited

/-- The GCE. -/
structure Gce where
  /-- job queue: started ids, oldest first | - | 13 R344 | empty -/
  jobs : List Nat := []
  /-- the running job: BUSY while some | - | 13 R344 | none -/
  running : Option GceRun := none
  /-- JOBS mod 2^32; TAG_FAILED, OTHER saturating | 32, 16, 16 | 13 Table 13.5 | 0 -/
  done : Nat := 0
  tagFailed : Nat := 0
  other : Nat := 0
deriving DecidableEq, Repr, Inhabited

/-- A check-value unit (R356). -/
structure Cvu where
  /-- VALUE | 64 | 13 Table 13.6 | 0xFFFF_FFFF -/
  value : BitVec 64 := 0xFFFFFFFF
  /-- POLY | 3 | 13 Table 13.6 | 0b000 -/
  poly : BitVec 3 := 0
  /-- COUNT | 32 | 13 Table 13.6 | 0 -/
  count : BitVec 32 := 0
deriving DecidableEq, Repr, Inhabited

/-! ## Life cycle and debug (chapter 14) -/

/-- One copy of the life-cycle partition (chapter 14, Encoding in OTP). -/
structure LcCopy where
  /-- state codeword | 64 | 14 R363 | 0 -/
  code : BitVec 64 := 0
  /-- transition slots 0 to 27, slot k in bits 8k+7:8k | 224 | 14 R364 | 0 -/
  slots : BitVec 224 := 0
  /-- VOID slot | 8 | 14 R372 | 0 -/
  void : BitVec 8 := 0
deriving DecidableEq, Repr, Inhabited

/-- OTP (chapter 14). -/
structure Otp where
  /-- copies A, B, C | 320 each | 14 R364 | blank -/
  a : LcCopy := {}
  b : LcCopy := {}
  c : LcCopy := {}
  /-- DUS, CREATOR_SEED, OWNER_SEED | 256 each | 05 R122 | 0 -/
  dus : BitVec 256 := 0
  creator : BitVec 256 := 0
  owner : BitVec 256 := 0
  /-- SERIAL | 128 | 14 Table 14.10 | 0 -/
  serial : BitVec 128 := 0
  /-- owner key digest | 384 | 14 Table 14.3 | 0 -/
  ownerDigest : BitVec 384 := 0
  /-- digests of tokens 1-3 (1, 2, 3), PILOT 6, FIELD 7, SUNSET 8, RETURN 9, by target state | 384 each | 14 R367 -/
  tokens : Tab (BitVec 384) := []
  /-- minimum firmware security version | 8 | 03 Table 3.8 | 0 -/
  minSvn : Nat := 0
  /-- repair words programmed by fuse repair | 64 each | 17 R448 | none -/
  repairs : List (BitVec 64) := []
deriving DecidableEq, Repr, Inhabited

/-- One OTP word program: what it sets (R369, R372). -/
inductive OtpWord
  | start (copy : Fin 3) (slot : Nat)
  | done (copy : Fin 3) (slot : Nat)
  | code (copy : Fin 3) (bits : BitVec 64)
  | voidStart (copy : Fin 3)
  | voidDone (copy : Fin 3)
  | root (which : Fin 3) (word : Nat) (value : BitVec 32)
  | serial (word : Nat) (value : BitVec 32)
  | ownerDigest (word : Nat) (value : BitVec 32)
  | tokenDigest (token : Nat) (word : Nat) (value : BitVec 32)
  /-- not a program: the token comparison of R369 step 3 -/
  | compare
  /-- not a program: the wait of R370 for rung 2 and BOND_CLOSE -/
  | clearTenants
deriving DecidableEq, Repr, Inhabited

/-- The LCC. -/
structure Lcc where
  /-- state in force, Table 14.1 | 4 | 14 R371 | decoded at AON_START -/
  state : Nat := 0
  /-- COUNT | 5 | 14 R364 | decoded -/
  count : Nat := 0
  /-- COPY_ERR, saturating | 8 | 14 R364 | decoded -/
  copyErr : Nat := 0
  /-- VOID_PENDING | 1 | 14 R372 | decoded -/
  voidPending : Bool := false
  /-- RUNTIME_MISMATCH | 1 | 14 R366 | 0 -/
  mismatch : Bool := false
  /-- TARGET of the running transition; BUSY while some | 4 | 14 Table 14.10 | none -/
  target : Option Nat := none
  /-- OTP steps still to do | - | 14 R369 | empty -/
  prog : List OtpWord := []
  /-- token block of the running transition | 64 B | 14 R368 | none -/
  block : Bytes := []
  /-- the clearing of R370 has begun | 1 | 14 R370 | 0 -/
  clearing : Bool := false
  /-- LCC_RESULT.CODE | 8 | 14 Table 14.10 | 0 -/
  code : BitVec 8 := 0
deriving DecidableEq, Repr, Inhabited

/-- An active debug grant (R375 to R379). -/
structure Grant where
  levels : BitVec 4
  signer : BitVec 1
  /-- world that issued DEBUG_AUTH -/
  issuer : World
  session : Nat
  /-- DURATION, and the time of the grant in microseconds | 17 + 32 -/
  seconds : Nat
  since : Nat
  stopDomain : Word
  watchGid : Word
  recipient : Bytes
deriving DecidableEq, Repr, Inhabited

/-- Global stop states, Table 14.11. -/
inductive StopState
  | running | stopping | stopped | scanned
deriving DecidableEq, Repr, Inhabited

/-- DBG. -/
structure Dbg where
  /-- nonce | 256 | 14 R377 | drawn at block start -/
  nonce : Bytes := List.replicate 32 0
  /-- grant | - | 14 R389 | none -/
  grant : Option Grant := none
  /-- DBG_WIN_ADDR bits 23:2 | 22 | 14 Table 14.11 | 0 -/
  winAddr : Word := 0
  /-- value last read through the aperture | 32 | 14 R378 | 0 -/
  winData : Word := 0
  /-- DBG_STOP_STATUS.STATE | 2 | 14 Table 14.11 | RUNNING -/
  stop : StopState := .running
  /-- DBG_SCAN_DEST | 64 | 14 Table 14.11 | 0 -/
  scanDest : BitVec 64 := 0
  /-- DBG_WATCH_FENCE | 32 | 14 Table 14.11 | 0 -/
  watchFence : Word := 0
  /-- DBG_WATCH_DEST | 64 | 14 Table 14.11 | 0 -/
  watchDest : BitVec 64 := 0
  /-- CHUNKS | 32 | 14 Table 14.11 | 0 -/
  chunks : Nat := 0
  /-- stop sequence this chip sends next | 32 | 14 R382 | 0 -/
  stopSeq : Nat := 0
  /-- stop sequences seen | 32 each | 14 R382 | none -/
  seen : List Word := []
  /-- scans shifted out: chain class bits (1 CONTROL, 2 DATA) | - | 14 R384 | none -/
  scans : List (BitVec 2) := []
  /-- accord whose stamp units hold requests for a tensor watch | 10 | 14 R385 | none -/
  holding : Option Nat := none
deriving DecidableEq, Repr, Inhabited

/-! ## Faults (chapter 16) -/

/-- A fault as its raiser names it (R407), before the FRS accepts it. -/
structure Raised where
  code : BitVec 8
  /-- UNIT and unit number of Table 16.3 -/
  unit : BitVec 4 := 0
  inst : Nat := 0
  session : Option Nat := none
  cg : Option Nat := none
  /-- queue and ring index of the command -/
  cmd : Option (Nat × Nat) := none
  accord : Nat := 0
  /-- fence and the code to attach (none: named but not attached, R408) -/
  fence : Option Nat := none
  fenceCode : Option (BitVec 8) := none
  detail6 : Word := 0
  detail7 : Word := 0
  /-- default rung; none "—" -/
  rung : Option Nat := none
  /-- unit of a rung 1 -/
  ref : Option UnitRef := none
deriving DecidableEq, Repr, Inhabited

/-- A rung the FRS has chosen and not run yet. -/
inductive Due
  | rung0 (session : Nat) | rung1 (u : UnitRef) | rung2 (accord : Nat)
  /-- with the causing fault's entry (Table 16.7 ENTRY) -/
  | rung3 (entry : List Word) | rung4 (entry : List Word) | rung5 (entry : List Word)
deriving DecidableEq, Repr, Inhabited

/-- The FRS, with the parts that lie in the always-on island. -/
structure Frs where
  /-- faults raised and not accepted yet | - | 16 R407 | empty -/
  raised : List Raised := []
  /-- first source of the FRS's rotation | 7 | 16 R417 | 0 -/
  turn : Nat := 0
  /-- ordinary entries valid, by index | 255 x 256 | 16 R419 | empty -/
  entries : Tab (List Word) := []
  /-- HEAD, TAIL | 8 each | 16 Table 16.10 | 0 -/
  head : Nat := 0
  tail : Nat := 0
  /-- PHASE of the next entry | 1 | 16 R419 | 1 -/
  phase : Bool := true
  /-- overflow record: FIRST, LAST, TOTAL, classes | 256 | 16 R421 | not valid -/
  overflow : Option (Word × Word × Nat × List Nat) := none
  /-- PHASE of entry 255 as last written | 1 | 16 Table 16.5 | 0 -/
  ovPhase : Bool := false
  /-- FRS_RING_CTRL.ENABLE, SPACE | 1 + 2 | 16 Table 16.10 | 0 -/
  ringEnable : Bool := false
  ringSpace : BitVec 2 := 0
  /-- FRS_RING | 64 | 16 Table 16.10 | 0 -/
  ring : BitVec 64 := 0
  /-- FRS_LOST_FIRST, FRS_LOST_LAST | 32 each | 16 R421 | 0 -/
  lostFirst : Word := 0
  lostLast : Word := 0
  /-- FRS_LOST_CLASS, saturating | 8 x 16 | 16 R421 | 0 -/
  lostClass : List Nat := List.replicate 8 0
  /-- faults dropped since the last move to entry 255 -/
  lostTotal : Nat := 0
  /-- FRS_LOSTMAP: session indexes marked | 4,096 | 16 R421 | none -/
  lostMap : List Nat := []
  /-- rungs chosen and not started | - | 16 R410 | empty -/
  due : List Due := []
  /-- rungs in progress | - | 16 R416 | empty -/
  active : List Due := []
  /-- FRS_RUNG_STATUS.LAST | 10 | 16 Table 16.11 | 0 -/
  lastRung2 : Nat := 0
  /-- FRS_WDOG_CTRL ENABLE, PERIOD | 1 + 14 | 16 Table 16.11 | 0, 0x64 -/
  wdogEnable : Bool := false
  wdogPeriod : BitVec 14 := 0x64
  /-- a kick came in the running period | 1 | 16 R418 | false -/
  kicked : Bool := false
  /-- stacks with a capstone failure since block start | - | 16 R425 | none -/
  capFailed : List Nat := []
  /-- LANE_MISMATCH seen, by MPE lane group or port since the last start | - | 16 R412 | none -/
  mismatched : List UnitRef := []
  /-- FRS_RESET_COUNT | 32 | 16 Table 16.11 | 0 -/
  resetCount : Nat := 0
  /-- FRS_DRYDOWN: CAUSE while ACTIVE | 8 | 16 Table 16.11 | none -/
  dryDown : Option (BitVec 8) := none
  /-- fault record | 64 B | 16 R429 | 0 -/
  record : Bytes := List.replicate 64 0
deriving DecidableEq, Repr, Inhabited

/-! ## Events, power, self-test (chapter 17) -/

/-- The BEC. -/
structure Bec where
  /-- BEC_CTRL ENABLE | 1 | 17 Table 17.6 | 0 -/
  enable : Bool := false
  /-- RANK_BITS | 4 | 17 Table 17.6 | 8 -/
  rankBits : Nat := 8
  /-- active stack, top first | 16 x 9 | 17 R438 | empty -/
  stack : List Nat := []
  /-- FROZEN | 1 | 17 R438 | 0 -/
  frozen : Bool := false
  /-- BEC_SRC_CFG by source | 32 each | 17 Table 17.6 | 0 -/
  cfg : Tab Word := []
  /-- edge sources pending | 512 | 17 R436 | none -/
  edges : List Nat := []
  /-- level sources whose message was sent and whose input has not been false since | - | 17 R439 | none -/
  told : List Nat := []
  /-- sources whose input was true when last evaluated | 512 | 17 R436 | none -/
  inputs : List Nat := []
  /-- wake latches | 512 | 17 R442 | none -/
  latched : List Nat := []
  /-- pulses of this step (queue completions, port and bond changes, LC_DONE, CFG_DONE, WAKE_DONE) -/
  pulses : List Nat := []
  /-- In-Band Interrupts sent on the management port: source numbers | - | 17 R439 | none -/
  ibis : List Nat := []
  /-- MSI-X messages sent: function and vector | - | 12 R322 | none -/
  msix : List (Nat × Nat) := []
  /-- MSI-X messages held as pending bits of a quiesced VF | - | 12 R339 | none -/
  msixPending : List (Nat × Nat) := []
deriving DecidableEq, Repr, Inhabited

/-- An entry into a B-state before its VID handshake (R441 steps 1 to 3). -/
structure PowerEntry where
  /-- its POWER_STATE, by started id -/
  cmd : Nat
  /-- B-state asked for | 2 -/
  target : Nat
  /-- time of the command's start in microseconds | 32 -/
  since : Nat
  /-- 0 started commands complete, 1 bonds close, 2 ports drain | 2 -/
  step : Nat := 0
deriving DecidableEq, Repr, Inhabited

/-- Power (R440 to R445). -/
structure Pwr where
  /-- CURRENT | 2 | 17 Table 17.7 | B0 -/
  current : Nat := 0
  /-- LAST | 2 | 17 Table 17.7 | 0 -/
  last : Nat := 0
  /-- VID_WAIT, with the code asked for | 1 + 8 | 17 R444 | none -/
  vidReq : Option (BitVec 8) := none
  /-- WAKE_SOURCE | 9 | 17 Table 17.7 | 0x1FF -/
  wakeSource : Nat := 0x1FF
  /-- VID | 8 | 17 Table 17.7 | 0x32 -/
  vid : BitVec 8 := 0x32
  /-- PWR_VID_TABLE | 32 | 17 Table 17.7 | 0x32280A00 -/
  vidTable : Word := 0x32280A00
  /-- WAKE_10US, ENTRY_10US | 16 each | 17 Table 17.7 | 0 -/
  wake10us : BitVec 16 := 0
  entry10us : BitVec 16 := 0
  /-- an entry that has not reached step 3 of R441 | - | 17 R441 | none -/
  entry : Option PowerEntry := none
  /-- WAKE_SOURCE of a wake event taken while the block sleeps or goes to sleep | 9 | 17 R442 | none -/
  waking : Option Nat := none
  /-- B-state being entered, its handshake not acknowledged yet | 2 | 17 R441 | none -/
  entering : Option Nat := none
  /-- stores and requests that woke the block, applied after the wake: kernel doorbells, host doorbells, requests -/
  wokenDb : List (Nat × Word) := []
  wokenHost : List (Nat × Word) := []
  wokenReq : List (Nat × ComputeReq) := []
  /-- the B3 state image: numbered slots with their attributes, keys wrapped under slot 3 (DESIGN CHOICE, log entries 42 and 92) | 16 MiB | 17 R441 | none -/
  image : Option (Tab Slot) := none
  /-- its SHA-384 digest, in the retention store | 384 | 17 R441 | none -/
  imageDigest : Bytes := []
  /-- ports that were enabled at entry | 32 | 17 R445 | none -/
  portsOn : List Nat := []
  /-- hottest sensor, degrees C, by which TEMP sources and admission are set | - | 17 R451 | 0 -/
  temp : Nat := 0
deriving DecidableEq, Repr, Inhabited

/-- BIST. -/
structure Bist where
  /-- LAST_START | 2 | 17 Table 17.7 | 0 -/
  lastStart : BitVec 2 := 0
  /-- RECORD | 1 | 17 Table 17.7 | 0 -/
  record : Bool := false
  /-- failure entries found | 64 x 64 | 17 Table 17.4 | none -/
  fails : List (BitVec 64) := []
  /-- BIST_FAIL_SEL.INDEX | 6 | 17 Table 17.7 | 0 -/
  failSel : BitVec 6 := 0
  /-- BIST_TE_CMD, BIST_TE_DATA | 32 each | 17 Table 17.7 | 0 -/
  teCmd : Word := 0
  teData : Word := 0
deriving DecidableEq, Repr, Inhabited

/-- A write of a configuration slot in progress (R90, R91). -/
structure FlashJob where
  /-- its CONFIG_UPDATE or TRIM_WRITE, by started id -/
  cmd : Nat
  /-- step of R90 next: 0 erase, 1 sections, 2 header and check | 2 -/
  step : Nat := 0
  /-- target slot: B | 1 -/
  slotB : Bool
  /-- header with its SEQUENCE and CRC | 64 B -/
  header : Bytes
  /-- bytes from 64 on -/
  body : Bytes
  /-- header of the second write of R91, into the other slot | 64 B -/
  again : Option Bytes := none
deriving DecidableEq, Repr, Inhabited

/-- The configuration flash and what the hub read from it at start (chapter 3). -/
structure Cfg where
  /-- SPI flash bytes; an absent one is erased, 0xFF | 32 or 64 MiB | 03 R87 | erased -/
  flash : List Host.Cell := []
  /-- the flash is at least 64 MiB, so that a self-test record is kept | 1 | 17 R446 | true -/
  bigFlash : Bool := true
  /-- the write in progress, UPDATE_BUSY | 1 | 03 Table 3.9 | none -/
  job : Option FlashJob := none
  /-- RECOVERY | 1 | 03 Table 3.9 | 0 -/
  recovery : Bool := false
  /-- slot SEQUENCEs read at start; none when invalid (A_VALID, B_VALID) | 32 each | 03 Tables 3.9-3.11 | none -/
  seqA : Option Word := none
  seqB : Option Word := none
  /-- SELECTED | 1 | 03 Table 3.9 | 0 -/
  selected : Bool := false
  /-- firmware measurement, security version, digests of the sections in use | 384, 8, 384, 384 | 15 Table 15.5 | 0 -/
  fwDigest : BitVec 384 := 0
  svn : BitVec 8 := 0
  /-- COMPOSER_TRUST, BOND_POLICY and TRIMS sections in force, as bytes | - | 03 Table 3.8 | none -/
  trust : Option Bytes := none
  policy : Option Bytes := none
  trims : Option Bytes := none
deriving DecidableEq, Repr, Inhabited

/-! ## Attestation and management (chapter 15) -/

/-- How far the I3C secured session has come (R398). -/
inductive SecState
  | none | exchanged | finished | chainOk | bound
deriving DecidableEq, Repr, Inhabited

/-- The management port. -/
structure Mgmt where
  /-- SESSION and PQ_BOUND, by stage | 2 | 15 Table 15.8 | none -/
  sec : SecState := .none
  /-- SESSIONS, saturating | 16 | 15 Table 15.8 | 0 -/
  sessions : Nat := 0
  /-- leaf certificate digest of the requester | 384 | 15 Table 15.8 | 0 -/
  reqDigest : BitVec 384 := 0
  /-- P-384 keys of the requester's chain: its root and its leaf | 96 B each | 15 R398 | none -/
  reqRoot : Bytes := []
  reqLeaf : Bytes := []
  /-- ML-DSA-65 key of the requester's PQ leaf | 1,952 B | 15 R398 | none -/
  reqMldsa : Bytes := []
  /-- shared secret of the session's key exchange | 48 B | 15 Table 15.3 | none -/
  dhe : Bytes := []
  /-- times KEY_UPDATE renewed the requester's and the responder's session keys | - | 15 R393 | 0 -/
  reqKeys : Nat := 0
  rspKeys : Nat := 0
  /-- TH2 of the session | 384 | 15 R398 | 0 -/
  th2 : BitVec 384 := 0
  /-- unread completion entries of queue 1, oldest first | 64 x 128 | 15 R400 | none -/
  unread : List (List Word) := []
  /-- a COMMAND whose response is outstanding: its ring index, and when it was accepted | 6, time | 15 R399 | none -/
  awaits : Option (Nat × Nat) := none
  /-- messages that arrived while another is handled, oldest first | - | 15 R399 | none -/
  held : List Instr := []
  /-- management responses sent: STATUS and data | - | 15 R399 | none -/
  out : List (BitVec 8 × Bytes) := []
  /-- SPDM responder state: PCIe, I3C -/
  pcie : Spdm := {}
  i3c : Spdm := {}
deriving DecidableEq, Repr, Inhabited

/-- The always-on island and its retention store. -/
structure Aon where
  /-- started (the island runs) | 1 | 14 R366 | false -/
  up : Bool := false
  /-- always-on cycles since the island started | 64 | 16 Table 16.7 | 0 -/
  time : BitVec 64 := 0
  /-- FRS_CHIP_RESET_REQ | 1 | 01 Table 1.16 | 0 -/
  chipResetReq : Bool := false
  /-- AON_PWR_CYCLE_REQ | 1 | 01 Table 1.16 | 0 -/
  pwrCycleReq : Bool := false
  /-- AON_GLITCH_N: lines that are low | 25 | 01 Table 1.16 | none -/
  glitch : List Nat := []
  /-- a copy of the DeviceID secret parts is held: CDI_0 | 384 | 16 R431 | none -/
  deviceKey : Option Bytes := none
  /-- responses to always-on messages: code, STATUS, data | - | 16 R430 | none -/
  out : List (BitVec 8 × BitVec 8 × Bytes) := []
deriving DecidableEq, Repr, Inhabited

/-! ## The whole block -/

/-- The state of the block. -/
structure State where
  /-- commands that wait, first in first out | - | MODEL | empty -/
  pending : List Instr := []
  /-- start-up complete: the block takes traffic | 1 | 17 R447 | false -/
  up : Bool := false
  /-- microseconds since block start | 32 | 16 Table 16.3 TIME | 0 -/
  time : Nat := 0
  /-- MODEL: how many free values the run has drawn (raw noise and every other value the spec leaves open) | - | 05 R144 -/
  draws : Nat := 0
  /-- MODEL: order stamp for least-recently-used choices | - | 02 R62 | 0 -/
  stamp : Nat := 0
  /-- this chip's fabric chip ID | 16 | 03 Table 3.3 | 0 -/
  chipId : Nat := 0
  /-- silicon stepping | 8 | 01 Table 1.10 | A0 -/
  stepping : BitVec 8 := 0
  /-- HUB_FW_VERSION | 32 | 01 Table 1.12 | 0 -/
  fwVersion : Word := 0
  /-- HUB_FW_VERSION has been written since block reset | 1 | 01 Table 1.12 | false -/
  fwWritten : Bool := false
  /-- HUB_UNIT_OK0, HUB_UNIT_OK1 | 32 each | 01 Tables 1.14, 1.15 | 0 -/
  unitOk0 : Word := 0
  unitOk1 : Word := 0
  /-- HUB_SCRUB_RATE.RATE | 8 | 02 Table 2.13 | 4 -/
  scrubRate : BitVec 8 := 4
  /-- FOREIGN_DB, saturating | 8 | 04 Table 4.17 | 0 -/
  foreignDb : Nat := 0
  /-- mortar links down, by number; CRC failures in a row by link | - | 01 R20 | none -/
  linksDown : List Nat := []
  linkTries : Tab Nat := []
  /-- each world's copies of the selection registers, keyed world * 2^24 + offset | 32 each | 02 R72, 04 R118 | 0 -/
  sels : Tab Word := []
  /-- captured _HI halves, keyed world * 2^24 + offset of _HI | 32 each | 04 R118 | 0 -/
  caps : Tab Word := []
  /-- object generations, keyed type * 2^20 + index | 8 each | 04 R94 | 0 -/
  gens : Tab (BitVec 8) := []
  sessions : Tab Session := []
  queues : Tab Queue := []
  fences : Tab Fence := []
  regions : Tab Region := []
  bonds : Tab Bond := []
  keyObjs : Tab KeyObj := []
  /-- updates ready at the fence unit, oldest first | - | 04 R108 | none -/
  fenceReady : List FenceUpdate := []
  /-- first source of the fence unit's rotation | 1 | 04 R108 | 0 -/
  fenceTurn : Nat := 0
  /-- first queue of the command processor's rotation | 10 | 04 R100 | 0 -/
  queueTurn : Nat := 0
  /-- started commands by id | - | 04 R100 | none -/
  started : Tab Started := []
  nextId : Nat := 0
  /-- accords by local index | 1,024 | 02 R50 | all FREE but ROOT and OPEN -/
  accords : Tab Accord := []
  /-- FLACON_SEQ by local index | 32 | 05 R141 | 0 -/
  flaconSeq : Tab (BitVec 32) := []
  /-- channels, ports and core groups, absent FREE | 256, 32, 256 | 02 R44 | FREE -/
  channels : Tab Res := []
  portRes : Tab Res := []
  groups : Tab Res := []
  /-- KSF slots | 256 | 05 R119 | EMPTY -/
  slots : Tab Slot := []
  /-- ROOTS_LOADED | 1 | 05 Table 5.12 | 0 -/
  rootsLoaded : Bool := false
  /-- DRBG_READY | 1 | 05 Table 5.18 | 0 -/
  drbgReady : Bool := false
  /-- ENTROPY_FAIL | 1 | 05 Table 5.18 | 0 -/
  entropyFail : Bool := false
  /-- generate requests since the last reseed | 17 | 05 R145 | 0 -/
  drbgRequests : Nat := 0
  /-- time of the last reseed, in microseconds | 32 | 05 R145 | 0 -/
  drbgSince : Nat := 0
  /-- Key and V of the CTR_DRBG, empty until it is instantiated | 256 + 128 | 05 R145 | empty -/
  drbgKey : Bytes := []
  drbgV : Bytes := []
  /-- the MPE key registers hold the class S key and ROOT's keys | 1 | 05 R122, R139, R147 | false -/
  mpeKeys : Bool := false
  /-- FILLS, SPILLS | 16 each | 05 Table 5.19 | 0 -/
  fills : BitVec 16 := 0
  spills : BitVec 16 := 0
  /-- ROOT's epochs by stack (kept in hub SRAM and the retention store) | - | 05 R139 -/
  mpes : Tab Mpe := []
  cores : Tab Core := []
  /-- RESERVATION_SHORTFALL events raised: local index, stack, delivered fraction in 1/256 | 10, 3, 8 | 02 R68 | none -/
  shortfalls : List (Nat × Nat × Nat) := []
  /-- responses returned to compute: core group, tag, STATUS, data | - | 01 Table 1.18 | none -/
  responses : List (Nat × BitVec 16 × BitVec 2 × Bytes) := []
  ports : Tab Port := []
  otus : Tab Otu := []
  /-- stage-2 extents | 16,384 | 11 R300 | none -/
  extents : List Extent := []
  mailboxRoot : Mailbox := {}
  mailboxHost : Mailbox := {}
  invalidations : Tab Invalidation := []
  hpe : Hpe := {}
  /-- HUB space: the staging area and firmware memory, by address | - | 15 R400 | nothing written -/
  hubMem : List Host.Cell := []
  gce : Gce := {}
  cvus : Tab Cvu := []
  otp : Otp := {}
  lcc : Lcc := {}
  dbg : Dbg := {}
  frs : Frs := {}
  bec : Bec := {}
  pwr : Pwr := {}
  bist : Bist := {}
  cfg : Cfg := {}
  mgmt : Mgmt := {}
  aon : Aon := {}
deriving DecidableEq, Repr, Inhabited

/-- Why a step stops with a fault. -/
inductive Fault
  /-- Raised by no meaning: every input the types of Instr allow has an effect. Kept so that the type is not empty. Safe. -/
  | illFormed
deriving DecidableEq, Repr

/-- Why a step is refused. -/
inductive Refusal
  /-- Raised by an arm of exec whose meaning is not written yet. Safe: nothing is claimed of it. -/
  | notModelled (mnemonic : String)
deriving DecidableEq, Repr

/-- The machine right after reset: no start-up step has run. Sessions and queues 0 to 2 exist (R95; the reset values
of HUB_OBJ_USE0 count them). ROOT and OPEN hold local indexes 0 and 1 (Table 2.2). (DESIGN CHOICE, log entry 11; DESIGN
CHOICE, log entry 34; DESIGN CHOICE, log entry 55) -/
def State.reset : State where
  sessions := [(0, { world := .root, side := .device, dref := 1 }),
               (1, { world := .mgmt, side := .host, creator := 1, dref := 1 }),
               (2, { world := .host, side := .host, fn := some 0, creator := 2, dref := 1 })]
  queues := [(0, { session := 0 }), (1, { session := 1 }), (2, { session := 2, space := .host, log2 := 4 })]
  accords := [(0, { state := .live, gid := 0 }), (1, { state := .live, gid := 1, classes := 1 })]

end Sys2Proof.Machine
end

