-- ==== Sys2Proof/Machine/Ops.lean ====
section
/-! DEFINITION. The named operations every meaning is built from: sparse tables, byte memories, byte strings, bit
fields, saturating counts, the units of State by number, and raising a fault. -/

namespace Sys2Proof.Machine

/-! ## Sparse tables -/

/-- The entry of `t` at key `k`. -/
def tget {α : Type} (t : Tab α) (k : Nat) : Option α :=
  match t with
  | [] => none
  | (j, v) :: r => if j = k then some v else tget r k

/-- `t` with key `k` set to `v`, keys strictly rising. -/
def tset {α : Type} (t : Tab α) (k : Nat) (v : α) : Tab α :=
  match t with
  | [] => [(k, v)]
  | (j, w) :: r => if k < j then (k, v) :: (j, w) :: r else if k = j then (k, v) :: r else (j, w) :: tset r k v

/-- `t` without key `k`. -/
def tdel {α : Type} (t : Tab α) (k : Nat) : Tab α := t.filter fun e => e.1 != k

/-- The entry at `k`, or `d`. -/
def tgetD {α : Type} (t : Tab α) (k : Nat) (d : α) : α := (tget t k).getD d

/-- The least index below `limit`, from `lo`, that `t` does not hold. (DESIGN CHOICE, log entry 9) -/
def tfree {α : Type} (t : Tab α) (lo limit : Nat) : Option Nat :=
  ((List.range (limit - lo)).map (· + lo)).find? fun k => (tget t k).isNone

/-- An entry of a table changed where it stands. -/
def tupd {α : Type} (t : Tab α) (k : Nat) (f : α → α) : Tab α :=
  match tget t k with
  | some v => tset t k (f v)
  | none => t

/-- Every entry changed by `f`. -/
def tmap {α : Type} (t : Tab α) (f : Nat → α → α) : Tab α := t.map fun e => (e.1, f e.1 e.2)

/-! ## Byte memories in canonical form: addresses strictly rising, no byte equal to the default -/

/-- What an address of `m` reads as; `d` is what an unlisted address reads as. (DESIGN CHOICE, log entry 34) -/
def memRead (m : List Host.Cell) (d : Byte) (a : Nat) : Byte := (tget m a).getD d

/-- `m` with byte `b` at `a`. (DESIGN CHOICE, log entry 34) -/
def memWrite (m : List Host.Cell) (d : Byte) (a : Nat) (b : Byte) : List Host.Cell :=
  if b = d then tdel m a else tset m a b

/-- The canonical form of a byte memory whose unlisted addresses read as `d`. (DESIGN CHOICE, log entry 34) -/
def Memory.wf (m : List Host.Cell) (d : Byte) : Bool :=
  match m with
  | [] => true
  | (a, b) :: r => b != d && (r.all fun e => a < e.1) && Memory.wf r d

/-- `len` bytes from `a`. -/
def memReadBytes (m : List Host.Cell) (d : Byte) (a len : Nat) : Bytes :=
  match len with
  | 0 => []
  | n + 1 => memRead m d a :: memReadBytes m d (a + 1) n

/-- The bytes `bs` written from `a` on. -/
def memWriteBytes (m : List Host.Cell) (d : Byte) (a : Nat) (bs : Bytes) : List Host.Cell :=
  match bs with
  | [] => m
  | b :: r => memWriteBytes (memWrite m d a b) d (a + 1) r

/-! ## Byte strings and words -/

/-- A byte string read little-endian. -/
def leNat (b : Bytes) : Nat :=
  match b with
  | [] => 0
  | x :: r => x.toNat + 256 * leNat r

/-- A byte string read big-endian. -/
def beNat (b : Bytes) : Nat := b.foldl (fun n x => 256 * n + x.toNat) 0

/-- `len` bytes of `n`, little-endian. -/
def toLE (n len : Nat) : Bytes :=
  match len with
  | 0 => []
  | k + 1 => BitVec.ofNat 8 n :: toLE (n / 256) k

/-- `len` bytes of `n`, big-endian. -/
def toBE (n len : Nat) : Bytes := (toLE n len).reverse

/-- `len` bytes of `b` from `off`; bytes past the end read as zero. -/
def bslice (b : Bytes) (off len : Nat) : Bytes :=
  let r := (b.drop off).take len
  r ++ List.replicate (len - r.length) 0

/-- The little-endian field of `len` bytes at `off`. -/
def leField (b : Bytes) (off len : Nat) : Nat := leNat (bslice b off len)

/-- `b` with the bytes `v` put at `off`. -/
def bput (b : Bytes) (off : Nat) (v : Bytes) : Bytes := bslice b 0 off ++ v ++ b.drop (off + v.length)

/-- Exclusive or of two byte strings, as long as the shorter. -/
def bxor (a b : Bytes) : Bytes := List.zipWith (· ^^^ ·) a b

/-- `n` zero bytes. -/
def zeros (n : Nat) : Bytes := List.replicate n 0

/-- The 32-bit words of a byte string, little-endian. -/
def wordsOf (b : Bytes) : List Word :=
  (List.range (b.length / 4)).map fun i => BitVec.ofNat 32 (leField b (4 * i) 4)

/-- The bytes of 32-bit words, little-endian. -/
def bytesOf (w : List Word) : Bytes := w.flatMap fun x => toLE x.toNat 4

/-- A byte string cut into pieces of `n` bytes, the last one as long as it is. -/
def chunks (n : Nat) (b : Bytes) : List Bytes :=
  (List.range ((b.length + n - 1) / n)).map fun i => (b.drop (n * i)).take n

/-- ASCII bytes. -/
def ascii (s : String) : Bytes := s.toList.map fun c => BitVec.ofNat 8 c.toNat

/-- Word `i` of a list, zero past its end. -/
def wd (w : List Word) (i : Nat) : Word := (w[i]?).getD 0

/-- Words `i` (low) and `i + 1` (high) as one 64-bit value. -/
def wd2 (w : List Word) (i : Nat) : BitVec 64 := (wd w (i + 1)) ++ (wd w i)

/-- Bits `hi:lo` of a word, as a number. -/
def fld {n : Nat} (w : BitVec n) (hi lo : Nat) : Nat := (w.toNat / 2 ^ lo) % 2 ^ (hi + 1 - lo)

/-- Bit `i` of a word. -/
def bit {n : Nat} (w : BitVec n) (i : Nat) : Bool := w.getLsbD i

/-- One bit as a number. -/
def b2n (b : Bool) : Nat := if b then 1 else 0

/-- A 32-bit word built from fields `(value, lowest bit)`. -/
def pack (fs : List (Nat × Nat)) : Word := BitVec.ofNat 32 (fs.foldl (fun a f => a + f.1 * 2 ^ f.2) 0)

/-- `n + k`, saturating at `2^w - 1`. -/
def satAdd (w n k : Nat) : Nat := Nat.min (n + k) (2 ^ w - 1)

/-! ## Small codings -/

/-- The world numbers of HUB-side fields (Table 5.3 WORLDS bit order). -/
def worldNum : World → Nat
  | .root => 0 | .mgmt => 1 | .host => 2 | .tenant => 3 | .debug => 4

/-- The world of a number (W8 [2:0] of SESSION_OPEN). -/
def worldOf : Nat → Option World
  | 0 => some .root | 1 => some .mgmt | 2 => some .host | 3 => some .tenant | 4 => some .debug | _ => none

/-- CLASS encodings, Table 6.1. -/
def clsNum : Cls → Nat
  | .s => 0 | .c => 1 | .r => 2

/-- The class of an encoding; 0b11 is reserved. -/
def clsOf : Nat → Option Cls
  | 0 => some .s | 1 => some .c | 2 => some .r | _ => none

/-- Command status values, Table 4.7. -/
def statusCode : Status → Nat
  | .ok => 0x00 | .rejected => 0x01 | .badOpcode => 0x02 | .reservedNonzero => 0x03 | .badHandle => 0x04
  | .staleHandle => 0x05 | .noAccess => 0x06 | .world => 0x07 | .lifeCycle => 0x08 | .limit => 0x09 | .busy => 0x0A
  | .resourceBusy => 0x0B | .refOverflow => 0x0C | .refUnderflow => 0x0D | .badOperand => 0x0E
  | .sequenceExhausted => 0x0F | .aborted => 0x10 | .timeout => 0x11 | .waitFailed => 0x12

/-! ## The units of State -/

/-- MPE `m` with the stack behind it. -/
def getMpe (s : State) (m : Nat) : Mpe := tgetD s.mpes m {}
/-- MPE `m` replaced. -/
def setMpe (s : State) (m : Nat) (x : Mpe) : State := { s with mpes := tset s.mpes m x }
/-- MPE `m` changed by `f`. -/
def updMpe (s : State) (m : Nat) (f : Mpe → Mpe) : State := setMpe s m (f (getMpe s m))
/-- Port `p`. -/
def getPort (s : State) (p : Nat) : Port := tgetD s.ports p {}
/-- Port `p` replaced. -/
def setPort (s : State) (p : Nat) (x : Port) : State := { s with ports := tset s.ports p x }
/-- Port `p` changed by `f`. -/
def updPort (s : State) (p : Nat) (f : Port → Port) : State := setPort s p (f (getPort s p))
/-- OTU `o` (0 to 7: LPE clusters; 8: the HPE's). -/
def getOtu (s : State) (o : Nat) : Otu := tgetD s.otus o {}
/-- OTU `o` changed by `f`. -/
def updOtu (s : State) (o : Nat) (f : Otu → Otu) : State := { s with otus := tset s.otus o (f (getOtu s o)) }
/-- Core group `cg` as its stamp unit holds it. -/
def getCore (s : State) (cg : Nat) : Core := tgetD s.cores cg {}
/-- Core group `cg` changed by `f`. -/
def updCore (s : State) (cg : Nat) (f : Core → Core) : State := { s with cores := tset s.cores cg (f (getCore s cg)) }
/-- Accord at local index `a`. -/
def getAccord (s : State) (a : Nat) : Accord := tgetD s.accords a {}
/-- Accord `a` changed by `f`. -/
def updAccord (s : State) (a : Nat) (f : Accord → Accord) : State :=
  { s with accords := tset s.accords a (f (getAccord s a)) }
/-- Slot `i` of the KSF. -/
def getSlot (s : State) (i : Nat) : Slot := tgetD s.slots i {}
/-- Slot `i` changed by `f`. -/
def updSlot (s : State) (i : Nat) (f : Slot → Slot) : State := { s with slots := tset s.slots i (f (getSlot s i)) }
/-- Bond `b`, absent FREE. -/
def getBond (s : State) (b : Nat) : Bond := tgetD s.bonds b {}
/-- Bond `b` changed by `f`. -/
def updBond (s : State) (b : Nat) (f : Bond → Bond) : State := { s with bonds := tset s.bonds b (f (getBond s b)) }
/-- Virtual function `v`, from 1 to 63. -/
def getVf (s : State) (v : Nat) : Vf := tgetD s.hpe.vfs v {}
/-- Virtual function `v` changed by `f`. -/
def updVf (s : State) (v : Nat) (f : Vf → Vf) : State :=
  { s with hpe := { s.hpe with vfs := tset s.hpe.vfs v (f (getVf s v)) } }

/-- The table a resource kind lives in. -/
def resTab (s : State) : ResKind → Tab Res
  | .channel => s.channels | .port => s.portRes | .coreGroup => s.groups

/-- Resource `i` of kind `k`. -/
def getRes (s : State) (k : ResKind) (i : Nat) : Res := tgetD (resTab s k) i {}

/-- Resource `i` of kind `k` replaced. -/
def setRes (s : State) (k : ResKind) (i : Nat) (r : Res) : State :=
  match k with
  | .channel => { s with channels := tset s.channels i r }
  | .port => { s with portRes := tset s.portRes i r }
  | .coreGroup => { s with groups := tset s.groups i r }

/-- The single owner of an exclusive resource that is BOUND. -/
def boundTo (s : State) (k : ResKind) (i a : Nat) : Bool :=
  let r := getRes s k i
  r.state == .bound && r.owners.contains a

/-- A fresh order stamp. -/
def nextStamp (s : State) : Nat × State := (s.stamp, { s with stamp := s.stamp + 1 })

/-- Accord `a` is used now (R62: the order of last requests). -/
def touchAccord (s : State) (a : Nat) : State :=
  if a < 2 then s
  else { updAccord s a (fun x => { x with lastUse := s.stamp }) with stamp := s.stamp + 1 }

/-- The pulse of event source `n` (Table 17.1). -/
def pulse (s : State) (n : Nat) : State := { s with bec := { s.bec with pulses := s.bec.pulses ++ [n] } }

/-- Port `p`, or a bond over it, changed state: source 16 + p. -/
def pulsePort (s : State) (p : Nat) : State := pulse s (16 + p)

/-- An event to the owner of accord `a` (R435): bit `e` of its owner word. -/
def ownerEvent (s : State) (a e : Nat) : State :=
  updAccord s a fun x => { x with ownerEvents := x.ownerEvents ||| BitVec.ofNat 6 (2 ^ e) }

/-! ## Where the block stands -/

/-- The block is in dry-down (R426). -/
def inDry (s : State) : Bool := s.frs.dryDown.isSome

/-- Block start is complete, and neither a sleep nor a global stop holds the islands. -/
def running (s : State) : Bool :=
  s.up && s.pwr.current == 0 && s.pwr.entering.isNone && s.dbg.stop == .running

/-- The block serves commands and traffic: running and not in dry-down. -/
def live (s : State) : Bool := running s && !inDry s

/-- Whether MPE `n` is in service (R39, Table 1.14). -/
def mpeOk (s : State) (n : Nat) : Bool := bit s.unitOk0 (n % 8)
/-- Whether LPE cluster `n`, with its OTU, is in service. -/
def lpeOk (s : State) (n : Nat) : Bool := bit s.unitOk0 (8 + n % 8)
/-- Whether stamp unit `k` is in service. -/
def stOk (s : State) (k : Nat) : Bool := bit s.unitOk0 (16 + k % 16)
/-- Whether the HPE is in service (Table 1.15). -/
def hpeOk (s : State) : Bool := bit s.unitOk1 7

/-- The idle tick: one microsecond of block time and 100 always-on cycles (DESIGN CHOICE, log entry 2). Time stands still where
the islands do (R445). -/
def tick (s : State) : State :=
  let s := if running s then { s with time := s.time + 1 } else s
  if s.aon.up then { s with aon := { s.aon with time := s.aon.time + 100 } } else s

/-! ## Faults as a unit raises them (R407, R423) -/

/-- A raised fault joins the faults that wait for the FRS. Requests refused in dry-down raise none (R426). (DEDUCED,
log entry 14) -/
def raise (s : State) (f : Raised) : State :=
  if inDry s then s else { s with frs := { s.frs with raised := s.frs.raised ++ [f] } }

/-- UNIT numbers of Table 16.3. -/
def unitHub : BitVec 4 := 0
/-- MPE. -/
def unitMpe : BitVec 4 := 1
/-- LPE port. -/
def unitPort : BitVec 4 := 2
/-- HPE. -/
def unitHpe : BitVec 4 := 3
/-- Stamp unit. -/
def unitSt : BitVec 4 := 4
/-- Mortar switch. -/
def unitMortar : BitVec 4 := 5
/-- Always-on island. -/
def unitAon : BitVec 4 := 6
/-- OTU. -/
def unitOtu : BitVec 4 := 7

/-- The context of a fault on a request of a core group of accord `a` (R407). -/
def coreFault (s : State) (code : BitVec 8) (unit : BitVec 4) (inst cg a : Nat) (fence : BitVec 8) : Raised :=
  let sess := (getCore s cg).session
  { code := code, unit := unit, inst := inst, cg := some cg, accord := a, session := sess
    fence := (sess.bind (tget s.sessions ·)).bind (·.faultFence), fenceCode := some fence }

/-- The context of a fault on work that started command `id` issued (R407). -/
def commandFault (s : State) (code : BitVec 8) (unit : BitVec 4) (inst id a : Nat) (fence : BitVec 8) : Raised :=
  match tget s.started id with
  | some c =>
    { code := code, unit := unit, inst := inst, accord := a, session := some c.session, cmd := some (c.queue, c.ring)
      fence := if bit (wd c.words 0) 16 then some (fld (wd c.words 1) 19 0) else none, fenceCode := some fence }
  | none => { code := code, unit := unit, inst := inst, accord := a }

/-- The context of a fault on a request, by where the request came from (R407). -/
def originFault (s : State) (o : Origin) (code : BitVec 8) (unit : BitVec 4) (inst a : Nat) (fence : BitVec 8) :
    Raised :=
  match o with
  | .core cg _ => coreFault s code unit inst cg a fence
  | .command id => commandFault s code unit inst id a fence
  | .remote _ _ _ => { code := code, unit := unit, inst := inst, accord := a }
  | .gateway _ _ _ => { code := code, unit := unit, inst := inst, accord := a }
  | .block => { code := code, unit := unit, inst := inst, accord := a }

/-! ## Open values -/

/-- An open value, free (DESIGN CHOICE, log entry 3). -/
def drawNat (s : State) : State × Nat := ({ s with draws := s.draws + 1 }, Config.freeNat s.draws)

end Sys2Proof.Machine
end

