-- ==== Sys2Proof/Machine/Axu.lean ====
section
/-! DEFINITION. What an atomic computes (chapter 8): the number formats of Table 8.5 as exact values, the operations of
Table 8.4, cells (R228, R229), validity (R216) and the conversions of FOLD (R233). Everything here is arithmetic on bytes. -/

namespace Sys2Proof.Machine

/-! ## Exact values -/

/-- A binary floating format: exponent and fraction widths, bias; `sat`: E4M3, without infinity. -/
structure FloatFmt where
  ebits : Nat
  fbits : Nat
  bias : Nat
  sat : Bool := false

/-- FP64, as FOLD writes it. -/
def fp64 : FloatFmt := { ebits := 11, fbits := 52, bias := 1023 }
/-- FP32. -/
def fp32 : FloatFmt := { ebits := 8, fbits := 23, bias := 127 }
/-- BF16. -/
def bf16 : FloatFmt := { ebits := 8, fbits := 7, bias := 127 }
/-- FP16. -/
def fp16 : FloatFmt := { ebits := 5, fbits := 10, bias := 15 }
/-- E4M3. -/
def e4m3 : FloatFmt := { ebits := 4, fbits := 3, bias := 7, sat := true }
/-- E5M2. -/
def e5m2 : FloatFmt := { ebits := 5, fbits := 2, bias := 15 }

/-- A decoded value: `fin neg m e` is ± m × 2^e, with a sign also for zero. -/
inductive FVal
  | nan | inf (neg : Bool) | fin (neg : Bool) (m : Nat) (e : Int)
deriving DecidableEq, Repr

/-- The exponent of the least significant bit of a subnormal. -/
def emin (f : FloatFmt) : Int := 1 - (f.bias : Int) - (f.fbits : Int)

/-- The value of an encoding. -/
def fdecode (f : FloatFmt) (n : Nat) : FVal :=
  let frac := n % 2 ^ f.fbits
  let ex := n / 2 ^ f.fbits % 2 ^ f.ebits
  let neg : Bool := n / 2 ^ (f.fbits + f.ebits) % 2 == 1
  let top := 2 ^ f.ebits - 1
  if f.sat then
    if ex = top ∧ frac = 2 ^ f.fbits - 1 then .nan
    else if ex = 0 then .fin neg frac (emin f) else .fin neg (frac + 2 ^ f.fbits) (emin f + ex - 1)
  else if ex = top then (if frac = 0 then .inf neg else .nan)
  else if ex = 0 then .fin neg frac (emin f) else .fin neg (frac + 2 ^ f.fbits) (emin f + ex - 1)

/-- m / 2^r rounded to nearest, ties to even. -/
def roundShift (m r : Nat) : Nat :=
  let q := m / 2 ^ r
  let rem := m % 2 ^ r
  if 2 * rem > 2 ^ r ∨ (2 * rem = 2 ^ r ∧ q % 2 = 1) then q + 1 else q

/-- The encoding of ± m × 2^e in a format, rounded to nearest with ties to even; whether the rounding changed it; and
whether it became infinite. -/
def fencode (f : FloatFmt) (neg : Bool) (m : Nat) (e : Int) : Nat × Bool × Bool :=
  let sign := b2n neg * 2 ^ (f.fbits + f.ebits)
  if m = 0 then (sign, false, false)
  else
    let len : Int := (Nat.log2 m : Int) + 1
    let q0 := max (len + e - (f.fbits + 1)) (emin f)
    let (mant0, inexact) :=
      if q0 ≤ e then (m * 2 ^ (e - q0).toNat, false)
      else (roundShift m (q0 - e).toNat, decide (m % 2 ^ (q0 - e).toNat ≠ 0))
    let (mant, q) := if mant0 = 2 ^ (f.fbits + 1) then (2 ^ f.fbits, q0 + 1) else (mant0, q0)
    let body := if mant < 2 ^ f.fbits then mant else (q - emin f + 1).toNat * 2 ^ f.fbits + (mant - 2 ^ f.fbits)
    let infBody := (2 ^ f.ebits - 1) * 2 ^ f.fbits
    if f.sat then
      let maxBody := infBody + 2 ^ f.fbits - 2
      if body > maxBody then (sign + maxBody, true, false) else (sign + body, inexact, false)
    else if body ≥ infBody then (sign + infBody, true, true) else (sign + body, inexact, false)

/-- The canonical NaN of Table 8.5. -/
def canonNan (f : FloatFmt) : Nat :=
  if f.sat then 2 ^ (f.ebits + f.fbits) - 1 else (2 ^ f.ebits - 1) * 2 ^ f.fbits + 2 ^ (f.fbits - 1)

/-- The encoding of infinity. -/
def infEnc (f : FloatFmt) (neg : Bool) : Nat := b2n neg * 2 ^ (f.fbits + f.ebits) + (2 ^ f.ebits - 1) * 2 ^ f.fbits

/-- ± m × 2^e as an integer multiple of 2^d, for d ≤ e. -/
def scaled (neg : Bool) (m : Nat) (e d : Int) : Int :=
  let v : Int := (m * 2 ^ (e - d).toNat : Nat)
  if neg then -v else v

/-- IEEE addition of two encodings (Table 8.4). -/
def fadd (f : FloatFmt) (a b : Nat) : Nat :=
  match fdecode f a, fdecode f b with
  | .nan, _ => canonNan f
  | _, .nan => canonNan f
  | .inf s, .inf t => if s = t then infEnc f s else canonNan f
  | .inf s, _ => infEnc f s
  | _, .inf t => infEnc f t
  | .fin s m e, .fin t k d =>
    let g := min e d
    let v := scaled s m e g + scaled t k d g
    if v = 0 then b2n (s && t) * 2 ^ (f.fbits + f.ebits)
    else (fencode f (decide (v < 0)) v.natAbs g).1

/-- Whether encoding `a` orders below `b`, with −0 below +0; neither is a NaN. -/
def flt (f : FloatFmt) (a b : Nat) : Bool :=
  match fdecode f a, fdecode f b with
  | .inf s, .inf t => s && !t
  | .inf s, _ => s
  | _, .inf t => !t
  | .fin s m e, .fin t k d =>
    let g := min e d
    let x := scaled s m e g
    let y := scaled t k d g
    x < y || (x == y && s && !t)
  | _, _ => false

/-- IEEE minimum or maximum (Table 8.4). -/
def fminmax (f : FloatFmt) (isMax : Bool) (a b : Nat) : Nat :=
  if fdecode f a = .nan ∨ fdecode f b = .nan then canonNan f
  else if flt f a b then (if isMax then b else a) else (if isMax then a else b)

/-! ## Formats (Table 8.3) -/

/-- Bytes of an element of a format; none when reserved. -/
def fmtSize : Nat → Option Nat
  | 0 => some 4 | 1 => some 8 | 2 => some 4 | 3 => some 2 | 4 => some 2 | 5 => some 1 | 6 => some 1
  | 7 => some 4 | 8 => some 8 | _ => none

/-- The floating format of a FMT value. -/
def floatOf : Nat → Option FloatFmt
  | 2 => some fp32 | 3 => some bf16 | 4 => some fp16 | 5 => some e4m3 | 6 => some e5m2 | _ => none

/-- An n-byte field as a two's-complement integer. -/
def toSigned (bytes n : Nat) : Int := if n ≥ 2 ^ (8 * bytes - 1) then (n : Int) - 2 ^ (8 * bytes) else n

/-- An integer modulo 2^(8 × bytes). -/
def ofSigned (bytes : Nat) (v : Int) : Nat := (v % 2 ^ (8 * bytes)).toNat

/-- ADD, MIN and MAX on one element; `op` is the AOP. -/
def plainOp (op fmt : Nat) (old arg : Nat) : Nat :=
  let size := (fmtSize fmt).getD 4
  match floatOf fmt with
  | some f => if op = 0 then fadd f old arg else fminmax f (op == 2) old arg
  | none =>
    if op = 0 then (old + arg) % 2 ^ (8 * size)
    else
      let lt : Bool := if fmt ≥ 7 then decide (old < arg) else decide (toSigned size old < toSigned size arg)
      if lt then (if op = 2 then arg else old) else (if op = 2 then old else arg)

/-! ## The control word and validity -/

/-- AOP. -/
def aopOf (c : BitVec 32) : Nat := fld c 31 28
/-- FMT. -/
def fmtOf (c : BitVec 32) : Nat := fld c 27 24
/-- WIDTH. -/
def widthOf (c : BitVec 32) : Nat := fld c 23 22
/-- VECTOR. -/
def isVector (c : BitVec 32) : Bool := bit c 21
/-- RETURN. -/
def wantsOld (c : BitVec 32) : Bool := bit c 20

/-- Bytes of a target element of an operation. -/
def elemSize (c : BitVec 32) : Nat :=
  match aopOf c with
  | 3 => 4 * 2 ^ widthOf c
  | 4 => 4 * 2 ^ widthOf c
  | 5 => 8
  | 6 => 64
  | 7 => 64
  | _ => (fmtSize (fmtOf c)).getD 64

/-- Whether AOP, FMT, WIDTH and VECTOR are a combination of Table 8.2 and the reserved bits are zero. -/
def controlValid (c : BitVec 32) : Bool :=
  let fmt := fmtOf c
  let combo : Bool := match aopOf c with
    | 0 => fmt ≤ 6 && widthOf c == 0
    | 1 => fmt ≤ 8 && widthOf c == 0
    | 2 => fmt ≤ 8 && widthOf c == 0
    | 3 => fmt == 0 && widthOf c != 3 && !isVector c
    | 4 => fmt == 0 && widthOf c != 3 && !isVector c
    | 5 => fmt ≤ 6 && widthOf c == 0
    | 6 => fmt ≤ 6 && widthOf c == 0 && !isVector c
    | 7 => fmt == 0 && widthOf c == 0 && !isVector c
    | _ => false
  combo && fld c 19 0 == 0

/-- Whether every mask bit of element `i` of `size` bytes is set. -/
def maskFull (mask : BitVec 64) (size i : Nat) : Bool := fld mask (size * i + size - 1) (size * i) == 2 ^ size - 1
/-- Whether none is. -/
def maskNone (mask : BitVec 64) (size i : Nat) : Bool := fld mask (size * i + size - 1) (size * i) == 0

/-- R216: whether an atomic at byte `off` of its line is valid. -/
def atomicValid (c : BitVec 32) (mask : BitVec 64) (off : Nat) : Bool :=
  let size := elemSize c
  controlValid c
    && (if isVector c then off == 0 && (List.range (64 / size)).all fun i => maskFull mask size i || maskNone mask size i
        else off % size == 0)

/-! ## Cells (R228, R229) -/

/-- The addend of an operand element: an integer or a floating value. -/
def addendOf (fmt : Nat) (operand : Bytes) (k : Nat) : FVal :=
  let size := (fmtSize fmt).getD 4
  let n := leField operand (size * k) size
  match floatOf fmt with
  | some f => fdecode f n
  | none => let v := toSigned size n; .fin (decide (v < 0)) v.natAbs 0

/-- a / 2^f rounded to the nearest integer, ties to even, and whether a / 2^f is no integer. -/
def gridRound (neg : Bool) (m : Nat) (e f : Int) : Int × Bool :=
  let d := e - f
  let (v, loss) := if d ≥ 0 then (m * 2 ^ d.toNat, false)
                   else (roundShift m (-d).toNat, decide (m % 2 ^ (-d).toNat ≠ 0))
  (if neg then -(v : Int) else (v : Int), loss)

/-- What a cell operation did to the flags of R230. -/
structure CellFlags where
  overflow : Bool := false
  invalid : Bool := false
  loss : Nat := 0
deriving DecidableEq, Repr

/-- One accumulator of `bytes` bytes on grid 2^f takes one addend. -/
def cellAdd (bytes : Nat) (f : Int) (acc : Nat) (a : FVal) : Nat × CellFlags :=
  match a with
  | .fin neg m e =>
    let (n, loss) := gridRound neg m e f
    let v := toSigned bytes acc + n
    let hi : Int := 2 ^ (8 * bytes - 1) - 1
    let lo : Int := -(2 ^ (8 * bytes - 1))
    let w := if v > hi then hi else if v < lo then lo else v
    (ofSigned bytes w, { overflow := decide (w ≠ v), loss := b2n loss })
  | _ => (acc, { invalid := true })

/-! ## One operation on one line -/

/-- Element `i` of `size` bytes of a line, as a number. -/
def elemGet (line : Bytes) (size i : Nat) : Nat := leField line (size * i) size
/-- It replaced. -/
def elemPut (line : Bytes) (size i v : Nat) : Bytes := bput line (size * i) (toLE v size)

/-- The line after an atomic at byte `off` of the line, with the cell flags it causes (Table 8.4, R228, R229). `f` is
the cell frame exponent of the region. -/
def applyAtomic (c : BitVec 32) (mask : BitVec 64) (off : Nat) (operand line : Bytes) (f : Int) : Bytes × CellFlags :=
  let size := elemSize c
  let elems := if isVector c then (List.range (64 / size)).filter fun i => maskFull mask size i else [off / size]
  match aopOf c with
  | 3 =>
    if leField line off size = leField operand off size
    then (bput line off (bslice operand ((off).xor 32) size), {}) else (line, {})
  | 4 => (bput line off (bslice operand off size), {})
  | 5 =>
    elems.foldl
      (fun (x : Bytes × CellFlags) k =>
        let (v, g) := cellAdd 8 f (elemGet x.1 8 k) (addendOf (fmtOf c) operand k)
        (elemPut x.1 8 k v,
         { overflow := x.2.overflow || g.overflow, invalid := x.2.invalid || g.invalid, loss := x.2.loss + g.loss }))
      (line, {})
  | 6 =>
    let (v, g) := cellAdd 64 (-160) (leNat line) (addendOf (fmtOf c) operand 0)
    (toLE v 64, g)
  | 7 => (line, {})
  | op =>
    (elems.foldl (fun l i => elemPut l size i (plainOp op (fmtOf c) (elemGet l size i) (elemGet operand size i))) line, {})

/-- The old value that RETURN brings (R217). -/
def oldValue (c : BitVec 32) (off : Nat) (line : Bytes) : Bytes :=
  if isVector c || aopOf c == 6 || aopOf c == 7 then line
  else bput (zeros 64) off (bslice line off (elemSize c))

/-! ## FOLD conversions (R233) -/

/-- The output format of FOLD's FORMAT field; none when reserved. -/
def foldFmt : Nat → Option FloatFmt
  | 0 => some fp64 | 1 => some fp32 | 2 => some bf16 | 3 => some fp16 | _ => none

/-- One accumulator of `bytes` bytes on grid 2^f as an output: encoding, changed by rounding, became infinite. -/
def foldOut (fmt : FloatFmt) (bytes : Nat) (f : Int) (acc : Nat) : Nat × Bool × Bool :=
  let v := toSigned bytes acc
  fencode fmt (decide (v < 0)) v.natAbs f

end Sys2Proof.Machine
end

