-- ==== Sys2Proof/Machine/Crypto.lean ====
section
/-! DEFINITION. The published constructions the block uses (chapter 0, Readers): AES (FIPS 197), the modes of SP 800-38A,
B, D, E and F, SHA-384 and SHA-512 (FIPS 180-4), HMAC (FIPS 198-1), the KDF of R133, and the constructions of chapter 6:
GHASH tags, tree MACs and the class S mix. Tables that the standards define by a formula are computed by it. -/

namespace Sys2Proof.Machine

/-! ## AES -/

/-- Multiplication by x in GF(2^8) modulo x^8 + x^4 + x^3 + x + 1. -/
def xtime (b : Byte) : Byte := if b.msb then (b <<< 1) ^^^ 0x1B else b <<< 1

/-- Product in GF(2^8). -/
def gf8Mul (a b : Byte) : Byte :=
  ((List.range 8).foldl (fun (r : Byte × Byte) i => (if b.getLsbD i then r.1 ^^^ r.2 else r.1, xtime r.2)) (0, a)).1

/-- Inverse in GF(2^8), as the 254th power; zero goes to zero. -/
def gf8Inv (a : Byte) : Byte :=
  let a2 := gf8Mul a a
  let a4 := gf8Mul a2 a2
  let a8 := gf8Mul a4 a4
  let a16 := gf8Mul a8 a8
  let a32 := gf8Mul a16 a16
  let a64 := gf8Mul a32 a32
  let a128 := gf8Mul a64 a64
  gf8Mul (gf8Mul (gf8Mul a2 a4) (gf8Mul a8 a16)) (gf8Mul (gf8Mul a32 a64) a128)

/-- The AES S-box value of one byte, by its definition. -/
def sboxOf (a : Byte) : Byte :=
  let b := gf8Inv a
  b ^^^ b.rotateLeft 1 ^^^ b.rotateLeft 2 ^^^ b.rotateLeft 3 ^^^ b.rotateLeft 4 ^^^ 0x63

/-- The S-box as a table. -/
def sboxTable : Array Byte := ((List.range 256).map fun i => sboxOf (BitVec.ofNat 8 i)).toArray

/-- The S-box. -/
def subByte (a : Byte) : Byte := sboxTable.getD a.toNat 0

/-- The inverse S-box as a table. -/
def invSboxTable : Array Byte :=
  (List.range 256).foldl (fun (t : Array Byte) i => t.setIfInBounds (sboxTable.getD i 0).toNat (BitVec.ofNat 8 i))
    (Array.replicate 256 0)

/-- The inverse S-box. -/
def invSubByte (a : Byte) : Byte := invSboxTable.getD a.toNat 0

/-- The round constant of key-schedule step `i`, from 1. -/
def rcon (i : Nat) : Byte := (List.range (i - 1)).foldl (fun b _ => xtime b) 1

/-- The key schedule: 4-byte words, `4 * (nk + 7)` of them, from a key of `4 * nk` bytes. -/
def keySchedule (key : Bytes) : List Bytes :=
  let nk := key.length / 4
  let w0 := chunks 4 key
  (List.range (4 * (nk + 7) - nk)).foldl
    (fun (w : Array Bytes) k =>
      let i := nk + k
      let t := w.getD (i - 1) []
      let t :=
        if i % nk = 0 then
          match (t.drop 1 ++ t.take 1).map subByte with
          | x :: r => (x ^^^ rcon (i / nk)) :: r
          | [] => []
        else if nk > 6 && i % nk = 4 then t.map subByte else t
      w.push (bxor (w.getD (i - nk) []) t))
    w0.toArray |>.toList

/-- The round keys of a key, 16 bytes each. -/
def roundKeys (key : Bytes) : List Bytes := chunks 16 (keySchedule key).flatten

/-- ShiftRows on the 16 state bytes (column major). -/
def shiftRows (s : Bytes) : Bytes := (List.range 16).map fun i => (s[(i + 4 * (i % 4)) % 16]?).getD 0

/-- Inverse ShiftRows. -/
def invShiftRows (s : Bytes) : Bytes := (List.range 16).map fun i => (s[(i + 12 * (i % 4)) % 16]?).getD 0

/-- One column times a circulant matrix with first row `m`. -/
def mixColumn (m : Bytes) (col : Bytes) : Bytes :=
  (List.range 4).map fun r =>
    (List.range 4).foldl (fun a k => a ^^^ gf8Mul ((m[(k + 4 - r) % 4]?).getD 0) ((col[k]?).getD 0)) 0

/-- MixColumns. -/
def mixColumns (s : Bytes) : Bytes := (chunks 4 s).flatMap (mixColumn [2, 3, 1, 1])

/-- Inverse MixColumns. -/
def invMixColumns (s : Bytes) : Bytes := (chunks 4 s).flatMap (mixColumn [0x0E, 0x0B, 0x0D, 0x09])

/-- The rounds after the first key addition; the last one has no MixColumns. -/
def aesRounds (ks : List Bytes) (s : Bytes) : Bytes :=
  match ks with
  | [] => s
  | [k] => bxor (shiftRows (s.map subByte)) k
  | k :: r => aesRounds r (bxor (mixColumns (shiftRows (s.map subByte))) k)

/-- AES encryption of 16 bytes. -/
def aesEnc (key : Bytes) (b : Bytes) : Bytes :=
  match roundKeys key with
  | [] => b
  | k :: r => aesRounds r (bxor b k)

/-- The inverse rounds, on the round keys in reverse order. -/
def aesInvRounds (ks : List Bytes) (s : Bytes) : Bytes :=
  match ks with
  | [] => s
  | [k] => bxor ((invShiftRows s).map invSubByte) k
  | k :: r => aesInvRounds r (invMixColumns (bxor ((invShiftRows s).map invSubByte) k))

/-- AES decryption of 16 bytes. -/
def aesDec (key : Bytes) (b : Bytes) : Bytes :=
  match (roundKeys key).reverse with
  | [] => b
  | k :: r => aesInvRounds r (bxor b k)

/-- A block as 16 bytes, bit 127 first (R170). -/
def blockBytes (b : Block) : Bytes := toBE b.toNat 16
/-- 16 bytes as a block. -/
def bytesBlock (b : Bytes) : Block := BitVec.ofNat 128 (beNat b)
/-- AES-256 of a block. -/
def aesBlk (key : Bytes) (b : Block) : Block := bytesBlock (aesEnc key (blockBytes b))

/-! ## Modes -/

/-- The n-byte keystream of counter blocks `iv`, `iv + 1`, … modulo 2^128. -/
def ctrStream (key : Bytes) (iv : Block) (n : Nat) : Bytes :=
  ((List.range ((n + 15) / 16)).flatMap fun i => blockBytes (aesBlk key (iv + BitVec.ofNat 128 i))).take n

/-- CTR mode. -/
def ctrCrypt (key : Bytes) (iv : Block) (d : Bytes) : Bytes := bxor d (ctrStream key iv d.length)

/-- Product in GF(2^128) of SP 800-38D, bit 127 the leftmost. -/
def ghashMul (x y : Block) : Block :=
  ((List.range 128).foldl
    (fun (r : Block × Block) i =>
      (if x.getMsbD i then r.1 ^^^ r.2 else r.1,
       if r.2.getLsbD 0 then (r.2 >>> 1) ^^^ (0xE1#128 <<< 120) else r.2 >>> 1))
    (0, y)).1

/-- GHASH of whole blocks from `y`. -/
def ghash (h y : Block) (bs : List Block) : Block := bs.foldl (fun y b => ghashMul (y ^^^ b) h) y

/-- A byte string padded with zeros to whole blocks. -/
def padBlocks (d : Bytes) : List Block := (chunks 16 d).map fun c => bytesBlock (bslice c 0 16)

/-- The GCM tag block of ciphertext `c` and additional data `a`, for a 96-bit IV. -/
def gcmTag (key iv a c : Bytes) : Bytes :=
  let h := aesBlk key 0
  let l := bytesBlock (toBE (8 * a.length) 8 ++ toBE (8 * c.length) 8)
  let y := ghash h 0 (padBlocks a ++ padBlocks c ++ [l])
  blockBytes (y ^^^ aesBlk key (bytesBlock (iv ++ toBE 1 4)))

/-- GCM counter mode, 32-bit counter from 2 (R347: the IV is 12 bytes). -/
def gcmCrypt (key iv d : Bytes) : Bytes :=
  bxor d (((List.range ((d.length + 15) / 16)).flatMap fun i => aesEnc key (iv ++ toBE ((2 + i) % 2 ^ 32) 4)).take d.length)

/-- AES-CMAC (SP 800-38B). -/
def cmac (key d : Bytes) : Bytes :=
  let dbl (b : Block) : Block := if b.msb then (b <<< 1) ^^^ 0x87 else b <<< 1
  let k1 := dbl (aesBlk key 0)
  let n := if d.length = 0 then 1 else (d.length + 15) / 16
  let last := d.drop (16 * (n - 1))
  let lastB := if last.length = 16 then bytesBlock last ^^^ k1
               else bytesBlock (bslice (last ++ [0x80]) 0 16) ^^^ dbl k1
  let y := ((padBlocks (d.take (16 * (n - 1)))).foldl (fun y b => aesBlk key (y ^^^ b)) (0 : Block))
  blockBytes (aesBlk key (y ^^^ lastB))

/-- The KDF of R133: counter mode, CMAC, 73-byte input. -/
def kdf (key label context : Bytes) (bits : Nat) : Bytes :=
  (List.range (bits / 128)).flatMap fun i =>
    cmac key (toBE (i + 1) 4 ++ label ++ [0] ++ bslice context 0 32 ++ toBE bits 4)

/-- One pass of the wrapping function of SP 800-38F over the semiblocks `a` and `r`. -/
def kwSteps (key : Bytes) (a : Bytes) (r : List Bytes) : Bytes × List Bytes :=
  let n := r.length
  (List.range (6 * n)).foldl
    (fun (st : Bytes × List Bytes) t =>
      let i := t % n
      let b := aesEnc key (st.1 ++ (st.2[i]?).getD [])
      (bxor (b.take 8) (toBE (t + 1) 8), st.2.set i (b.drop 8)))
    (a, r)

/-- The inverse pass. -/
def kwInvSteps (key : Bytes) (a : Bytes) (r : List Bytes) : Bytes × List Bytes :=
  let n := r.length
  (List.range (6 * n)).reverse.foldl
    (fun (st : Bytes × List Bytes) t =>
      let i := t % n
      let b := aesDec key (bxor st.1 (toBE (t + 1) 8) ++ (st.2[i]?).getD [])
      (b.take 8, st.2.set i (b.drop 8)))
    (a, r)

/-- AES-KW wrap. -/
def kwWrap (key d : Bytes) : Bytes :=
  let r := kwSteps key (List.replicate 8 0xA6) (chunks 8 d)
  r.1 ++ r.2.flatten

/-- AES-KW unwrap; none when the integrity check fails. -/
def kwUnwrap (key d : Bytes) : Option Bytes :=
  let r := kwInvSteps key (d.take 8) (chunks 8 (d.drop 8))
  if r.1 = List.replicate 8 0xA6 then some r.2.flatten else none

/-- The first semiblock of KWP for an n-byte input. -/
def kwpIcv (n : Nat) : Bytes := [0xA6, 0x59, 0x59, 0xA6] ++ toBE n 4

/-- AES-KWP wrap. -/
def kwpWrap (key d : Bytes) : Bytes :=
  let p := bslice d 0 (8 * ((d.length + 7) / 8))
  if p.length = 8 then aesEnc key (kwpIcv d.length ++ p)
  else let r := kwSteps key (kwpIcv d.length) (chunks 8 p); r.1 ++ r.2.flatten

/-- AES-KWP unwrap. -/
def kwpUnwrap (key d : Bytes) : Option Bytes :=
  let r := if d.length = 16 then let b := aesDec key d; (b.take 8, [b.drop 8])
           else kwInvSteps key (d.take 8) (chunks 8 (d.drop 8))
  let p := r.2.flatten
  let n := beNat (r.1.drop 4)
  if r.1.take 4 = [0xA6, 0x59, 0x59, 0xA6] ∧ n ≤ p.length ∧ p.length < n + 8 ∧ (p.drop n).all (· == 0)
  then some (p.take n) else none

/-- The XTS tweak doubled, bytes little-endian. -/
def xtsDouble (t : Bytes) : Bytes :=
  let n := leNat t * 2
  toLE (if n < 2 ^ 128 then n else (n % 2 ^ 128).xor 0x87) 16

/-- One XTS block. -/
def xtsBlock (dec : Bool) (k1 t b : Bytes) : Bytes :=
  bxor ((if dec then aesDec k1 else aesEnc k1) (bxor b t)) t

/-- XTS over one data unit with ciphertext stealing (SP 800-38E). -/
def xtsCrypt (dec : Bool) (key iv d : Bytes) : Bytes :=
  let k1 := key.take 32
  let n := d.length / 16
  let rem := d.length % 16
  let t0 := aesEnc (key.drop 32) iv
  let tw (i : Nat) : Bytes := (List.range i).foldl (fun t _ => xtsDouble t) t0
  let blk (i : Nat) : Bytes := (d.drop (16 * i)).take 16
  if rem = 0 then (List.range n).flatMap fun i => xtsBlock dec k1 (tw i) (blk i)
  else
    let head := (List.range (n - 1)).flatMap fun i => xtsBlock dec k1 (tw i) (blk i)
    let (ta, tb) := if dec then (tw n, tw (n - 1)) else (tw (n - 1), tw n)
    let cc := xtsBlock dec k1 ta (blk (n - 1))
    let lastIn := d.drop (16 * n)
    head ++ xtsBlock dec k1 tb (lastIn ++ cc.drop rem) ++ cc.take rem

/-- CBC. -/
def cbcCrypt (dec : Bool) (key iv d : Bytes) : Bytes :=
  ((chunks 16 d).foldl
    (fun (r : Bytes × Bytes) b =>
      if dec then (r.1 ++ bxor (aesDec key b) r.2, b)
      else let c := aesEnc key (bxor b r.2); (r.1 ++ c, c))
    ([], iv)).1

/-- ECB. -/
def ecbCrypt (dec : Bool) (key d : Bytes) : Bytes :=
  (chunks 16 d).flatMap (if dec then aesDec key else aesEnc key)

/-! ## The DRBG (R144, R145) -/

/-- CBC-MAC (SP 800-90B, SP 800-90A BCC): the last block of CBC encryption under a zero IV. -/
def cbcMac (key d : Bytes) : Bytes := (chunks 16 d).foldl (fun c b => aesEnc key (bxor (bslice b 0 16) c)) (zeros 16)

/-- One block of full entropy from 384 raw bits (R144). -/
def conditionBlock (raw : BitVec 384) : Bytes := cbcMac ((List.range 32).map Config.conditionByte) (toLE raw.toNat 48)

/-- The derivation function of SP 800-90A section 10.3.2, for AES-256 and 48 bytes. -/
def drbgDf (input : Bytes) : Bytes :=
  let s := toBE input.length 4 ++ toBE 48 4 ++ input ++ [0x80]
  let s := s ++ zeros ((16 - s.length % 16) % 16)
  let k : Bytes := (List.range 32).map fun i => BitVec.ofNat 8 i
  let t := (List.range 3).flatMap fun i => cbcMac k (toBE i 4 ++ zeros 12 ++ s)
  let key := bslice t 0 32
  let x1 := aesEnc key (bslice t 32 16)
  let x2 := aesEnc key x1
  x1 ++ x2 ++ aesEnc key x2

/-- `n` blocks of the generator from V + 1 on, and the V reached. -/
def drbgBlocks (key v : Bytes) (n : Nat) : Bytes × Bytes :=
  let at_ (i : Nat) : Bytes := toBE ((beNat v + i) % 2 ^ 128) 16
  ((List.range n).flatMap fun i => aesEnc key (at_ (i + 1)), at_ n)

/-- CTR_DRBG_Update: the next Key and V. -/
def drbgUpdate (provided key v : Bytes) : Bytes × Bytes :=
  let t := bxor (drbgBlocks key v 3).1 provided
  (bslice t 0 32, bslice t 32 16)

/-- Seeding from three conditioned blocks: instantiation from zeros, or a reseed. -/
def drbgSeed (entropy key v : Bytes) : Bytes × Bytes := drbgUpdate (drbgDf entropy) key v

/-- CTR_DRBG_Generate without additional input: `n` bytes, and the next Key and V. -/
def drbgGenerate (key v : Bytes) (n : Nat) : Bytes × Bytes × Bytes :=
  let r := drbgBlocks key v ((n + 15) / 16)
  (r.1.take n, drbgUpdate (zeros 48) key r.2)

/-- The longest run of equal bits at the head of a list. -/
def runLength : List Bool → Nat
  | [] => 0
  | [_] => 1
  | b :: c :: r => if b == c then runLength (c :: r) + 1 else 1

/-- The repetition count test (R144): some bit stands 41 times in a row. -/
def repetitionFails (bits : List Bool) : Bool := (List.range bits.length).any fun i => runLength (bits.drop i) ≥ 41

/-- The adaptive proportion test over one window (R144): the window's first bit stands in it as often as the cutoff. -/
def proportionFails (cutoff : Nat) (bits : List Bool) : Bool :=
  match bits with
  | [] => false
  | b :: _ => (bits.filter (· == b)).length ≥ cutoff

/-- Whether a continuous test fails on 1,024 raw bits, the least significant first. -/
def noiseFails (cutoff : Nat) (window : BitVec 1024) : Bool :=
  let bits := (List.range 1024).map fun i => window.getLsbD i
  repetitionFails bits || proportionFails cutoff bits

/-! ## SHA-2 and HMAC -/

/-- The largest r with r^k ≤ n, by bits from `b` down. -/
def rootBits (k n : Nat) (b : Nat) (r : Nat) : Nat :=
  match b with
  | 0 => if (r + 1) ^ k ≤ n then r + 1 else r
  | c + 1 => rootBits k n c (if (r + 2 ^ (c + 1)) ^ k ≤ n then r + 2 ^ (c + 1) else r)

/-- The primes below 410: the first 80 primes. -/
def primes80 : List Nat :=
  (List.range 410).filter fun n => 2 ≤ n && (List.range n).all fun d => d < 2 || n % d != 0

/-- SHA-512 round constants: the fractional bits of the cube roots of the first 80 primes. -/
def shaK : Array (BitVec 64) := (primes80.map fun p => BitVec.ofNat 64 (rootBits 3 (p * 2 ^ 192) 68 0)).toArray

/-- Initial values: the fractional bits of the square roots of the primes numbered `lo` to `lo + 7`. -/
def shaInit (lo : Nat) : List (BitVec 64) :=
  ((primes80.drop lo).take 8).map fun p => BitVec.ofNat 64 (rootBits 2 (p * 2 ^ 128) 68 0)

/-- One compression of SHA-512. -/
def shaCompress (h : List (BitVec 64)) (m : Bytes) : List (BitVec 64) :=
  let w0 : Array (BitVec 64) := ((chunks 8 m).map fun c => BitVec.ofNat 64 (beNat c)).toArray
  let w := (List.range 64).foldl
    (fun (w : Array (BitVec 64)) i =>
      let x := w.getD (i + 1) 0
      let y := w.getD (i + 14) 0
      let s0 := x.rotateRight 1 ^^^ x.rotateRight 8 ^^^ (x >>> 7)
      let s1 := y.rotateRight 19 ^^^ y.rotateRight 61 ^^^ (y >>> 6)
      w.push (w.getD i 0 + s0 + w.getD (i + 9) 0 + s1)) w0
  let g (l : List (BitVec 64)) (i : Nat) : BitVec 64 := (l[i]?).getD 0
  let r := (List.range 80).foldl
    (fun (v : List (BitVec 64)) i =>
      let e := g v 4
      let a := g v 0
      let t1 := g v 7 + (e.rotateRight 14 ^^^ e.rotateRight 18 ^^^ e.rotateRight 41)
        + ((e &&& g v 5) ^^^ (~~~e &&& g v 6)) + shaK.getD i 0 + w.getD i 0
      let t2 := (a.rotateRight 28 ^^^ a.rotateRight 34 ^^^ a.rotateRight 39)
        + ((a &&& g v 1) ^^^ (a &&& g v 2) ^^^ (g v 1 &&& g v 2))
      [t1 + t2, a, g v 1, g v 2, g v 3 + t1, e, g v 5, g v 6]) h
  List.zipWith (· + ·) h r

/-- The padded message blocks. -/
def shaPad (d : Bytes) : List Bytes :=
  let z := (239 - d.length % 128) % 128
  chunks 128 (d ++ [0x80] ++ zeros z ++ toBE (8 * d.length) 16)

/-- SHA-512 with the initial values from prime `lo`. -/
def shaRun (lo : Nat) (d : Bytes) : Bytes :=
  ((shaPad d).foldl shaCompress (shaInit lo)).flatMap fun x => toBE x.toNat 8

/-- SHA-512. -/
def sha512 (d : Bytes) : Bytes := shaRun 0 d
/-- SHA-384. -/
def sha384 (d : Bytes) : Bytes := (shaRun 8 d).take 48
/-- SHA-384 as a number, first byte most significant. -/
def sha384W (d : Bytes) : BitVec 384 := BitVec.ofNat 384 (beNat (sha384 d))
/-- HMAC with a 128-byte block. -/
def hmac (h : Bytes → Bytes) (key d : Bytes) : Bytes :=
  let k := bslice (if key.length > 128 then h key else key) 0 128
  h (k.map (· ^^^ 0x5C) ++ h (k.map (· ^^^ 0x36) ++ d))

/-- The key check value of R128. -/
def kcv (k : Bytes) : Word :=
  BitVec.ofNat 32 (leField (sha384 (ascii "BLNL-KCV" ++ [BitVec.ofNat 8 k.length] ++ k)) 0 4)

/-! ## Labels (Tables 5.7 and 5.8) -/

/-- A derivation label, Table 5.7. -/
structure Label where
  purpose : Nat
  epoch : Nat := 0
  stack : Nat := 0xFF
  cls : Nat := 0xFF
  index : Nat := 0
  gid : Word := 0
  sealVal : BitVec 64 := 0
  peer : Nat := 0

/-- The 32 bytes of a label. -/
def labelBytes (l : Label) : Bytes :=
  toLE l.purpose 1 ++ [0x01] ++ toLE l.epoch 1 ++ toLE l.stack 1 ++ toLE l.cls 1 ++ [0] ++ toLE l.index 2
    ++ toLE l.gid.toNat 4 ++ toLE l.sealVal.toNat 8 ++ toLE l.peer 4 ++ zeros 4 ++ [0x42, 0x4C, 0x4E, 0x4C]

/-- A 256-bit key with a zero context. -/
def derive (key : Bytes) (l : Label) : Bytes := kdf key (labelBytes l) [] 256

/-! ## Memory constructions (chapter 6) -/

/-- The block of Table 6.9 for classes C and R; `pad` chooses DOMAIN 0b01. -/
def memBlock (pad : Bool) (stack brick st line blk major minor epoch : Nat) (boot : BitVec 40) : Block :=
  BitVec.ofNat 128
    (b2n pad * 2 ^ 126 + stack % 8 * 2 ^ 123 + brick % 2 ^ 24 * 2 ^ 99 + st % 16 * 2 ^ 95 + line % 4 * 2 ^ 93
      + blk % 4 * 2 ^ 91 + major % 2 ^ 44 * 2 ^ 47 + minor % 8 * 2 ^ 44 + epoch % 4 * 2 ^ 42 + boot.toNat)

/-- The tree block of Table 6.9. -/
def treeBlock (stack level index parent : Nat) (boot : BitVec 40) : Block :=
  BitVec.ofNat 128
    (2 * 2 ^ 126 + stack % 8 * 2 ^ 123 + level % 16 * 2 ^ 119 + index % 2 ^ 23 * 2 ^ 96 + parent % 2 ^ 56 * 2 ^ 40
      + boot.toNat)

/-- The per-boot constant of Table 6.9. -/
def bootBlock (stack sub index : Nat) : Block :=
  BitVec.ofNat 128 (3 * 2 ^ 126 + stack % 8 * 2 ^ 123 + sub % 16 * 2 ^ 119 + index % 256)

/-- Class S round key r (R169). -/
def rk (k5 : Bytes) (r : Nat) : Block := aesBlk k5 (bootBlock 0 0 r)
/-- Tree hash key of an MPE. -/
def treeKey (k5 : Bytes) (stack : Nat) : Block := aesBlk k5 (bootBlock stack 1 0)
/-- BOOT. -/
def bootOf (k5 : Bytes) : BitVec 40 := BitVec.ofNat 40 ((aesBlk k5 (bootBlock 0 2 0)).toNat / 2 ^ 88)

/-- What enters the keystream, the pad and the tag of a stretcher of class C or R. -/
structure StretcherKey where
  enc : Bytes
  tag : Bytes
  stack : Nat
  brick : Nat
  st : Nat
  major : Nat := 0
  minor : Nat := 0
  epoch : Nat
  boot : BitVec 40
  /-- the seal value, for class R -/
  sealVal : Option (BitVec 64) := none

/-- The 256 B keystream of a stretcher (R171). -/
def keystream (k : StretcherKey) : Bytes :=
  (List.range 16).flatMap fun i =>
    blockBytes (aesBlk k.enc (memBlock false k.stack k.brick k.st (i / 4) (i % 4) k.major k.minor k.epoch k.boot))

/-- The tag of a stretcher's 256 B ciphertext (R172), stored leftmost byte first. -/
def stretcherTag (k : StretcherKey) (ct : Bytes) : Bytes :=
  let pad := memBlock true k.stack k.brick k.st 0 0 k.major k.minor k.epoch k.boot
  let h := aesBlk k.tag 0
  let y := ghash h 0 ([pad] ++ (match k.sealVal with
    | some v => [BitVec.ofNat 128 (v.toNat * 2 ^ 64)]
    | none => []) ++ padBlocks ct)
  (blockBytes (y ^^^ aesBlk k.enc pad)).take 8

/-- The MAC of bytes 0 to 55 of a course line or node (R173). -/
def treeMac (k5 : Bytes) (stack level index parent : Nat) (body : BitVec 448) : BitVec 64 :=
  let pad := treeBlock stack level index parent (bootOf k5)
  let b := toLE body.toNat 56
  let y := ghash (treeKey k5 stack) 0 (pad :: padBlocks b)
  BitVec.ofNat 64 (leNat ((blockBytes (y ^^^ aesBlk k5 pad)).take 8))

/-- The S-box of Table 6.10, nibble x at place x. -/
def mixSbox : List Nat := [7, 14, 3, 9, 12, 0, 5, 11, 1, 10, 15, 4, 8, 6, 13, 2]

/-- Its inverse, as Table 6.10 gives it. -/
def mixSboxInv : List Nat := [5, 8, 15, 2, 11, 6, 13, 0, 12, 3, 9, 7, 4, 14, 1, 10]

/-- A nibble table applied to all 32 nibbles. -/
def nibbleLayer (t : List Nat) (x : Block) : Block :=
  BitVec.ofNat 128
    ((List.range 32).foldl (fun a i => a + (t[x.toNat / 16 ^ i % 16]?).getD 0 * 16 ^ i) 0)

/-- P: input bit i to output bit (19 i + 5) mod 128 (R176). -/
def pLayer (x : Block) : Block :=
  BitVec.ofNat 128 ((List.range 128).foldl (fun a i => a + b2n (x.getLsbD i) * 2 ^ ((19 * i + 5) % 128)) 0)

/-- P⁻¹: bit i to bit 27 (i − 5) mod 128. -/
def pInvLayer (x : Block) : Block :=
  BitVec.ofNat 128 ((List.range 128).foldl (fun a i => a + b2n (x.getLsbD i) * 2 ^ ((27 * (i + 123)) % 128)) 0)

/-- M: each word becomes the exclusive or of the other three. -/
def mLayer (x : Block) : Block :=
  let w (i : Nat) : BitVec 32 := x.extractLsb' (32 * i) 32
  let all := w 0 ^^^ w 1 ^^^ w 2 ^^^ w 3
  (all ^^^ w 3) ++ (all ^^^ w 2) ++ (all ^^^ w 1) ++ (all ^^^ w 0)

/-- The tweak of R177 for block `blk` of line `line` (0 to 63) of a brick. -/
def mixTweak (stack brick line blk : Nat) : Block :=
  BitVec.ofNat 128 (stack % 8 * 2 ^ 125 + brick % 2 ^ 24 * 2 ^ 101 + line % 64 * 2 ^ 95 + blk % 4 * 2 ^ 93)

/-- The class S mix (R177). -/
def mixBlk (k5 : Bytes) (t x : Block) : Block :=
  let y := (List.range 4).foldl
    (fun x r =>
      let x := nibbleLayer mixSbox (x ^^^ rk k5 r ^^^ t.rotateLeft (24 * r))
      if r < 3 then mLayer (pLayer x) else x) x
  y ^^^ rk k5 4 ^^^ t.rotateLeft 96

/-- Its inverse. -/
def unmixBlk (k5 : Bytes) (t y : Block) : Block :=
  [3, 2, 1, 0].foldl
    (fun y r =>
      let y := if r < 3 then pInvLayer (mLayer y) else y
      nibbleLayer mixSboxInv y ^^^ rk k5 r ^^^ t.rotateLeft (24 * r))
    (y ^^^ rk k5 4 ^^^ t.rotateLeft 96)

/-- A run of 64 B lines of a brick under the mix, from line `line`. -/
def mixLines (k5 : Bytes) (inv : Bool) (stack brick line : Nat) (d : Bytes) : Bytes :=
  ((List.range (d.length / 16)).flatMap fun i =>
    let t := mixTweak stack brick (line + i / 4) (i % 4)
    let b := bytesBlock ((d.drop (16 * i)).take 16)
    blockBytes (if inv then unmixBlk k5 t b else mixBlk k5 t b))

/-! ## CRCs (Table 13.4) -/

/-- Width, polynomial, initial VALUE, reflected, XOROUT of a POLY value; none when reserved. -/
def crcParams : Nat → Option (Nat × Nat × Nat × Bool × Nat)
  | 0 => some (32, 0x1EDC6F41, 0xFFFFFFFF, true, 0xFFFFFFFF)
  | 1 => some (32, 0x04C11DB7, 0xFFFFFFFF, true, 0xFFFFFFFF)
  | 2 => some (64, 0x42F0E1EBA9EA3693, 0xFFFFFFFFFFFFFFFF, true, 0xFFFFFFFFFFFFFFFF)
  | 3 => some (16, 0x1021, 0xFFFF, false, 0)
  | _ => none

/-- The low `w` bits of `n` in reverse order. -/
def revBits (w n : Nat) : Nat := (List.range w).foldl (fun a i => a + (n / 2 ^ i % 2) * 2 ^ (w - 1 - i)) 0

/-- One byte into a CRC register (R357). -/
def crcByte (w poly : Nat) (refl : Bool) (v : Nat) (b : Byte) : Nat :=
  if refl then
    (List.range 8).foldl (fun v _ => if v % 2 = 1 then (v / 2).xor (revBits w poly) else v / 2) (v.xor b.toNat)
  else
    (List.range 8).foldl
      (fun v _ => if v / 2 ^ (w - 1) % 2 = 1 then (2 * v % 2 ^ w).xor poly else 2 * v % 2 ^ w)
      (v.xor (b.toNat * 2 ^ (w - 8)))

/-- The CRC-32C of a byte string (slot headers, R87). -/
def crc32c (d : Bytes) : Word :=
  BitVec.ofNat 32 ((d.foldl (crcByte 32 0x1EDC6F41 true) 0xFFFFFFFF).xor 0xFFFFFFFF)

end Sys2Proof.Machine
end

