-- ==== Sys2Proof/Machine/Tree.lean ====
section
/-! DEFINITION. Counter records, the counter cache, the integrity tree and the capstone of one MPE (chapter 6 and
R192 to R193, R206 to R209). Stack `n` is the stack of MPE `n`. -/

namespace Sys2Proof.Machine

/-! ## Addresses (R45, R153, R154, R168) -/

/-- Data bricks of one channel. -/
def channelBricks : Nat := 505568
/-- The highest data brick of a stack. -/
def maxBrick : Nat := 16178175
/-- The channel of a data brick. -/
def chanOf (b : Nat) : Nat := b / channelBricks
/-- T0 index (course-line slot) of a data brick. -/
def courseOf (b : Nat) : Nat := chanOf b * 131072 + (b % channelBricks) / 4
/-- Stack-physical address of byte `o` of data brick `b`. -/
def dataAddr (b o : Nat) : Nat := chanOf b * 2 ^ 31 + (b % channelBricks) * 4096 + o
/-- Address of the tag of stretcher `st` of brick `b`. -/
def tagAddr (b st : Nat) : Nat := chanOf b * 2 ^ 31 + 0x7B6E0000 + ((b % channelBricks) * 16 + st) * 8
/-- First data brick and number of data bricks that a line of tree level 0, 1 or 2 covers: only bricks of its channel, whose
course-line slots from 126,392 on are unused (R154). -/
def lineBricks (level idx : Nat) : Nat × Nat :=
  let q := idx * 8 ^ level
  let j := 4 * (q % 131072)
  (q / 131072 * channelBricks + j, Nat.min (4 * 8 ^ level) (channelBricks - j))
/-- Stack-physical address of line `idx` of tree level 0, 1 or 2: cl, t1_a and t2_a of R168. -/
def lineAddr (level idx : Nat) : Nat :=
  match level with
  | 0 => idx / 131072 * 2 ^ 31 + 0x7F6E0000 + idx % 131072 * 64
  | 1 => idx / 16384 * 2 ^ 31 + 0x7FEE0000 + idx % 16384 * 64
  | _ => idx / 2048 * 2 ^ 31 + 0x7FFE0000 + idx % 2048 * 64
/-- Capstone offset of T3 to T7 node `idx`: t3_off to t7_off of R168 (Table 6.7). -/
def capOff (level idx : Nat) : Nat :=
  (match level with | 3 => 0 | 4 => 0x80000 | 5 => 0x90000 | 6 => 0x92000 | _ => 0x92400) + idx * 64
/-- Bytes of the capstone: 9,362 nodes (R162). -/
def capBytes : Nat := 599168
/-- Where the capstone save area starts in channel 0 (Table 6.4). -/
def saveBase : Nat := 0x7F497000

/-- Slot 5, the per-boot key of every MPE. -/
def k5 (s : State) : Bytes := if s.mpeKeys then (getSlot s 5).key else zeros 32

/-! ## Counter records (Tables 6.5 and 6.6) -/

/-- The 112 bits of a record. -/
def recBits (r : Rec) : BitVec 112 :=
  BitVec.ofNat 112
    (r.major % 2 ^ 44 * 2 ^ 68
      + (List.range 16).foldl (fun a i => a + tgetD r.minor i 0 % 8 * 2 ^ (20 + 3 * i)) 0
      + r.owner % 1024 * 2 ^ 10 + r.epoch % 4 * 2 ^ 8 + clsNum r.cls * 2 ^ 6
      + b2n r.sched * 16 + b2n r.frozen * 8 + b2n r.suspect * 4 + b2n r.dirty * 2 + b2n r.init)

/-- The record of 112 bits. -/
def recOf (b : BitVec 112) : Rec where
  major := fld b 111 68
  minor := (List.range 16).filterMap fun i =>
    let v := fld b (22 + 3 * i) (20 + 3 * i)
    if v = 0 then none else some (i, v)
  owner := fld b 19 10
  epoch := fld b 9 8
  cls := (clsOf (fld b 7 6)).getD .s
  init := bit b 0
  dirty := bit b 1
  suspect := bit b 2
  frozen := bit b 3
  sched := bit b 4

/-- Record `i` of a course line's body. -/
def bodyRec (body : BitVec 448) (i : Nat) : Rec := recOf (body.extractLsb' (112 * i) 112)

/-- A body with `w` bits at `lo` replaced by `v`. -/
def bodyPut (body : BitVec 448) (lo w v : Nat) : BitVec 448 :=
  BitVec.ofNat 448 (body.toNat - body.toNat / 2 ^ lo % 2 ^ w * 2 ^ lo + v % 2 ^ w * 2 ^ lo)

/-- Child counter `k` of a node's body. -/
def bodyCtr (body : BitVec 448) (k : Nat) : Nat := body.toNat / 2 ^ (56 * k) % 2 ^ 56

/-- The largest MAJOR (R194). -/
def majorMax : Nat := 2 ^ 44 - 1

/-! ## What goes to the HBM controller (R211) -/

/-- The word MPE_HBM_CMD: operation, channel, offset, line count minus one and read tag. The model's controller takes every command
at once: READY and WCREDIT hold nothing back (DESIGN CHOICE, log entry 75). -/
def hbmCmd (op a lines tag : Nat) : BitVec 64 :=
  BitVec.ofNat 64
    (op * 2 ^ 61 + a / 2 ^ 31 % 32 * 2 ^ 56 + a % 2 ^ 31 / 64 * 64 * 2 ^ 25 + (lines - 1) % 64 * 2 ^ 19 + tag % 2 ^ 19)

/-- A read of `lines` lines from address `a` asked for under read tag `tag`. -/
def hbmAsk (m : Mpe) (a lines tag : Nat) : Mpe := { m with hbmOut := m.hbmOut ++ [{ cmd := hbmCmd 1 a lines tag }] }

/-- Bytes `d` from address `a` as the lines of a write with their 8 B masks; bytes outside `d` are sent as zeros. -/
def hbmLines (a : Nat) (d : Bytes) : List (Line × BitVec 8) :=
  let lo := a % 64
  (List.range ((lo + d.length + 63) / 64)).map fun i =>
    let on (j : Nat) : Bool := lo ≤ 64 * i + j && 64 * i + j < lo + d.length
    (BitVec.ofNat 512 (leNat ((List.range 64).map fun j => if on j then (d[64 * i + j - lo]?).getD 0 else 0)),
     BitVec.ofNat 8 ((List.range 8).foldl (fun x k => x + b2n (on (8 * k)) * 2 ^ k) 0))

/-- Bytes `d` sent to address `a`. -/
def hbmSend (m : Mpe) (a : Nat) (d : Bytes) : Mpe :=
  let l := hbmLines a d
  { m with hbmOut := m.hbmOut ++ [{ cmd := hbmCmd 2 a l.length 0, lines := l }] }

/-- Bytes written into the stack, but for a stack that a capstone failure has halted (R209). -/
def hbmWrite (s : State) (n a : Nat) (d : Bytes) : State :=
  updMpe s n fun m =>
    if m.capState = 2 then m else { hbmSend m a d with hbm := memWriteBytes m.hbm 0 a d }

/-! ## The capstone (R162 to R164) -/

/-- Bytes 0 to 55 of T3 to T7 node `idx` as the MPE reads them: from the copy that is sound. -/
def capBody (m : Mpe) (level idx : Nat) : BitVec 448 :=
  let o := capOff level idx
  tgetD (if m.repairing.contains (false, o) then m.shadow else m.capstone) o 0

/-- The counter of a T3 to T7 node for child `idx` of the level below. -/
def capCtr (m : Mpe) (level idx : Nat) : Nat := bodyCtr (capBody m level (idx / 8)) (idx % 8)

/-- A node written in both copies. -/
def capPut (m : Mpe) (level idx : Nat) (body : BitVec 448) : Mpe :=
  let o := capOff level idx
  { m with capstone := tset m.capstone o body, shadow := tset m.shadow o body }

/-- That counter set to `c`. -/
def capSet (m : Mpe) (level idx c : Nat) : Mpe :=
  capPut m level (idx / 8) (bodyPut (capBody m level (idx / 8)) (56 * (idx % 8)) 56 c)

/-- Nodes of the levels T3 to T7. -/
def capLevels : List (Nat × Nat) := [(3, 8192), (4, 1024), (5, 128), (6, 16), (7, 2)]

/-- A capstone failure of stack `n` on no request's behalf (R209): the stack halts and CAPSTONE is raised. (DEDUCED, log
entry 19) -/
def capstoneFail (s : State) (n : Nat) : State :=
  if (getMpe s n).capState = 2 then s
  else raise (updMpe s n fun m => { m with capState := 2 })
    { code := 0x1B, unit := unitMpe, inst := n, fenceCode := some 0x0D, rung := some 2, detail6 := pack [(n, 24)] }

/-- The repairs that run are done: each node is rewritten from the other copy (R163). A repair ends with the MPE's next TDM slot, or
at a save (DESIGN CHOICE, log entry 76). -/
def capRepaired (m : Mpe) : Mpe :=
  let m' := m.repairing.foldl
    (fun m r =>
      if r.1 then { m with shadow := tset m.shadow r.2 (tgetD m.capstone r.2 0), repairs := satAdd 16 m.repairs 1 }
      else { m with capstone := tset m.capstone r.2 (tgetD m.shadow r.2 0), repairs := satAdd 16 m.repairs 1 }) m
  { m' with repairing := [], capState := if m.capState = 1 then 0 else m.capState }

/-- Both registers of each root counter agree (R164). -/
def rootSound (m : Mpe) : Bool := m.root == m.rootCopy

/-! ## The counter cache -/

/-- A line that the counter cache or its sticky partition holds. -/
def heldLine (m : Mpe) (level idx : Nat) : Option CacheLine :=
  let is (l : CacheLine) : Bool := l.level == level && l.index == idx
  match m.cache.find? is with
  | some l => some l
  | none => m.sticky.find? is

/-- Its body. -/
def cachedBody (m : Mpe) (level idx : Nat) : Option (BitVec 448) := (heldLine m level idx).map (·.body)

/-- Whether the sticky partition holds a line. -/
def isSticky (m : Mpe) (level idx : Nat) : Bool := m.sticky.any fun l => l.level == level && l.index == idx

/-- A line held with its dirty mark set to `d`: in the sticky partition where it is sticky, else as the most recently used of the
cache. -/
def cachePut (m : Mpe) (level idx : Nat) (body : BitVec 448) (d : Bool) : Mpe :=
  let l : CacheLine := { level := level, index := idx, body := body, dirty := d }
  let other (k : CacheLine) : Bool := !(k.level == level && k.index == idx)
  if isSticky m level idx then { m with sticky := l :: m.sticky.filter other }
  else { m with cache := l :: m.cache.filter other }

/-- The counter that versions line `idx` of level 0 to 2: in its parent's held body, or in the capstone. -/
def parentCtr (m : Mpe) (level idx : Nat) : Nat :=
  if level = 2 then capCtr m 3 idx
  else match cachedBody m (level + 1) (idx / 8) with
    | some b => bodyCtr b (idx % 8)
    | none => 0

/-- Whether a pinned range of some accord covers part of a line (R71). -/
def linePinned (s : State) (n level idx : Nat) : Bool :=
  let (b, k) := lineBricks level idx
  s.accords.any fun a => a.2.pins.any fun p =>
    p.stack == n && p.base * 256 < b + k && b < (p.base + p.len) * 256

/-- A held line changed: dirty, and queued for write-back where it is pinned (R193). -/
def dirtyLine (s : State) (n level idx : Nat) (body : BitVec 448) : State :=
  let pin := linePinned s n level idx
  updMpe s n fun m =>
    { cachePut m level idx body true with
      wbQueue := if pin && !m.wbQueue.contains (level, idx) then m.wbQueue ++ [(level, idx)] else m.wbQueue }

/-- The counter that versions a line set to `c`. -/
def setParentCtr (s : State) (n level idx c : Nat) : State :=
  if level = 2 then updMpe s n fun m => capSet m 3 idx c
  else match cachedBody (getMpe s n) (level + 1) (idx / 8) with
    | some b => dirtyLine s n (level + 1) (idx / 8) (bodyPut b (56 * (idx % 8)) 56 c)
    | none => s

/-- A metadata line as the format leaves it: a zero body under a parent counter of zero (R166). -/
def formattedLine (s : State) (n level idx : Nat) : Line := treeMac (k5 s) n level idx 0 0 ++ (0 : BitVec 448)

/-- A metadata line as the stack holds it; one never written is as the format left it. -/
def storedNode (s : State) (n level idx : Nat) : Line :=
  match tget (getMpe s n).metaLines (lineAddr level idx) with
  | some l => l
  | none => formattedLine s n level idx

/-- A metadata line written to the stack under parent counter `c`. -/
def putNode (s : State) (n level idx c : Nat) (body : BitVec 448) : State :=
  let l : Line := treeMac (k5 s) n level idx c body ++ body
  let a := lineAddr level idx
  let same : Bool := body == 0 && l == formattedLine s n level idx
  updMpe s n fun m =>
    if m.capState = 2 then m
    else { hbmSend m a (toLE l.toNat 64) with
           metaLines := if same then tdel m.metaLines a else tset m.metaLines a l
           treeFloor := Nat.max m.treeFloor c }

/-- A held line becomes sticky and moves into the sticky partition (R165). False when that already holds 1,024 lines, which is a
capstone failure. -/
def makeSticky (s : State) (n level idx : Nat) : State × Bool :=
  let m := getMpe s n
  if isSticky m level idx then (s, true)
  else match heldLine m level idx with
    | none => (s, true)
    | some l =>
      if m.sticky.length ≥ 1024 then (s, false)
      else (updMpe s n fun m =>
        { m with sticky := m.sticky ++ [l], cache := m.cache.filter fun k => !(k.level == level && k.index == idx) }, true)

/-- A held dirty line is written to HBM under its incremented parent counter (R161). -/
def storeLine (s : State) (n level idx : Nat) : State :=
  match cachedBody (getMpe s n) level idx with
  | none => s
  | some body =>
    let c := parentCtr (getMpe s n) level idx + 1
    let s := putNode (setParentCtr s n level idx c) n level idx c body
    updMpe s n fun m => cachePut m level idx body false

/-- Write-back of a held dirty line. A sticky line stays where it is; one whose parent counter the write-back takes to 2^55 becomes
sticky (R165). -/
def writeBackLine (s : State) (n level idx : Nat) : State :=
  if isSticky (getMpe s n) level idx ∨ (getMpe s n).capState = 2 then s
  else
    let s := storeLine s n level idx
    if parentCtr (getMpe s n) level idx < 2 ^ 55 then s
    else match makeSticky s n level idx with
      | (s, true) => s
      | (s, false) => capstoneFail s n

/-- Lines of the course, T1 and T2 part of the counter cache: 7,488 KiB (R162). -/
def cacheLines : Nat := 119808

/-- Least-recently-used replacement (R193): an unpinned line that no held line hangs from leaves, written back if dirty. -/
def cacheTrim (s : State) (n : Nat) : State :=
  let m := getMpe s n
  if m.cache.length ≤ cacheLines then s
  else match m.cache.reverse.find? fun l =>
      !linePinned s n l.level l.index
        && !((m.cache ++ m.sticky).any fun k => k.level + 1 == l.level && k.index / 8 == l.index) with
    | none => s
    | some l =>
      let s := if l.dirty then writeBackLine s n l.level l.index else s
      updMpe s n fun m => { m with cache := m.cache.filter fun k => !(k.level == l.level && k.index == l.index) }

/-- Lines the HBM controller returned for a request, with RERR. -/
abbrev Supplied := List (HbmPart × Line × BitVec 2)

/-- What the controller returned for a part of a request. -/
def suppliedPart (sup : Supplied) (p : HbmPart) : Option (Line × BitVec 2) := (sup.find? fun x => x.1 == p).map (·.2)

/-- The part name of a metadata level. -/
def levelPart : Nat → HbmPart
  | 0 => .node 0 | 1 => .node 1 | _ => .node 2

/-- Whether the stack reports a line that the block itself reads as uncorrectable (MPE_HBM_RERR): free (DESIGN CHOICE,
log entry 27). -/
def lineUe (s : State) : State × Bool :=
  let (s, k) := drawNat s
  (s, k % 2 == 1)

/-- A metadata line from the stack: what the controller returned for a request, or the block's own read of it. -/
def fetchNode (s : State) (n level idx : Nat) (sup : Supplied) : State × Line × Bool :=
  match suppliedPart sup (levelPart level) with
  | some (l, rerr) => (s, l, rerr == 2)
  | none =>
    let (s, ue) := lineUe s
    (s, storedNode s n level idx, ue)

/-- How bringing in a metadata line ended. -/
inductive Loaded
  | ok
  /-- the line of this level and index failed: uncorrectable, or its MAC did not verify (R206) -/
  | failed (level idx : Nat)
  /-- the line would be sticky and the partition is full (R165) -/
  | full
deriving DecidableEq, Repr

/-- A line of level 0 to 2 brought into the counter cache and verified against its parent counter (R161). -/
def loadLine (s : State) (n level idx : Nat) (sup : Supplied) : State × Loaded :=
  match heldLine (getMpe s n) level idx with
  | some l => (updMpe s n fun m => cachePut m level idx l.body l.dirty, .ok)
  | none =>
    let (s, l, ue) := fetchNode s n level idx sup
    let body := l.extractLsb' 0 448
    let c := parentCtr (getMpe s n) level idx
    if ue ∨ l.extractLsb' 448 64 ≠ treeMac (k5 s) n level idx c body then (s, .failed level idx)
    else
      let s := updMpe s n fun m => cachePut m level idx body false
      if c < 2 ^ 55 then (cacheTrim s n, .ok)
      else match makeSticky s n level idx with
        | (s, true) => (cacheTrim s n, .ok)
        | (s, false) => (s, .full)

/-- The course line of brick `b` brought in with its T1 and T2 nodes, verified from the highest down; where one fails the lines
above it are held. -/
def loadCourse (s : State) (n b : Nat) (sup : Supplied) : State × Loaded :=
  let q := courseOf b
  if (cachedBody (getMpe s n) 0 q).isSome then loadLine s n 0 q sup
  else match loadLine s n 2 (q / 64) sup with
    | (s, .ok) => match loadLine s n 1 (q / 8) sup with
      | (s, .ok) => loadLine s n 0 q sup
      | x => x
    | x => x

/-- One lookup of brick `b`'s course line counted as the counter cache `m` answers it (Table 7.13). -/
def countLookup (s : State) (n b : Nat) (m : Mpe) : State :=
  let hit := (cachedBody m 0 (courseOf b)).isSome
  updMpe s n fun m =>
    if hit then { m with ccHits := (m.ccHits + 1) % 2 ^ 32 } else { m with ccMisses := (m.ccMisses + 1) % 2 ^ 32 }

/-- The levels of brick `b` that the counter cache does not hold. -/
def missingLevels (m : Mpe) (b : Nat) : List HbmPart :=
  let q := courseOf b
  if (cachedBody m 0 q).isSome then []
  else [(2, q / 64), (1, q / 8), (0, q)].filterMap fun x =>
    if (cachedBody m x.1 x.2).isSome then none else some (levelPart x.1)

/-- The record of brick `b`, whose course line is held. -/
def heldRec (m : Mpe) (b : Nat) : Rec :=
  match cachedBody m 0 (courseOf b) with
  | some body => bodyRec body (b % channelBricks % 4)
  | none => {}

/-- The record of brick `b` updated in the counter cache. -/
def putRec (s : State) (n b : Nat) (r : Rec) : State :=
  match cachedBody (getMpe s n) 0 (courseOf b) with
  | none => s
  | some body =>
    let s := dirtyLine s n 0 (courseOf b) (bodyPut body (112 * (b % channelBricks % 4)) 112 (recBits r).toNat)
    updMpe s n fun m => { m with majorFloor := Nat.max m.majorFloor r.major }

/-! ## Regions and LOST ranges -/

/-- The region table entry of a data brick (R179). -/
def findRegion (m : Mpe) (b : Nat) : Option (Nat × RtEntry) :=
  if b > maxBrick then none else m.rt.find? fun e => e.2.base ≤ b && b ≤ e.2.limit

/-- Whether brick `b` carries the LOST mark (R208). -/
def isLost (m : Mpe) (b : Nat) : Bool := m.stackLost || m.lost.any fun e => e.2.marks.contains b

/-- The LOST marks of the bricks that `f` selects cleared; entries without a mark are freed. -/
def clearLost (m : Mpe) (f : Nat → Bool) : Mpe :=
  let l := tmap m.lost fun _ r => { r with marks := r.marks.filter (fun b => !f b) }
  { m with lost := l.filter fun e => !e.2.marks.isEmpty }

/-- The epoch of an accord's class on a stack. -/
def epochOf (s : State) (a : Nat) (k : Cls) (n : Nat) : Epoch :=
  match k with
  | .c => tgetD (getAccord s a).epochC n {}
  | .r => tgetD (getAccord s a).epochR n {}
  | .s => {}

/-- The record that a rebuild writes for a brick, none for an unused slot (R207). -/
def rebuiltRec (s : State) (n : Nat) (b : Option Nat) : Rec :=
  let m := getMpe s n
  let major := Nat.min (m.majorFloor + 1) majorMax
  match b.bind (findRegion m) with
  | some (_, e) =>
    { major := major, owner := e.owner, cls := e.cls, epoch := (epochOf s e.owner e.cls n).gen % 4, sched := e.sched
      frozen := major == majorMax }
  | none => { major := major, cls := .c, frozen := major == majorMax }

/-- A rebuilt course line's body. -/
def rebuiltCourse (s : State) (n q : Nat) : BitVec 448 :=
  let (b0, k) := lineBricks 0 q
  (List.range 4).foldl
    (fun body i => bodyPut body (112 * i) 112 (recBits (rebuiltRec s n (if i < k then some (b0 + i) else none))).toNat) 0

/-- A node body with every child counter `c`. -/
def uniformNode (c : Nat) : BitVec 448 := (List.range 8).foldl (fun b i => bodyPut b (56 * i) 56 c) 0

/-- The lines at `level` below node `idx` of level `top`. -/
def linesBelow (top idx level : Nat) : List Nat := (List.range (8 ^ (top - level))).map (· + idx * 8 ^ (top - level))

/-- The LOST table of `m` with the marks of range `b0`, `size` bricks (R207, R208): inside an existing entry it takes none, a T2
range absorbs the entries inside it, and the 65th entry makes the whole stack LOST. -/
def markLost (m : Mpe) (b0 size : Nat) (marks : List Nat) : Mpe :=
  let covers (r : LostRange) : Bool := r.base ≤ b0 && b0 + size ≤ r.base + r.size
  if marks.isEmpty then m
  else if m.lost.any fun e => covers e.2 then
    { m with lost := tmap m.lost fun _ r =>
        if covers r then { r with marks := r.marks ++ marks.filter (fun b => !r.marks.contains b) } else r }
  else
    let kept := if size < 256 then m.lost else m.lost.filter fun e => !(b0 ≤ e.2.base && e.2.base + e.2.size ≤ b0 + size)
    match tfree kept 0 64 with
    | some k => { m with lost := tset kept k { base := b0, size := size, marks := marks } }
    | none => { m with stackLost := true }

/-- R206 and R207: metadata line `idx` of `level` failed. It and every line below it are rebuilt above the floors, the
range enters the LOST table, and the owners of the class C regions it touches get LOST_RANGE. -/
def metadataLost (s : State) (n level idx : Nat) : State :=
  let m := getMpe s n
  let tf := m.treeFloor + 1
  let (b0, cnt) := lineBricks level idx
  let own := parentCtr m level idx + 1
  -- nothing of the lost range stays held, and the failed line's counter in its parent rises
  let gone (l : CacheLine) : Bool := l.level ≤ level && l.index / 8 ^ (level - l.level) == idx
  let t := updMpe s n fun m =>
    { m with cache := m.cache.filter (fun l => !gone l), sticky := m.sticky.filter (fun l => !gone l)
             wbQueue := m.wbQueue.filter fun l => !(l.1 ≤ level && l.2 / 8 ^ (level - l.1) == idx) }
  let t := setParentCtr t n level idx own
  -- the lines, rebuilt from the floors of `s`: each child versioned by tree floor + 1
  let body (lv i : Nat) : BitVec 448 := if lv = 0 then rebuiltCourse s n i else uniformNode tf
  let t := putNode t n level idx own (body level idx)
  let below := (List.range level).flatMap fun lv => (linesBelow level idx lv).map fun i => (lv, i)
  let t := below.foldl (fun t x => putNode t n x.1 x.2 tf (body x.1 x.2)) t
  let marks := ((List.range cnt).map (· + b0)).filter fun b => match findRegion m b with
    | some (_, e) => e.cls == .c || (e.cls == .r && e.sealState == .sealing)
    | none => false
  let t := updMpe t n fun x =>
    { markLost x b0 (4 * 8 ^ level) marks with majorFloor := Nat.max x.majorFloor (Nat.min (m.majorFloor + 1) majorMax) }
  let owners := (m.rt.filterMap fun e =>
    if e.2.cls == .c && e.2.base < b0 + cnt && b0 ≤ e.2.limit then some e.2.owner else none).eraseDups
  owners.foldl (fun s a => ownerEvent s a 2) t

/-- What a failed load comes to for work that no request waits for: the range is LOST, or the stack has a capstone failure; the fault
METADATA_LOST or CAPSTONE is raised without a fence. -/
def loadFault (s : State) (n : Nat) (l : Loaded) : State :=
  match l with
  | .ok => s
  | .failed lv i =>
    raise (metadataLost s n lv i)
      { code := 0x1A, unit := unitMpe, inst := n, detail6 := pack [(n % 8, 24), ((lineBricks lv i).1 % 2 ^ 24, 0)] }
  | .full => capstoneFail s n

/-- The record of brick `b` changed by `f`, through the verified course line; where that line fails, it is rebuilt and left so. -/
def editRec (s : State) (n b : Nat) (f : Rec → Rec) : State :=
  match loadCourse s n b [] with
  | (s, .ok) =>
    let r := heldRec (getMpe s n) b
    if f r = r then s else putRec s n b (f r)
  | (s, l) => loadFault s n l

/-! ## Saving and restoring the capstone (R167) -/

/-- Every dirty line of the counter cache written back, sticky lines included, from the lowest level up. -/
def flushCache (s : State) (n : Nat) : State :=
  [0, 1, 2].foldl
    (fun s lv => (((getMpe s n).cache ++ (getMpe s n).sticky).filter fun l => l.level == lv && l.dirty).foldl
      (fun s l => storeLine s n l.level l.index) s) s

/-- A node with every counter one higher. -/
def bumpNode (b : BitVec 448) : BitVec 448 := (List.range 8).foldl (fun b i => bodyPut b (56 * i) 56 (bodyCtr b i + 1)) b

/-- The counter that versions T3 to T7 node `idx`: the parent's, or the root's. -/
def capParent (m : Mpe) (level idx : Nat) : Nat :=
  if level = 7 then (if idx = 0 then m.root.1 else m.root.2) else capCtr m (level + 1) idx

/-- The lines of the save area: every node with its MAC, in capstone order. -/
def saveLines (k : Bytes) (n : Nat) (m : Mpe) : Tab Line :=
  capLevels.flatMap fun x => (List.range x.2).map fun i =>
    let body := capBody m x.1 i
    (saveBase + capOff x.1 i, treeMac k n x.1 i (capParent m x.1 i) body ++ body)

/-- Steps 2 to 5 of the save: the counters of T4 to T7 and the roots rise by one, every MAC is computed, the nodes go to the save
area, and the roots to the retention store. -/
def saveNodes (k : Bytes) (n : Nat) (m : Mpe) : Mpe :=
  let up := (capLevels.drop 1).flatMap fun x => (List.range x.2).map fun i => (capOff x.1 i, bumpNode (capBody m x.1 i))
  let cap := (m.capstone.filter fun e => e.1 < 0x80000) ++ up
  let root := (m.root.1 + 1, m.root.2 + 1)
  let m := { m with capstone := cap, shadow := cap, root := root, rootCopy := root, savedRoot := some root }
  let area := saveLines k n m
  let m := area.foldl (fun m e => hbmSend m e.1 (toLE e.2.toNat 64)) m
  { m with metaLines := (m.metaLines.filter fun e => e.1 < saveBase) ++ area ++ m.metaLines.filter fun e => saveBase + capBytes ≤ e.1 }

/-- The capstone save: every dirty line first, and the root compared (R164) before it is used. -/
def capstoneSave (s : State) (n : Nat) : State :=
  let s := updMpe (flushCache s n) n capRepaired
  if (getMpe s n).capState = 2 then s
  else if !rootSound (getMpe s n) then capstoneFail s n
  else updMpe s n (saveNodes (k5 s) n)

/-- Whether a line of the save area verifies as node `idx` of a level of `m`. -/
def savedOk (k : Bytes) (n : Nat) (m : Mpe) (level idx : Nat) : Bool :=
  let l := tgetD m.metaLines (saveBase + capOff level idx) 0
  l.extractLsb' 448 64 == treeMac k n level idx (capParent m level idx) (l.extractLsb' 0 448)

/-- The capstone restored at a wake: the save area is read and verified, T7 against the root and then each level against the level
above, and the shadow is rebuilt. A node that does not verify, or that the stack reports as uncorrectable (free: DESIGN CHOICE, log
entry 27), is a capstone failure. -/
def capstoneRestore (s : State) (n : Nat) : State :=
  match (getMpe s n).savedRoot with
  | none => s
  | some root =>
    let s := updMpe s n fun m =>
      let cap := ((m.metaLines.filter fun e => saveBase ≤ e.1 && e.1 < saveBase + capBytes).map fun e =>
        (e.1 - saveBase, e.2.extractLsb' 0 448))
      { m with root := root, rootCopy := root, cache := [], sticky := [], repairing := [], capstone := cap, shadow := cap }
    let (s, ue) := lineUe s
    let m := getMpe s n
    let ok := capLevels.all fun x => (List.range x.2).all fun i => savedOk (k5 s) n m x.1 i
    if ue ∨ !rootSound m ∨ !ok then capstoneFail s n else s

/-- The stack formatted and the per-boot material loaded (R166, R169). (DEDUCED, log entry 65) -/
def formatStack (s : State) (n : Nat) : State :=
  updMpe s n fun m => { hbm := m.hbm, marked := m.marked, formatted := true, bootReady := true, phase := m.phase }

end Sys2Proof.Machine
end

