-- ==== Sys2Proof/Machine/Mem.lean ====
section
/-! DEFINITION. Reading and writing protected memory: the error conditions of Tables 7.11 and 8.13, the keys an MPE uses,
the read and write forms of chapter 7, the sillage log, and how a request is answered. -/

namespace Sys2Proof.Machine

/-! ## Error conditions -/

/-- Fault code, fence code and default rung of a condition. -/
def memErrInfo : MemErr → BitVec 8 × BitVec 8 × Option Nat
  | .badRequest => (0x10, 0x0B, some 2)
  | .unbound => (0x11, 0x07, some 2)
  | .handover => (0x11, 0x07, some 0)
  | .access => (0x12, 0x0B, some 2)
  | .integrity => (0x13, 0x06, some 2)
  | .memUe => (0x14, 0x06, none)
  | .lane => (0x15, 0x06, none)
  | .sealed => (0x16, 0x0A, some 0)
  | .sealBufferFull => (0x17, 0x0A, none)
  | .majorExhausted => (0x18, 0x08, none)
  | .lost => (0x19, 0x09, none)
  | .metadataLost => (0x1A, 0x09, none)
  | .capstone => (0x1B, 0x0D, some 2)
  | .stackHalted => (0x1C, 0x09, none)
  | .storeSetHeld => (0x1F, 0x09, none)
  | .storeUe => (0x21, 0x0D, some 2)

/-- Words 6 and 7 of a memory fault (Table 16.4). -/
def memDetail (n b st rt : Nat) : Word × Word := (pack [(st % 16, 28), (n % 8, 24), (b % 2 ^ 24, 0)], pack [(rt % 256, 0)])

/-- Condition `e` of request `r` at stack `n` raised (R210). A CAPSTONE that was raised on no request's behalf gets the context of the
request that met it. -/
def raiseMem (s : State) (n : Nat) (r : Req) (e : MemErr) : State :=
  let (code, fence, rung) := memErrInfo e
  let rt := ((findRegion (getMpe s n) r.brick).map (·.1)).getD 0
  let d := memDetail n r.brick (r.off / 256) rt
  let s := if e = .integrity then updMpe s n fun m => { m with fails := satAdd 16 m.fails 1 } else s
  let s := if e = .capstone
    then { s with frs := { s.frs with raised := s.frs.raised.filter fun f =>
            !(f.code == 0x1B && f.unit == unitMpe && f.inst == n && f.cmd.isNone && f.cg.isNone) } }
    else s
  raise s { originFault s r.origin code unitMpe n r.accord fence with rung := rung, detail6 := d.1, detail7 := d.2 }

/-! ## Answers -/

/-- A doorbell word reaches the hub with its stamped accord (R29, R99): the tail of a queue of that accord moves, any
other doorbell is counted as foreign. -/
def forwardDoorbell (s : State) (a : Nat) (w : Word) : State :=
  let qi := fld w 9 0
  let own : Bool := match tget s.queues qi with
    | some q => match tget s.sessions q.session with
      | some e => e.accord == a && a != 0 && e.world == .tenant
      | none => false
    | none => false
  if own then
    match tget s.queues qi with
    | some q => { s with queues := tset s.queues qi { q with tail := fld w 31 16 % 2 ^ q.log2 } }
    | none => s
  else { s with foreignDb := satAdd 8 s.foreignDb 1 }

/-- Doorbells at the head of the core group's list whose earlier stores have all been answered (R110) go on. -/
def releaseDoorbells (s : State) (cg : Nat) : State :=
  let c := getCore s cg
  let go := c.doorbells.takeWhile fun d => d.2.isEmpty
  let s := updCore s cg fun c => { c with doorbells := c.doorbells.dropWhile fun d => d.2.isEmpty }
  go.foldl (fun s d => forwardDoorbell s (fld c.entry 28 19) d.1) s

/-- A response to compute (Table 1.18); an answered store or atomic no longer holds doorbells back. (DESIGN CHOICE, log
entry 7) -/
def respond (s : State) (cg : Nat) (tag : BitVec 16) (ok : Bool) (data : Bytes) : State :=
  let s := { s with responses := s.responses ++ [(cg, tag, if ok then 0 else 1, data)] }
  let s := updCore s cg fun c =>
    { c with stores := c.stores.erase tag, doorbells := c.doorbells.map fun d => (d.1, d.2.erase tag) }
  releaseDoorbells s cg

/-- The answer of a local MPE kept for the stream its request came on, if that is still there (R276). -/
def answerRemote (s : State) (stream : Nat) (x : Answered) : State :=
  updPort s (stream / 256) fun p =>
    { p with streams := tupd p.streams (stream % 256) fun st =>
        if st.inst = x.inst then { st with responses := st.responses ++ [x] } else st }

/-- Bytes of data in the response to an operation (Table 1.18). -/
def answerSize (r : Req) : Nat :=
  match r.op with
  | .readLine => 64
  | .readStretcher => 256
  | .atomic => if bit r.control 20 then 64 else 0
  | _ => 0

/-- The data of a refused request: zeros for a read (R23). What stands in place of the old value of a refused RETURN is not said and
free (DESIGN CHOICE, log entry 31). -/
def refusedData (s : State) (r : Req) : State × Bytes :=
  if r.op = .atomic ∧ answerSize r ≠ 0 then let (s, k) := drawNat s; (s, toLE k 64) else (s, zeros (answerSize r))

/-- Request `r` answered: OK with its data, or ERROR. -/
def answer (s : State) (r : Req) (e : Option MemErr) (data : Bytes) : State :=
  match r.origin with
  | .core cg tag =>
    if e.isSome then let (s, d) := refusedData s r; respond s cg tag false d else respond s cg tag true data
  | .remote st inst oseq =>
    answerRemote s st
      { inst := inst, oseq := oseq, code := (e.map fun x => (memErrInfo x).2.1).getD 0, data := if e.isSome then [] else data, req := r }
  | _ => s

/-- Request `r` refused under condition `e`: the fault, then the answer. (DEDUCED, log entry 31) -/
def refuse (s : State) (n : Nat) (r : Req) (e : MemErr) : State := answer (raiseMem s n r e) r (some e) []

/-! ## Keys (R24, R139, R143) -/

/-- The heart note that an accord's memory keys come from; none while it holds none on the die. (DEDUCED, log entry 5) -/
def heartOf (s : State) (a : Nat) : Option Bytes :=
  if a = 0 then (if (getSlot s 10).key.isEmpty ∨ !s.mpeKeys then none else some (getSlot s 10).key)
  else (getAccord s a).ctx.map (·.heartChip)

/-- The global ID that labels carry for an accord; zero for ROOT. -/
def gidOf (s : State) (a : Nat) : Word := if a = 0 then 0 else (getAccord s a).gid

/-- Keys, counters and BOOT of stretcher `st` of brick `b` of class C under `r` of the accord `a`, generation `gen`.
(DEDUCED, log entry 5) -/
def keyC (s : State) (n b st a gen major minor : Nat) : Option StretcherKey :=
  (heartOf s a).map fun h =>
    let l (p : Nat) : Label :=
      { purpose := p, epoch := gen % 4, stack := n, cls := 1, index := gen, gid := gidOf s a }
    { enc := derive h (l 0x10), tag := derive h (l 0x11), stack := n, brick := b, st := st, major := major
      minor := minor, epoch := gen % 4, boot := bootOf (k5 s) }

/-- Keys of a class R stretcher. (DEDUCED, log entry 5) -/
def keyR (s : State) (n b st a gen : Nat) (v : BitVec 64) : Option StretcherKey :=
  (heartOf s a).map fun h =>
    let l (p : Nat) : Label :=
      { purpose := p, epoch := gen % 4, stack := n, cls := 2, index := gen, gid := gidOf s a }
    { enc := derive h { l 0x12 with sealVal := v }, tag := derive h (l 0x13), stack := n, brick := b, st := st
      epoch := gen % 4, boot := bootOf (k5 s), sealVal := some v }

/-! ## HBM lines of a stretcher -/

/-- A data line or the tag line of a stretcher, as the stack holds it. -/
def storedPart (s : State) (n b st : Nat) (p : HbmPart) : Line :=
  let m := getMpe s n
  let rd (a : Nat) : Line := BitVec.ofNat 512 (leNat (memReadBytes m.hbm 0 a 64))
  match p with
  | .data l => rd (dataAddr b (256 * st + 64 * l.val))
  | .tag => rd (tagAddr b (st / 8 * 8))
  | .node lv => storedNode s n lv.val (courseOf b / 8 ^ lv.val)

/-- The bytes of a line. -/
def lineBytes (l : Line) : Bytes := toLE l.toNat 64

/-- Ciphertext and tag of a stretcher written. -/
def storeStretcher (s : State) (n : Nat) (k : StretcherKey) (plain : Bytes) : State :=
  let ct := bxor plain (keystream k)
  let s := hbmWrite s n (dataAddr k.brick (256 * k.st)) ct
  hbmWrite s n (tagAddr k.brick k.st) (stretcherTag k ct)

/-- Decryption and authentication of a stretcher from its lines; none when the tag does not match. -/
def openStretcher (k : StretcherKey) (ct tag : Bytes) : Option Bytes :=
  if stretcherTag k ct = tag then some (bxor ct (keystream k)) else none

/-- The 256 B of a stretcher as the stack holds them. -/
def storedData (s : State) (n b st : Nat) : Bytes := memReadBytes (getMpe s n).hbm 0 (dataAddr b (256 * st)) 256
/-- The 8 B tag of a stretcher as the stack holds it. -/
def storedTag (s : State) (n b st : Nat) : Bytes := memReadBytes (getMpe s n).hbm 0 (tagAddr b st) 8

/-! ## Checks (R456) -/

/-- Steps 1, 3 and 4: a halted stack, a brick in no region, a channel that is being handed over or whose owner is not
LIVE (R58, Table 2.3), a class S region whose fill still runs (R157; DEDUCED, log entry 15). `bad` is step 2. A request accepted
before DRAIN carries the entry it was accepted under, `place`, and goes on under it until ERASE (R55). -/
def checkPlace (s : State) (n b : Nat) (bad : Bool) (place : Option (Nat × RtEntry)) : Except MemErr (Nat × RtEntry) :=
  let m := getMpe s n
  if m.capState = 2 then .error .stackHalted
  else if bad then .error .badRequest
  else match place.orElse fun _ => findRegion m b with
    | none => .error .unbound
    | some (i, e) =>
      let ch := getRes s .channel (32 * n + chanOf b)
      if ch.state = .erase ∨ (place.isNone ∧ (ch.state = .drain ∨ ch.pending.isSome)) then .error .handover
      else if e.owner ≠ 0 ∧ (getAccord s e.owner).state ≠ .live then .error .handover
      else if e.cls = .s ∧ e.busy then .error .handover
      else .ok (i, e)

/-- Whether the record of a class C brick counts: INIT, CLASS C and the current epoch of its owner (R24, R186, R195). -/
def recLive (s : State) (n : Nat) (r : Rec) : Bool :=
  r.init && r.cls == .c && r.epoch == (epochOf s r.owner .c n).gen % 4

/-- The owner that R24 compares for a class C brick. -/
def ownerC (s : State) (n : Nat) (r : Rec) (e : RtEntry) : Nat := if recLive s n r then r.owner else e.owner

/-- Whether accord `a` may read a sealed region (R180). -/
def mayReadR (s : State) (a : Nat) (e : RtEntry) : Bool := a == e.owner || e.grants.contains (gidOf s a)

/-! ## Reading -/

/-- What the MPE does with a read once the record is known. -/
inductive ReadPlan
  | err (e : MemErr) | zero | mix | need (k : StretcherKey) | noKey

/-- The condition of a request that met a metadata line which failed, in the state that has dealt with it (R165, R206). -/
def loadErr (s : State) (n : Nat) (l : Loaded) : State × MemErr :=
  match l with
  | .failed lv i => (metadataLost s n lv i, .metadataLost)
  | _ => (capstoneFail s n, .capstone)

/-- The read path of R185 and R186 for stretcher `st` of brick `b` for accord `a`, up to the data lines it needs. -/
def planRead (s : State) (n b st a : Nat) (place : Option (Nat × RtEntry)) : State × ReadPlan :=
  match checkPlace s n b false place with
  | .error e => (s, .err e)
  | .ok (_, e) =>
    match e.cls with
    | .s => if a = e.owner then (s, .mix) else (s, .err .access)
    | .r =>
      if !mayReadR s a e then (s, .err .access)
      else if e.sealState ≠ .sealed then (s, .err .sealed)
      else match keyR s n b st e.owner (epochOf s e.owner .r n).gen e.sealVal with
        | some k => (s, .need k)
        | none => (s, .noKey)
    | .c =>
      match loadCourse s n b [] with
      | (s, .ok) =>
        let r := heldRec (getMpe s n) b
        if a ≠ ownerC s n r e then (s, .err .access)
        else if isLost (getMpe s n) b then (s, .err .lost)
        else if !recLive s n r then (s, .zero)
        else match keyC s n b st r.owner (epochOf s r.owner .c n).gen r.major (tgetD r.minor st 0) with
          | some k => (s, .need k)
          | none => (s, .noKey)
      | (s, l) => let (s, e) := loadErr s n l; (s, .err e)

/-- How the two reads of a stretcher that the block itself makes end (R187, R206): clean, an uncorrectable line that the repeat
cures, one that it does not cure, a tag mismatch that it cures. Free (DESIGN CHOICE, log entry 27). -/
inductive ReadLuck
  | clean | cured | ue | mismatch
deriving DecidableEq, Repr

/-- Which of them. -/
def readErrors (s : State) : State × ReadLuck :=
  let (s, k) := drawNat s
  (s, match k % 4 with | 1 => .cured | 2 => .ue | 3 => .mismatch | _ => .clean)

/-- A tag mismatch that the repeat cured, counted (R187). (DEDUCED, log entry 19) -/
def noteRetry (s : State) (n : Nat) (j : ReadLuck) : State :=
  if j = .mismatch then updMpe s n fun m => { m with retryOk := satAdd 16 m.retryOk 1 } else s

/-- The stretcher as the stack holds it, read, authenticated and decrypted for accord `a` (block-originated accesses,
merges and write-backs). -/
def readStretcherNow (s : State) (n b st a : Nat) (place : Option (Nat × RtEntry)) : State × Except MemErr Bytes :=
  match planRead s n b st a place with
  | (s, .err e) => (s, .error e)
  | (s, .zero) => (s, .ok (zeros 256))
  | (s, .noKey) => (s, .error .handover)
  | (s, .mix) =>
    (match readErrors s with
      | (s, .ue) => (s, .error .memUe)
      | (s, _) => (s, .ok (mixLines (k5 s) true n b (4 * st) (storedData s n b st))))
  | (s, .need k) =>
    match readErrors s, openStretcher k (storedData s n b st) (storedTag s n b st) with
    | (s, .ue), _ => (s, .error .memUe)
    | (s, j), some d => (noteRetry s n j, .ok d)
    | (s, j), none =>
      if j = .cured then (s, .error .memUe)
      else
        let cls := ((findRegion (getMpe s n) b).map (·.2.cls)).getD .s
        (if cls = .c then editRec s n b fun r => { r with suspect := true } else s, .error .integrity)

/-! ## Arrival at an MPE -/

/-- The core group that issued a request; 128 for any other origin. -/
def issuer (r : Req) : Nat :=
  match r.origin with
  | .core cg _ => cg
  | _ => 128

/-- Whether a request is an AXU operation at an MPE: an atomic, or a plain read of a stretcher with a VALID entry (R214). -/
def isAxuOp (m : Mpe) (r : Req) : Bool :=
  match r.op with
  | .atomic => true
  | .readLine | .readStretcher => (tget m.store (16 * r.brick + r.off / 256)).any fun e => e.state == .valid
  | _ => false

/-- Whether `r` arrived in the lane cycle of the SCHEDULED AXU operation `q` and is ordered after it (R227). (DESIGN CHOICE,
log entry 28) -/
def arrivedAfter (m : Mpe) (q r : Req) : Bool :=
  r.qos == .scheduled && isAxuOp m r && r.cycle == q.cycle && issuer q < issuer r

/-- A request at the end of the ingress, but before those that R227 orders after it. -/
def insertArrival (m : Mpe) (q : Req) : List Req → List Req
  | [] => [q]
  | r :: rest => if arrivedAfter m q r then q :: r :: rest else r :: insertArrival m q rest

/-- Whether an older request to the same brick waits in the residency buffer, which a later one may not pass (R183, R220). -/
def behindResidency (m : Mpe) (r : Req) : Bool := m.residency.any fun q => q.brick == r.brick

/-- Request `r` put into the residency buffer; the 64th makes the MPE withhold credits (R63). -/
def holdResidency (m : Mpe) (r : Req) : Mpe :=
  { m with residency := m.residency ++ [r], withheld := m.withheld || m.residency.length ≥ 63 }

/-- Credits given again once the residency buffer has drained: what the network kept comes in (R54, R63). -/
def giveCredits (m : Mpe) : Mpe :=
  if m.withheld && m.residency.isEmpty then { m with withheld := false, ingress := m.ingress ++ m.netHeld, netHeld := [] } else m

/-- Whether a class has ingress credits (R54, R63): SCHEDULED always. How many credits a class has is not given; the model lets in
what arrives (DESIGN CHOICE, log entry 74). -/
def hasCredit (m : Mpe) (q : Qos) : Bool := q == .scheduled || !m.withheld

/-- A request reaches MPE `n`, or stays in the network while its class has no credit. Whether a SCHEDULED AXU operation shares the
lane cycle of the one before it is free (DESIGN CHOICE, log entry 28). -/
def reachMpe (s : State) (n : Nat) (q : Req) : State :=
  if !hasCredit (getMpe s n) q.qos then updMpe s n fun m => { m with netHeld := m.netHeld ++ [q] }
  else if q.qos = .scheduled ∧ isAxuOp (getMpe s n) q then
    let (s, k) := drawNat s
    updMpe s n fun m =>
      let c := m.cycle + k % 2
      { m with cycle := c, ingress := insertArrival m { q with cycle := c } m.ingress }
  else updMpe s n fun m => { m with ingress := m.ingress ++ [q] }

/-- A translated request or one from another chip handed to its MPE; one for an MPE that is out of service is refused (R39; DESIGN
CHOICE, log entry 73). -/
def deliver (s : State) (n : Nat) (r : Req) : State :=
  if mpeOk s n then reachMpe s n r else answer (raiseMem s n r .unbound) r (some .unbound) []

/-- Requests that an MPE has accepted and not carried out, changed by `f`. -/
def mapAccepted (m : Mpe) (f : Req → Req) : Mpe :=
  { m with ready := m.ready.map f, residency := m.residency.map f, heldReqs := m.heldReqs.map fun h => (h.1, f h.2)
           reenc := m.reenc.map fun x => { x with req := f x.req }
           store := tmap m.store fun _ e => { e with waiting := e.waiting.map f } }

/-- The requests to the bricks that `sel` selects, as accepted under the region table as it stands: they go on under it when the
channel enters DRAIN or the entry is written anew (R55, R178). -/
def markAccepted (s : State) (n : Nat) (sel : Nat → Bool) : State :=
  updMpe s n fun m => mapAccepted m fun r =>
    if sel r.brick ∧ r.place.isNone then { r with place := findRegion m r.brick } else r

/-- The same requests that are still to be carried out. -/
def acceptedIn (m : Mpe) (sel : Nat → Bool) : Bool :=
  m.ready.any (fun r => sel r.brick) || m.residency.any (fun r => sel r.brick) || m.heldReqs.any (fun h => sel h.1)
    || m.reenc.any (fun x => sel x.brick) || m.reads.any (fun r => sel r.2.req.brick)
    || m.store.any fun e => e.2.waiting.any fun r => sel r.brick

/-! ## Stage 2 for the block's own accesses (R300) -/

/-- The extent of global ID `gid` that holds domain-physical address `dpa`. -/
def stage2 (s : State) (gid : Word) (dpa : Nat) : Option Extent :=
  s.extents.find? fun x => x.gid == gid && x.base ≤ dpa && dpa < x.base + 4096 * x.pages

/-- Stack and data brick on this chip behind a domain-physical address. -/
def stage2Brick (s : State) (gid : Word) (dpa : Nat) : Option (Nat × Nat) :=
  match stage2 s gid dpa with
  | some x => if x.host || fld x.target 63 48 != s.chipId then none
              else some (fld x.target 47 45, fld x.target 44 21 + (dpa - x.base) / 4096)
  | none => none

/-! ## Writing -/

/-- What became of a write. -/
inductive WriteRes
  | done | err (e : MemErr)
  /-- the brick is being re-encrypted first (R190) -/
  | reenc

/-- A line merged under a byte mask. -/
def mergeMask (old new : Bytes) (mask : BitVec 64) : Bytes :=
  (List.range 64).map fun i => if mask.getLsbD i then (new[i]?).getD 0 else (old[i]?).getD 0

/-- All sixteen stretchers of a class C brick written under record `r` of owner `a`. -/
def storeBrickC (s : State) (n b a : Nat) (r : Rec) (plain : Bytes) : State :=
  (List.range 16).foldl
    (fun s st => match keyC s n b st a (epochOf s a .c n).gen r.major 0 with
      | some k => storeStretcher s n k (bslice plain (256 * st) 256)
      | none => s) s

/-- A class C brick written whole (Table 7.4): MAJOR rises, every MINOR clears, the record takes class, owner, epoch and
INIT, and SUSPECT clears. At 2^44 - 1 the brick is FROZEN and its owner told (R194). -/
def writeBrickC (s : State) (n b : Nat) (e : RtEntry) (r : Rec) (plain : Bytes) : State :=
  let r' : Rec := { major := r.major + 1, owner := e.owner, epoch := (epochOf s e.owner .c n).gen % 4, cls := .c
                    init := true, dirty := r.dirty, frozen := r.frozen || r.major + 1 == majorMax, sched := e.sched }
  let s := storeBrickC s n b e.owner r' plain
  let s := putRec s n b r'
  if r.major + 1 = majorMax then ownerEvent s e.owner 5 else s

/-- What the other stretchers of a brick hold before it is re-encrypted: the dirty data of a store entry, which the store writes back
first (R190 step 2), or what is read and verified (step 3). -/
def otherData (s : State) (n b st owner : Nat) : State × Except MemErr Bytes :=
  match tget (getMpe s n).store (16 * b + st) with
  | some en =>
    if en.state = .valid ∧ en.dirty then
      (updMpe s n fun m =>
        { m with axuWritebacks := (m.axuWritebacks + 1) % 2 ^ 32, store := tset m.store (16 * b + st) { en with dirty := false } }
      , .ok en.data)
    else readStretcherNow s n b st owner none
  | none => readStretcherNow s n b st owner none

/-- R190 steps 2 to 5: every stretcher of the brick written anew under the next MAJOR; `new` are the new data of one. One that fails
is written as zeros, and its condition is raised against `q`; one that fails verification makes the brick SUSPECT. -/
def reencrypt (s : State) (n b : Nat) (e : RtEntry) (new : Option (Nat × Bytes)) (q : Req) : State :=
  let r := heldRec (getMpe s n) b
  let step (x : State × Bytes × Bool) (st : Nat) : State × Bytes × Bool :=
    if new.any (·.1 == st) then (x.1, x.2.1 ++ ((new.map (·.2)).getD []), x.2.2)
    else match otherData x.1 n b st r.owner with
      | (s, .ok d) => (s, x.2.1 ++ d, x.2.2)
      | (s, .error f) => (raiseMem s n { q with brick := b, off := 256 * st } f, x.2.1 ++ zeros 256, x.2.2 || f == .integrity)
  let (s, plain, bad) := (List.range 16).foldl step (s, [], false)
  let e' := { e with owner := r.owner, sched := r.sched }
  let s := writeBrickC s n b e' { r with suspect := false } plain
  if bad then editRec s n b fun r => { r with suspect := true } else s

/-- Which request kinds write. -/
def isWrite : MemOp → Bool
  | .writeLine | .writeStretcher | .writeBrick => true
  | _ => false

/-- A class C write after steps 1 to 4 of R456. `inline`: a write-back or a block-originated write re-encrypts at once. -/
def writeC (s : State) (n : Nat) (e : RtEntry) (q : Req) (inline : Bool) : State × WriteRes :=
  let b := q.brick
  let st := q.off / 256
  let m := getMpe s n
  match loadCourse s n b [] with
  | (s, .ok) =>
    let s := countLookup s n b m
    let r := heldRec (getMpe s n) b
    let lost := isLost (getMpe s n) b
    if q.accord ≠ ownerC s n r e then (s, .err .access)
    else if lost ∧ ¬ (q.op = .writeBrick ∧ q.accord = e.owner ∧ ¬ (getMpe s n).stackLost) then (s, .err .lost)
    else if r.frozen then (s, .err .majorExhausted)
    else if q.op = .writeLine ∧ q.mask = 0 then (s, .done)
    else if (heartOf s q.accord).isNone then (s, .err .handover)
    else if q.op = .writeBrick then
      let s := writeBrickC s n b e r q.data
      (updMpe s n fun m => clearLost m (· == b), .done)
    else if !recLive s n r then
      let line := if q.op = .writeLine then mergeMask (zeros 64) q.data q.mask else q.data
      (writeBrickC s n b e r (bput (zeros 4096) (q.off / 64 * 64) line), .done)
    else
      let (s, plain) := if q.op = .writeStretcher then (s, Except.ok q.data)
        else match readStretcherNow s n b st q.accord (some (0, e)) with
          | (s, .ok d) => (s, Except.ok (bput d (q.off % 256 / 64 * 64)
              (mergeMask (bslice d (q.off % 256 / 64 * 64) 64) q.data q.mask)))
          | (s, .error x) => (s, Except.error x)
      match plain with
      | .error x => (s, .err x)
      | .ok d =>
        let minor := tgetD r.minor st 0 + 1
        if minor > 7 then
          if inline then
            let s := updMpe s n fun m => { m with reencInline := satAdd 16 m.reencInline 1 }
            (reencrypt s n b e (some (st, d)) q, .done)
          else (s, .reenc)
        else
          let r' := { r with minor := tset r.minor st minor }
          match keyC s n b st r.owner (epochOf s r.owner .c n).gen r.major minor with
          | none => (s, .err .handover)
          | some k =>
            let s := putRec (storeStretcher s n k d) n b r'
            -- R191: a SCHED brick starts its re-encryption when a MINOR reaches 7
            (if r.sched ∧ minor = 7 ∧ ¬ (getMpe s n).reenc.any (·.brick == b)
             then updMpe s n fun m => { m with reenc := m.reenc ++ [{ brick := b, sched := true, req := q }] } else s, .done)
  | (s, l) => let (s, e) := loadErr (countLookup s n b m) n l; (s, .err e)

/-- One line `l` of stretcher `st` of a class R region in SEALING (R159, R199). `whole`: the line is part of a
stretcher or brick write and takes no seal buffer entry. -/
def sealLine (s : State) (n b st l : Nat) (e : RtEntry) (d : Bytes) : State :=
  match keyR s n b st e.owner (epochOf s e.owner .r n).gen e.sealVal with
  | none => s
  | some k =>
    let ct := bxor d (bslice (keystream k) (64 * l) 64)
    let s := hbmWrite s n (dataAddr b (256 * st + 64 * l)) ct
    let key := 16 * b + st
    let old := tgetD (getMpe s n).sealBuf key []
    let lines := old ++ [BitVec.ofNat 512 (leNat ct)]
    if l = 3 then
      let s := hbmWrite s n (tagAddr b st) (stretcherTag k (lines.flatMap lineBytes))
      updMpe s n fun m => { m with sealBuf := tdel m.sealBuf key }
    else updMpe s n fun m => { m with sealBuf := tset m.sealBuf key lines }

/-- A class R write after steps 1 to 4. -/
def writeR (s : State) (n : Nat) (e : RtEntry) (q : Req) : State × WriteRes :=
  let b := q.brick
  let st := q.off / 256
  let l := q.off % 256 / 64
  if q.accord ≠ e.owner then (s, .err .access)
  else if e.sealState ≠ .sealing ∨ e.busy then (s, .err .sealed)
  else match loadCourse s n b [] with
    | (s', .ok) =>
      let s := countLookup s' n b (getMpe s n)
      let r := heldRec (getMpe s n) b
      let minor := tgetD r.minor st 0
      let zeroMask : Bool := q.op == .writeLine && q.mask == 0
      let inOrder : Bool := match q.op with
        | .writeLine => zeroMask || (q.mask == BitVec.allOnes 64 && l == minor)
        | .writeStretcher => minor == 0
        | _ => r.minor.all (·.2 == 0)
      if !inOrder then (s, .err .sealed)
      else if isLost (getMpe s n) b then (s, .err .lost)
      else if r.frozen then (s, .err .majorExhausted)
      else if zeroMask then (s, .done)
      else if (heartOf s q.accord).isNone then (s, .err .handover)
      else match q.op with
        | .writeLine =>
          if l = 0 ∧ (getMpe s n).sealBuf.length ≥ 1024 then (s, .err .sealBufferFull)
          else (putRec (sealLine s n b st l e q.data) n b { r with minor := tset r.minor st (minor + 1) }, .done)
        | .writeStretcher =>
          match keyR s n b st e.owner (epochOf s e.owner .r n).gen e.sealVal with
          | some k => (putRec (storeStretcher s n k q.data) n b { r with minor := tset r.minor st 4 }, .done)
          | none => (s, .err .handover)
        | _ =>
          let s := (List.range 16).foldl
            (fun s st => match keyR s n b st e.owner (epochOf s e.owner .r n).gen e.sealVal with
              | some k => storeStretcher s n k (bslice q.data (256 * st) 256)
              | none => s) s
          (putRec s n b { r with minor := (List.range 16).map fun i => (i, 4) }, .done)
    | (s, l) => let (s, e) := loadErr s n l; (s, .err e)

/-- Whether a mask covers each 16 B block of the line wholly or not at all (Table 7.4). -/
def blockMask (mask : BitVec 64) : Bool :=
  (List.range 4).all fun k => fld mask (16 * k + 15) (16 * k) == 0 || fld mask (16 * k + 15) (16 * k) == 0xFFFF

/-- A class S write after steps 1 to 4: lines are written directly, each 16 B block by itself, but where a mask covers part of a
block the line is read, unmixed and merged first (Table 7.4). -/
def writeS (s : State) (n : Nat) (e : RtEntry) (q : Req) : State × WriteRes :=
  if q.accord ≠ e.owner then (s, .err .access)
  else if q.op = .writeLine then
    if q.mask = 0 then (s, .done)
    else
      let a := dataAddr q.brick (q.off / 64 * 64)
      let mixed (d : Bytes) : Bytes := mixLines (k5 s) false n q.brick (q.off / 64) d
      let stored := memReadBytes (getMpe s n).hbm 0 a 64
      if blockMask q.mask then
        let new := mixed (bslice q.data 0 64)
        ((List.range 4).foldl
          (fun s k => if fld q.mask (16 * k) (16 * k) = 0 then s else hbmWrite s n (a + 16 * k) (bslice new (16 * k) 16)) s, .done)
      else match readErrors s with
        | (s, .ue) => (s, .err .memUe)
        | (s, _) =>
          let old := mixLines (k5 s) true n q.brick (q.off / 64) stored
          (hbmWrite s n a (mixed (mergeMask old q.data q.mask)), .done)
  else (hbmWrite s n (dataAddr q.brick q.off) (mixLines (k5 s) false n q.brick (q.off / 64) q.data), .done)

/-- Steps 1 to 8 of R456 for a write, and the write itself, without its sillage entry. -/
def writeCore (s : State) (n : Nat) (q : Req) (inline : Bool) : State × WriteRes :=
  match checkPlace s n q.brick false q.place with
  | .error e => (s, .err e)
  | .ok (_, e) =>
    match e.cls with
    | .c => writeC s n e q inline
    | .r => writeR s n e q
    | .s => writeS s n e q

/-! ## The sillage log (R203 to R205) -/

/-- Entry `x` of the store. -/
def storeEntry (s : State) (n x : Nat) : Option StoreEntry := tget (getMpe s n).store x

/-- Entry `x` dropped. -/
def dropEntry (s : State) (n x : Nat) : State := updMpe s n fun m => { m with store := tdel m.store x }

/-- The requests that waited behind a dropped FILLING entry are served afresh in their order (R457). (DEDUCED, log entry 56) -/
def requeueWaiting (s : State) (n x : Nat) : State :=
  match storeEntry s n x with
  | some en => updMpe s n fun m => { m with ready := en.waiting ++ m.ready }
  | none => s

/-- A write of the block that is not logged: a store entry of its stretcher is written back if dirty and invalidated first (R222); a
HELD one refuses the write. -/
def writeUnlogged (s : State) (n : Nat) (q : Req) : State × WriteRes :=
  let x := 16 * q.brick + q.off / 256
  match storeEntry s n x with
  | none => writeCore s n q true
  | some en =>
    if en.state = .held then (s, .err en.heldBy)
    else
      let back : Req := { q with accord := en.owner, op := .writeStretcher, off := q.off / 256 * 256, mask := 0, data := en.data }
      let s := if en.state = .valid ∧ en.dirty then
          (writeCore (updMpe s n fun m => { m with axuWritebacks := (m.axuWritebacks + 1) % 2 ^ 32 }) n back true).1
        else s
      writeCore (dropEntry (requeueWaiting s n x) n x) n q true

/-- One 8 B entry appended to the accord's buffer on stack `n`; a full buffer or a base that does not translate stops
the log as an overflow, and so does an entry that its MPE refuses, whose fault is raised too (DEDUCED, log entry 77). -/
def appendSillage (s : State) (n b a : Nat) (q : Req) : State :=
  match tget (getAccord s a).sillage n with
  | none => s
  | some (base, log2, next, spilt) =>
    let put (next : Nat) (spilt : Bool) (s : State) : State :=
      updAccord s a fun x => { x with sillage := tset x.sillage n (base, log2, next, spilt) }
    let d := memDetail n b (q.off / 256) 0
    let stop (code : BitVec 8) (s : State) : State :=
      raise (ownerEvent (put next true s) a 4)
        { originFault s q.origin code unitMpe n a 0 with fence := none, fenceCode := none, detail6 := d.1, detail7 := d.2 }
    if spilt then s
    else if next ≥ 2 ^ log2 then stop 0x1D s
    else
      let dpa := base.toNat + 8 * next
      match stage2Brick s (gidOf s a) dpa with
      | none => stop 0x1E s
      | some (n', b') =>
        let o := dpa % 4096
        let w : Req := { origin := .block, accord := a, op := .writeLine, stack := n', brick := b', off := o / 64 * 64
                         mask := BitVec.ofNat 64 (0xFF * 2 ^ (o % 64))
                         data := bput (zeros 64) (o % 64) (toLE (b + n * 2 ^ 24) 8) }
        match writeUnlogged s n' w with
        | (s, .done) => put (next + 1) spilt s
        | (s, .err e) => stop 0x1E (raiseMem s n' w e)
        | (s, .reenc) => stop 0x1E s

/-- The log's part of a write that was applied to a class C or R brick of accord `a`. -/
def logWrite (s : State) (n b : Nat) (q : Req) : State :=
  match findRegion (getMpe s n) b with
  | none => s
  | some (_, e) =>
    if e.cls = .s then s
    else
      let r := heldRec (getMpe s n) b
      let walking := (getMpe s n).walk.any fun w => w.accord == e.owner
      match tget (getAccord s e.owner).sillage n with
      | none => s
      | some _ =>
        if r.dirty then (if walking then appendSillage s n b e.owner q else s)
        else appendSillage (editRec s n b fun r => { r with dirty := true }) n b e.owner q

/-- A write with its sillage entry (R183: the entry is part of being applied). -/
def writeLogged (s : State) (n : Nat) (q : Req) (inline : Bool) : State × WriteRes :=
  match writeCore s n q inline with
  | (s, .done) =>
    if q.op = .writeLine ∧ q.mask = 0 then (s, .done) else (logWrite s n q.brick q, .done)
  | r => r

end Sys2Proof.Machine
end

