-- ==== Sys2Proof/Machine/Entries.lean ====
section
/-! DEFINITION. The coalescing store (R213, R214, R217, R221 to R225, R230, R457): its entries, the operations and reads they
serve, fills, write-backs, and the reads and writes of the block itself as the store orders them. -/

namespace Sys2Proof.Machine

/-- Bank and set of a stretcher. -/
def storeSet (x : Nat) : Nat × Nat := ((x.xor ((x / 32).xor (x / 1024))) % 32, x / 32 % 32)

/-- An entry put into the store, most recently used. -/
def putEntry (s : State) (n x : Nat) (e : StoreEntry) : State :=
  let s := updMpe s n fun m => { m with store := tset m.store x { e with lastUse := s.stamp } }
  { s with stamp := s.stamp + 1 }

/-! ## What the store takes of a slot (R64, R65, R214) -/

/-- Credit of one stretcher: 256 B in units of 1/4,352 of a byte, the share of a slot that 1 GB/s at scale 1/256 gains in 40
slots (R64, R65: 4 lane cycles at 1.7 GHz). -/
def stretcherCredit : Int := 1114112

/-- One stretcher of accord `a` moved outside a slot's own admissions, taken from the next slot's budget in class `qos`: a write-back,
an eviction, a request of FOLD. -/
def chargeStretcher (s : State) (n a : Nat) (qos : Qos) : State :=
  updMpe s n fun m =>
    { m with slotUsed := m.slotUsed + 1, delivered := tset m.delivered a (tgetD m.delivered a 0 + 1)
             credit := if qos = .reserved then tset m.credit a (tgetD m.credit a 0 - stretcherCredit) else m.credit }

/-! ## Operations and reads on an entry -/

/-- An AXU operation counted (Table 8.15); `hit`: the entry was VALID when the operation came. -/
def countOp (s : State) (n : Nat) (hit : Bool) : State :=
  updMpe s n fun m => { m with axuOps := (m.axuOps + 1) % 2 ^ 32, axuHits := (m.axuHits + b2n hit) % 2 ^ 32 }

/-- The cell flags of a region table entry after an operation (R230). -/
def noteCells (s : State) (n rt : Nat) (fl : CellFlags) : State :=
  updMpe s n fun m => match tget m.rt rt with
    | none => m
    | some e =>
      let e := { e with overflow := e.overflow || fl.overflow, invalid := e.invalid || fl.invalid, loss := satAdd 32 e.loss fl.loss }
      { m with rt := tset m.rt rt e }

/-- An operation applied to a store entry (R221), with the cell flags of its region and its answer (R217, R230). -/
def applyOp (s : State) (n x : Nat) (r : Req) (en : StoreEntry) : State :=
  let l := r.off % 256 / 64 * 64
  let off := r.off % 64
  let line := bslice en.data l 64
  let f := ((tget (getMpe s n).rt en.rt).map fun e => e.f.toInt).getD 0
  let (new, fl) := applyAtomic r.control r.mask off r.data line f
  let data := bput en.data l new
  let s := putEntry s n x { en with data := data, dirty := en.dirty || data != en.data }
  answer (noteCells s n en.rt fl) r none (if wantsOld r.control then oldValue r.control off line else [])

/-- An operation on a VALID or HELD entry. -/
def opOnEntry (s : State) (n x : Nat) (r : Req) (en : StoreEntry) (hit : Bool) : State :=
  if r.accord ≠ en.owner then refuse s n r .access
  else if en.state = .held then refuse s n r en.heldBy
  else applyOp (countOp s n hit) n x r en

/-- Whether an atomic is a vector operation with an all-zero mask (R182, R216). -/
def emptyAtomic (r : Req) : Bool := isVector r.control && r.mask == 0

/-- The answer to an atomic with an all-zero mask: OK. With RETURN, the old line `old` where the MPE knows it; else the spec gives it
no value, since HBM is not read. (DESIGN CHOICE, log entry 18) -/
def answerEmpty (s : State) (r : Req) (old : Option Bytes) : State :=
  if !wantsOld r.control then answer s r none []
  else match old with
    | some d => answer s r none (bslice d (r.off % 256 / 64 * 64) 64)
    | none =>
      let (s, k) := drawNat s
      answer s r none (toLE k 64)

/-- The plaintext of a stretcher as the answer to a read. -/
def readData (r : Req) (d : Bytes) : Bytes :=
  match r.op with
  | .readLine => bslice d (r.off % 256 / 64 * 64) 64
  | _ => d

/-- A read served from a store entry (R222). -/
def readEntry (s : State) (n : Nat) (r : Req) (en : StoreEntry) (hit : Bool) : State :=
  if r.accord ≠ en.owner then refuse s n r .access
  else answer (if hit ∧ en.state = .valid then countOp s n true else s) r none (readData r en.data)

/-! ## Fills -/

/-- A request that waited behind a fill, served from the entry as it is now. (DEDUCED, log entry 56) -/
def serveWaiting (s : State) (n x : Nat) (r : Req) : State :=
  match storeEntry s n x with
  | none => updMpe s n fun m => { m with ready := m.ready ++ [r] }
  | some en =>
    if r.op = .atomic then
      if emptyAtomic r ∧ r.accord = en.owner then answerEmpty s r (some en.data) else opOnEntry s n x r en false
    else readEntry s n r en false

/-- A fill whose result is in ends (R214, R221, R223, R457): the requests behind it are served in their order, or refused with the
fill's condition, each after its own owner comparison (R456). -/
def fillComplete (s : State) (n x : Nat) : State :=
  match storeEntry s n x with
  | none => s
  | some en => match en.fillResult with
    | none => s
    | some (.failed e) =>
      en.waiting.foldl (fun s r => refuse s n r (if r.accord = en.owner then e else .access)) (dropEntry s n x)
    | some (.data d) =>
      let s := putEntry s n x { en with state := .valid, data := d, fillResult := none, fillRead := none, waiting := [] }
      en.waiting.foldl (fun s r => serveWaiting s n x r) s

/-- The owner an entry is filled under: the counter record's for class C, else the region table entry's (R223). -/
def fillOwner (s : State) (n b : Nat) (cls : Cls) (e : Nat) : Nat :=
  let r := heldRec (getMpe s n) b
  if cls = .c ∧ recLive s n r then r.owner else e

/-- A fill that a read or write of the block itself waits for, ended at once; its posted read is given up. (DEDUCED, log entry 56) -/
def forceFill (s : State) (n x : Nat) : State :=
  match storeEntry s n x with
  | none => s
  | some en =>
    if en.state ≠ .filling then s
    else
      let set (s : State) (res : FillResult) : State :=
        updMpe s n fun m =>
          { m with store := tset m.store x { en with fillResult := some res, owner := fillOwner s n (x / 16) en.cls en.owner }
                   reads := match en.fillRead with
                     | some rid => tdel m.reads rid
                     | none => m.reads }
      let s := match en.fillResult with
        | some _ => s
        | none => match readStretcherNow s n (x / 16) (x % 16) en.owner (findRegion (getMpe s n) (x / 16)) with
          | (s, .ok d) =>
            set s (if en.cls = .c ∧ (heldRec (getMpe s n) (x / 16)).frozen then .failed .majorExhausted else .data d)
          | (s, .error e) => set s (.failed e)
      fillComplete s n x

/-! ## Write-backs -/

/-- The condition that holds an entry whose write-back met `e` (R224): FROZEN, LOST or a halted stack; none for any other. -/
def holdsEntry : MemErr → Option MemErr
  | .majorExhausted => some .majorExhausted
  | .lost | .metadataLost => some .lost
  | .stackHalted | .capstone => some .stackHalted
  | _ => none

/-- Entry `x` written back when it is dirty (R224), in class `qos` of what caused it (R214). A write-back that a FROZEN or LOST brick
or a halted stack refuses leaves it HELD and tells the owner; one refused for another reason leaves it as it was. -/
def writeBackEntry (s : State) (n x : Nat) (qos : Qos) : State :=
  match storeEntry s n x with
  | none => s
  | some en =>
    if en.state ≠ .valid ∨ !en.dirty then s
    else
      let s := chargeStretcher s n en.owner qos
      let s := updMpe s n fun m => { m with axuWritebacks := (m.axuWritebacks + 1) % 2 ^ 32 }
      let q : Req := { origin := .block, accord := en.owner, qos := qos, op := .writeStretcher, stack := n, brick := x / 16
                       off := 256 * (x % 16), data := en.data, place := findRegion (getMpe s n) (x / 16) }
      match writeLogged s n q true with
      | (s, .err e) =>
        let s := if e = .metadataLost then raiseMem s n q e else s
        (match holdsEntry e with
          | none => s
          | some h =>
            let s := updMpe s n fun m => { m with store := tset m.store x { en with state := .held, heldBy := h } }
            let d := memDetail n (x / 16) (x % 16) en.rt
            raise (ownerEvent s en.owner 3)
              { code := 0x20, unit := unitMpe, inst := n, accord := en.owner, detail6 := d.1, detail7 := d.2 })
      | (s, _) => updMpe s n fun m => { m with store := tset m.store x { en with dirty := false } }

/-- Entries that `f` selects invalidated without write-back. -/
def invalidateStore (s : State) (n : Nat) (f : Nat → StoreEntry → Bool) : State :=
  ((getMpe s n).store.filter fun e => f e.1 e.2).foldl (fun s e => dropEntry (requeueWaiting s n e.1) n e.1) s

/-- Entries that `f` selects written back if dirty, and invalidated, HELD ones without write-back (Table 8.6). -/
def flushStore (s : State) (n : Nat) (f : Nat → StoreEntry → Bool) : State :=
  ((getMpe s n).store.filter fun e => f e.1 e.2).foldl
    (fun s e => dropEntry (requeueWaiting (writeBackEntry s n e.1 .bestEffort) n e.1) n e.1) s

/-! ## Writes that meet entries (R222) -/

/-- The stretchers a plain request covers. -/
def stretchersOf (q : Req) : List Nat :=
  if q.op = .writeBrick then (List.range 16).map (· + 16 * q.brick) else [16 * q.brick + q.off / 256]

/-- Whether a WRITE_BRICK that R208 admits supersedes a HELD entry: the entry is held by LOST, and the brick alone, not the
whole stack, is LOST. -/
def supersedes (s : State) (n : Nat) (q : Req) (en : StoreEntry) : Bool :=
  q.op == .writeBrick && en.heldBy == .lost && isLost (getMpe s n) q.brick && !(getMpe s n).stackLost

/-- A write that meets store entries: a fill ends first, entries are written back and dropped; a HELD one refuses the write, but for
the WRITE_BRICK of R208. `none` when the write may go on. -/
def clearEntries (s : State) (n : Nat) (q : Req) : State × Option MemErr :=
  (stretchersOf q).foldl
    (fun (x : State × Option MemErr) i =>
      if x.2.isSome then x
      else
        let s := writeBackEntry (forceFill x.1 n i) n i q.qos
        match storeEntry s n i with
        | none => (s, none)
        | some en =>
          if en.state = .held ∧ ¬ supersedes s n q en then (s, some en.heldBy) else (dropEntry s n i, none))
    (s, none)

/-- A plain write of the block or of a command, store entries included. -/
def writeNow (s : State) (n : Nat) (q : Req) : State × Option MemErr :=
  if !mpeOk s n then (s, some .unbound)
  else match checkPlace s n q.brick false q.place with
  | .error e => (s, some e)
  | .ok _ =>
    match clearEntries s n q with
    | (s, some e) => (s, some e)
    | (s, none) =>
      match writeLogged s n q true with
      | (s, .err e) => (s, some e)
      | (s, _) => (s, none)

/-- A stretcher as every reader sees it: from its store entry once that is filled, else from the stack. -/
def readNow (s : State) (n b st a : Nat) : State × Except MemErr Bytes :=
  if !mpeOk s n then (s, .error .unbound)
  else
  let s := forceFill s n (16 * b + st)
  match storeEntry s n (16 * b + st) with
  | some en =>
    (match checkPlace s n b false none with
      | .error e => (s, .error e)
      | .ok _ => if a = en.owner then (s, .ok en.data) else (s, .error .access))
  | none => readStretcherNow s n b st a none

/-- Bytes `off` to `off + len` of one brick, read for accord `a`. -/
def readBrickBytes (s : State) (n b a off len : Nat) : State × Except MemErr Bytes :=
  let first := off / 256
  let cnt := (off + len + 255) / 256 - first
  let r := (List.range cnt).foldl
    (fun (x : State × Except MemErr Bytes) i =>
      match x.2 with
      | .error e => (x.1, .error e)
      | .ok d => match readNow x.1 n b (first + i) a with
        | (s, .ok e) => (s, .ok (d ++ e))
        | (s, .error e) => (s, .error e))
    (s, .ok [])
  (r.1, r.2.map fun d => bslice d (off % 256) len)

/-- Bytes written from offset `off` of one brick for accord `a`, line by line. -/
def writeBrickBytes (s : State) (n b a off : Nat) (d : Bytes) (o : Origin) : State × Option MemErr :=
  let first := off / 64
  let cnt := (off + d.length + 63) / 64 - first
  (List.range cnt).foldl
    (fun (x : State × Option MemErr) i =>
      if x.2.isSome then x
      else
        let base := 64 * (first + i)
        let lo := if off > base then off - base else 0
        let hi := Nat.min 64 (off + d.length - base)
        let data := zeros lo ++ (d.drop (base + lo - off)).take (hi - lo)
        writeNow x.1 n
          { origin := o, accord := a, op := .writeLine, stack := n, brick := b, off := base
            mask := BitVec.ofNat 64 (2 ^ hi - 2 ^ lo), data := bslice data 0 64 })
    (s, none)

/-! ## Lane mismatches (R33, R412) -/

/-- A lane of request `r`'s group disagreed with its spare (R33): the fault is raised and the lane marked, and a second mismatch in
the group before the next start asks for rung 1 (R412). (DEDUCED, log entry 19) -/
def laneMismatch (s : State) (n i : Nat) (r : Req) : State :=
  let u : UnitRef := .laneGroup n (i / 20 % 4)
  let second := s.frs.mismatched.contains u
  let d := memDetail n r.brick (r.off / 256) (((findRegion (getMpe s n) r.brick).map (·.1)).getD 0)
  let s := raise s
    { originFault s r.origin 0x15 unitMpe n r.accord 0x06 with
      rung := if second then some 1 else none, ref := some u, detail6 := d.1, detail7 := d.2 }
  let s := { s with frs := { s.frs with mismatched := if second then s.frs.mismatched else s.frs.mismatched ++ [u] } }
  updMpe s n fun m => { m with marked := if m.marked.contains i then m.marked else m.marked ++ [i] }

/-- Whether a lane's mismatch can be found: a group whose spare works in place of a lane checks nothing (R412, R448). -/
def laneChecked (m : Mpe) (i : Nat) : Bool := !m.resetGroups.contains (i / 20 % 4)

/-! ## Re-encryption -/

/-- Requests held by the re-encryption of a brick go on, before all others. (DEDUCED, log entry 56) -/
def resumeHeld (s : State) (n b : Nat) : State :=
  updMpe s n fun m =>
    { m with ready := (m.heldReqs.filter fun h => h.1 == b).map (·.2) ++ m.ready
             heldReqs := m.heldReqs.filter fun h => h.1 != b }

/-- The re-encryption of a brick carried out: with the write that waits for it (R190), or by itself (R191). -/
def finishReenc (s : State) (n : Nat) (x : Reenc) : State :=
  let b := x.brick
  let s := updMpe s n fun m => { m with reenc := m.reenc.erase x }
  let s :=
    if x.sched then
      match checkPlace s n b false x.req.place with
      | .error _ => s
      | .ok (_, e) => match loadCourse s n b [] with
        | (s, .ok) =>
          let r := heldRec (getMpe s n) b
          if recLive s n r ∧ !r.frozen then
            reencrypt (updMpe s n fun m => { m with reencSched := satAdd 16 m.reencSched 1 }) n b e none x.req
          else s
        | (s, l) => let (s, f) := loadErr s n l; raiseMem s n x.req f
    else match writeLogged s n x.req true with
      | (s, .err e) => refuse s n x.req e
      | (s, _) => answer s x.req none []
  resumeHeld s n b

end Sys2Proof.Machine
end

