-- ==== Sys2Proof/Machine/Residency.lean ====
section
/-! DEFINITION. The hot set (R60 to R63), flacons (R138 to R142) and the key context cache. Engine keys are no state of
their own: each is the function of the key context that R138 derives it from (DEDUCED, log entry 5). -/

namespace Sys2Proof.Machine

/-- Entries of the hot set for tenant accords (R60). (DESIGN CHOICE, log entry 55) -/
def hotSetSize : Nat := 64

/-- Whether accord `a` holds its keys on the die: ROOT and OPEN always do (R60). (DEDUCED, log entry 5) -/
def isResident (s : State) (a : Nat) : Bool := a < 2 || (getAccord s a).ctx.isSome

/-- Tenant accords in the hot set. -/
def residents (s : State) : List Nat := (s.accords.filter fun e => e.1 ≥ 2 && e.2.ctx.isSome).map (·.1)

/-- An epoch as the 16 bits of Table 5.9's EPOCH_MAP. -/
def epochBits (e : Epoch) : Nat := e.gen % 2 ^ 15 + b2n e.prevLive * 2 ^ 15

/-- The 128 B key context of an accord (Table 5.9). -/
def contextBytes (s : State) (a seq : Nat) (c : KeyContext) : Bytes :=
  let x := getAccord s a
  toLE x.gid.toNat 4 ++ toLE seq 4 ++ toLE a 2 ++ [0x01] ++ toLE (b2n x.far + 2 * b2n x.scheduled) 1 ++ zeros 4
    ++ bslice c.heartChip 0 32 ++ bslice c.heartShared 0 32
    ++ ((List.range 8).flatMap fun n => toLE (epochBits (tgetD x.epochC n {})) 2 ++ toLE (epochBits (tgetD x.epochR n {})) 2)
    ++ toLE x.sealCounter.toNat 8 ++ zeros 8

/-- The 256 B flacon of an accord (R140). -/
def flaconBytes (s : State) (a seq : Nat) (c : KeyContext) : Bytes :=
  [0x46, 0x4C, 0x43, 0x4E] ++ toLE a 2 ++ zeros 2 ++ toLE (getAccord s a).gid.toNat 4 ++ toLE seq 4
    ++ kwWrap (getSlot s 3).key (contextBytes s a seq c) ++ zeros 104

/-- A context spilled: the flacon, under the next FLACON_SEQ, and the key object that names it, at index 256 + a (R129, R140, R141). (DESIGN
CHOICE, log entry 88) -/
def spillContext (s : State) (a : Nat) (c : KeyContext) : State :=
  let seq := tgetD s.flaconSeq a 0 + 1
  let made := tget s.keyObjs (256 + a)
  let s := { s with flaconSeq := tset s.flaconSeq a seq, spills := s.spills + 1
                    keyObjs := tset s.keyObjs (256 + a) (made.getD { owner := 0, dref := 1 }) }
  let f := flaconBytes s a seq.toNat c
  updAccord s a fun x => { x with ctx := none, flacon := some f }

/-- An accord evicted (R62): its re-encryptions in flight end, its store entries are written back and invalidated, its context is
spilled as a flacon under the next FLACON_SEQ, and its keys leave the die. -/
def evict (s : State) (a : Nat) : State :=
  match (getAccord s a).ctx with
  | none => s
  | some c =>
    let s := (List.range 8).foldl
      (fun s n =>
        let s := ((getMpe s n).reenc.filter fun x => x.req.accord == a).foldl (fun s x => finishReenc s n x) s
        flushStore s n fun _ e => e.owner == a) s
    spillContext s a c

/-- Whether a started command of session `x` names a heart note or an owned slot of accord `a` as a source (R142): the key a KEY_DERIVE
starts from, the one a KEY_STAGE unwraps under, a GCE_RUN's, and the bounce key of a record. (DEDUCED, log entry 88) -/
def namesSource (s : State) (a id : Nat) (c : Started) (x : Session) : Bool :=
  let w := wd c.words 8
  let own : Bool := x.accord == a
  let ofSlot (i : Nat) : Bool := (getSlot s i).owner == a
  match fld (wd c.words 0) 31 24 with
  | 0x2C => if fld w 9 8 = 0 then ofSlot (fld w 7 0) else if x.world = .root then fld w 25 16 == a else own
  | 0x28 => match c.wait with
    | .keyStage _ blk => (leField blk 0 1 == 1 && own) || (leField blk 0 1 == 2 && ofSlot (leField blk 1 1))
    | _ => own
  | 0x30 => match s.gce.running with
    | some r => if r.job = id then ofSlot r.slot else own
    | none => own
  | 0x3A | 0x3B => match c.wait with
    | .bounce _ _ _ (some b) => b == a
    | _ => own || (x.world == .host && x.fn.any fun v => (getVf s v).bound == some a)
  | _ => false

/-- Whether a started command keeps accord `a` in the hot set (R142). -/
def isSource (s : State) (a : Nat) : Bool :=
  s.started.any fun e => (tget s.sessions e.2.session).any fun x => namesSource s a e.1 e.2 x

/-- The accord that R62 evicts next: not pinned, not a source, its last request the oldest, ties to the lowest index. -/
def victim (s : State) : Option Nat :=
  let cand := (residents s).filter fun a => !(getAccord s a).scheduled && !isSource s a
  cand.foldl
    (fun (b : Option Nat) a => match b with
      | none => some a
      | some x => if (getAccord s a).lastUse < (getAccord s x).lastUse then some a else b)
    none

/-- A flacon unwrapped and checked (R141): the heart notes, or none. -/
def openFlacon (s : State) (a : Nat) (f : Bytes) : Option KeyContext :=
  match kwUnwrap (getSlot s 3).key (bslice f 16 136) with
  | none => none
  | some c =>
    let gid := leField c 0 4
    let seq := leField c 4 4
    if gid = leField f 8 4 ∧ seq = leField f 12 4 ∧ gid = (getAccord s a).gid.toNat
        ∧ seq = (tgetD s.flaconSeq a 0).toNat
    then some { heartChip := bslice c 16 32, heartShared := bslice c 48 32 } else none

/-- Accord `a` made resident (R62). False when no entry can be freed, or its flacon is bad: that raises FLACON_BAD and
the accord takes a partition reset (R141). -/
def makeResident (s : State) (a : Nat) : State × Bool :=
  if isResident s a then (touchAccord s a, true)
  else match (getAccord s a).flacon with
    | none => (s, false)
    | some f =>
      let (s, room) := if (residents s).length < hotSetSize then (s, true)
        else match victim s with
          | some v => (evict s v, true)
          | none => (s, false)
      if !room then (s, false)
      else match openFlacon s a f with
        | some c =>
          (touchAccord (updAccord { s with fills := s.fills + 1 } a fun x => { x with ctx := some c }) a, true)
        | none =>
          (raise (updAccord s a fun x => { x with flacon := none }) { code := 0x60, unit := unitHub, accord := a, rung := some 2 }, false)

/-! ## Access for the block's commands, whatever the hot set holds -/

/-- Bytes at a domain-physical address of accord `a`, through stage 2, on this chip (R98). -/
def readDpa (s : State) (a dpa len : Nat) : State × Option Bytes :=
  let s := (makeResident s a).1
  let pages := (dpa + len + 4095) / 4096 - dpa / 4096
  (List.range pages).foldl
    (fun (x : State × Option Bytes) i =>
      match x.2 with
      | none => x
      | some d =>
        let lo := if i = 0 then dpa % 4096 else 0
        let at_ := (dpa / 4096 + i) * 4096
        let hi := Nat.min 4096 (dpa + len - at_)
        match stage2Brick x.1 (gidOf x.1 a) at_ with
        | none => (x.1, none)
        | some (n, b) => match readBrickBytes x.1 n b a lo (hi - lo) with
          | (s, .ok e) => (s, some (d ++ e))
          | (s, .error _) => (s, none))
    (s, some [])

/-- Bytes written at a domain-physical address of accord `a`; false when part of it was refused. -/
def writeDpa (s : State) (a dpa : Nat) (d : Bytes) (o : Origin) : State × Bool :=
  let s := (makeResident s a).1
  let pages := (dpa + d.length + 4095) / 4096 - dpa / 4096
  (List.range pages).foldl
    (fun (x : State × Bool) i =>
      if !x.2 then x
      else
        let lo := if i = 0 then dpa % 4096 else 0
        let at_ := (dpa / 4096 + i) * 4096
        let hi := Nat.min 4096 (dpa + d.length - at_)
        match stage2 x.1 (gidOf x.1 a) at_, stage2Brick x.1 (gidOf x.1 a) at_ with
        | some e, some (n, b) =>
          if !e.writable then (x.1, false)
          else match writeBrickBytes x.1 n b a lo ((d.drop (at_ + lo - dpa)).take (hi - lo)) o with
            | (s, none) => (s, true)
            | (s, some _) => (s, false)
        | _, _ => (x.1, false))
    (s, true)

end Sys2Proof.Machine
end

