-- ==== Sys2Proof/Machine/Windows.lean ====
section
/-! DEFINITION. Streams by number, and the transmit side of a port: packing windows, sealing them, resending (R248, R250,
R253 to R257, R260 to R264). -/

namespace Sys2Proof.Machine

/-- Stream number of entry `e` of port `p` (R248). -/
def streamNo (p e : Nat) : Nat := 256 * p + e
/-- Entry `e` of port `p`. -/
def getStream (s : State) (p e : Nat) : Stream := tgetD (getPort s p).streams e {}
/-- Entry `e` of port `p` changed by `f`. -/
def updStream (s : State) (p e : Nat) (f : Stream → Stream) : State :=
  updPort s p fun x => { x with streams := tset x.streams e (f (tgetD x.streams e {})) }
/-- A message queued on the control stream of bond `b` (Table 9.5). -/
def controlMessage (s : State) (b : Nat) (type : Nat) (body : Bytes) : State :=
  updBond s b fun x => { x with outbox := x.outbox ++ [(BitVec.ofNat 16 type, body)] }

/-- Ports of a mask. -/
def maskPorts (m : Word) : List Nat := (List.range 32).filter fun p => m.getLsbD p

/-! ## Streams by number: a table entry below 8,192, else the control stream of a bond -/

/-- The number by which the model names the control stream of bond `b`. -/
def ctlNo (b : Nat) : Nat := 8192 + b
/-- Whether a number names a control stream. -/
def isCtl (n : Nat) : Bool := n ≥ 8192
/-- A stream by number. -/
def getS (s : State) (n : Nat) : Stream := if isCtl n then (getBond s (n - 8192)).ctl else getStream s (n / 256) (n % 256)
/-- A stream by number changed by `f`. -/
def updS (s : State) (n : Nat) (f : Stream → Stream) : State :=
  if isCtl n then updBond s (n - 8192) fun b => { b with ctl := f b.ctl } else updStream s (n / 256) (n % 256) f
/-- The bond of a stream. -/
def bondOf (s : State) (n : Nat) : Nat := if isCtl n then n - 8192 else (getS s n).bond
/-- The lowest-numbered UP port of a bond's mask, which carries its control stream (R247). (DEDUCED, log entry 63) -/
def controlPort (s : State) (b : Nat) : Option Nat := (maskPorts (getBond s b).mask).find? fun p => (getPort s p).state == .up
/-- The port a stream sends on. -/
def portOf (s : State) (n : Nat) : Option Nat := if isCtl n then controlPort s (n - 8192) else some (n / 256)

/-! ## Keys (R246, R255, R262) -/

/-- PEER of every link label: the responder's chip ID. -/
def responderId (s : State) (b : Bond) : Nat := if b.initiator then b.peer else s.chipId
/-- The key of a direction: LINK_TX protects initiator to responder. -/
def linkKey (s : State) (b : Bond) (toPeer : Bool) (root : Bytes) (gen : Nat) : Bytes :=
  derive root { purpose := if b.initiator == toPeer then 0x21 else 0x22, peer := responderId s b, index := gen }
/-- The transmit key of a generation: the current one, the one before it while it is held, or the next one while a flip is under
way. -/
def txKey (s : State) (b : Bond) (gen : Nat) : Bytes :=
  let root := if gen = b.txGen then b.root
    else if gen = (b.txGen + 1) % 65536 ∧ b.flipping then b.flipRoot.getD b.root
    else b.oldTx.getD b.root
  linkKey s b true root gen

/-! ## Flits -/

/-- Bytes 0 to 15 of a flit (Table 9.8). -/
def flitHeader (dest src kind pos stream route : Nat) : Bytes :=
  toLE dest 2 ++ toLE src 2 ++ toLE kind 1 ++ toLE pos 1 ++ toLE stream 2 ++ toLE route 4 ++ zeros 4

/-- IV of a window (R255). -/
def windowIv (salt : Word) (seq : Nat) : Bytes := toBE salt.toNat 4 ++ toBE seq 8

/-- Bytes 28 to 63 of a TAG flit (R254). -/
def tagFields (seq gen flits gid ack : Nat) (nak : Bool) : Bytes :=
  toLE seq 8 ++ toLE (gen % 2) 1 ++ toLE flits 1 ++ zeros 2 ++ toLE gid 4 ++ toLE ack 8 ++ toLE (1 + 2 * b2n nak) 1 ++ zeros 11

/-- Header of a flit that stream `n` sends. -/
def windowHeader (s : State) (n kind pos : Nat) : Bytes :=
  let b := getBond s (bondOf s n)
  let x := getS s n
  flitHeader b.peer s.chipId kind pos (if isCtl n then 0x2000 else x.peerStream)
    (if isCtl n then ((b.peerModules.map (·.1)).head?).getD 0 else x.peerPort)

/-- DATA flit `i` of an open window of stream `n`: the plaintext there is, padded with zeros, encrypted (R255). -/
def windowFlit (s : State) (n : Nat) (w : OpenWindow) (i : Nat) : Bytes :=
  let ct := gcmCrypt (txKey s (getBond s (bondOf s n)) w.gen) (windowIv w.salt w.seq) (bslice w.pt 0 (240 * (i + 1)))
  windowHeader s n 1 i ++ bslice ct (240 * i) 240

/-- The TAG flit that closes a window of stream `n` (R254, R255); it pays what acknowledgement is owed (R260). -/
def windowTag (s : State) (n : Nat) (w : OpenWindow) : Bytes :=
  let x := getS s n
  let hdr := windowHeader s n 2 0
  let fields := tagFields w.seq w.gen w.flits.length (if isCtl n then 0 else (gidOf s x.accord).toNat) x.rxSeq x.nakOwed
  let aad := w.flits.flatMap (bslice · 0 8) ++ bslice hdr 0 8 ++ fields
  let key := txKey s (getBond s (bondOf s n)) w.gen
  hdr ++ (gcmTag key (windowIv w.salt w.seq) aad (w.flits.flatMap (bslice · 16 240))).take 12 ++ fields ++ zeros 192

/-! ## Opening, filling and closing (R256, R261, R262, R264) -/

/-- Windows that port `p` holds for retransmission, with those still open on it (R261). -/
def windowsHeld (s : State) (p : Nat) : Nat :=
  let one (x : Stream) : Nat := x.sent.length + b2n x.win.isSome
  (getPort s p).streams.foldl (fun k e => k + one e.2) 0
    + s.bonds.foldl (fun k e => k + (if controlPort s e.1 = some p then one e.2.ctl else 0)) 0

/-- Whether the transmit root of a bond has run all its generations (R264). -/
def rootWornOut (b : Bond) : Bool := b.rootGens ≥ 65536

/-- Whether a port may open a window of stream `n` (R261, R262, R264): room in the retransmit buffer, and the bond's key not worn
out. The control stream goes on with a worn-out root, since the next one comes over it. (DEDUCED, log entry 64) -/
def mayOpenWindow (s : State) (p n : Nat) : Bool :=
  let b := getBond s (bondOf s n)
  windowsHeld s p < 128 && tgetD (getPort s p).genWindows (bondOf s n) 0 < 2 ^ 26 && (isCtl n || !rootWornOut b)

/-- A window of stream `n` opened: it takes its SEQ, generation and salt (R257). -/
def startWindow (s : State) (n : Nat) : State :=
  updS s n fun x => { x with win := some { seq := x.txSeq, gen := x.txGen, salt := x.txSalt }, txSeq := x.txSeq + 1 }

/-- The DATA flits of stream `n`'s open window that are full put into the egress, and with `part` also one that is not (R256). -/
def sendFlits (s : State) (n : Nat) (part : Bool) : State :=
  match (getS s n).win, portOf s n with
  | some w, some p =>
    let rest : Bool := part && w.pt.length % 240 != 0
    let new := (List.range (w.pt.length / 240 + b2n rest - w.flits.length)).map fun i => windowFlit s n w (w.flits.length + i)
    let s := updS s n fun x => { x with win := some { w with flits := w.flits ++ new, ended := w.ended || rest } }
    updPort s p fun y => { y with egress := y.egress ++ new }
  | _, _ => s

/-- The open window of stream `n` closed: its last DATA flit and its TAG flit enter the egress, and the window is held until it is
acknowledged (R256, R260, R261). -/
def closeWindow (s : State) (n : Nat) : State :=
  let s := sendFlits s n true
  match (getS s n).win, portOf s n with
  | some w, some p =>
    let tag := windowTag s n w
    let s := updS s n fun x =>
      { x with win := none, ackOwed := false, nakOwed := false
               sent := x.sent ++ [{ seq := w.seq, gen := w.gen, flits := w.flits ++ [tag] }] }
    let k := tgetD (getPort s p).genWindows (bondOf s n) 0 + 1
    -- PHASE_STALL: the flip was not done in time (R267)
    let s := if k = 2 ^ 26 then raise s { code := 0x34, unit := unitPort, inst := p } else s
    updPort s p fun y => { y with egress := y.egress ++ [tag], txWin := y.txWin + 1, genWindows := tset y.genWindows (bondOf s n) k }
  | _, _ => s

/-- A window that holds 16 DATA flits closes (R256). -/
def closeFull (s : State) (n : Nat) : State := if (getS s n).win.any fun w => w.flits.length ≥ 16 then closeWindow s n else s

/-- The DATA flit that stream `n` is filling is sent, since nothing follows it at once (R256). -/
def flushFlit (s : State) (n : Nat) : State := closeFull (sendFlits s n true) n

/-- The first window of stream `n` under the bond's current generation, an empty one (R263 step 2), if one may be opened now. -/
def moveStream (s : State) (n : Nat) : State :=
  let x := getS s n
  match portOf s n with
  | none => s
  | some p =>
    if x.moveDue ∧ x.win.isNone ∧ (x.state = .opened ∨ x.state = .draining) ∧ mayOpenWindow s p n then
      let b := getBond s (bondOf s n)
      closeWindow (startWindow (updS s n fun x =>
        { x with moveDue := false, txGen := b.txGen, txSalt := (tget b.newSalts n).getD x.txSalt }) n) n
    else s

/-- An empty window of stream `n` sent, where no window of it is open (R260). -/
def sendEmpty (s : State) (n : Nat) : State :=
  if (getS s n).moveDue then moveStream s n
  else match portOf s n with
    | none => s
    | some p => if (getS s n).win.isNone ∧ mayOpenWindow s p n then closeWindow (startWindow s n) n else s

/-- Whether the open window takes one more entry: entries never span windows, and none follows the padding of a flit that was sent
partly filled (R274). -/
def takesEntry (w : OpenWindow) (e : Bytes) : Bool := !w.ended && w.pt.length + e.length ≤ 3840

/-- Bytes added to the open window of stream `n`; what is full is sent. -/
def addEntry (s : State) (n : Nat) (e : Bytes) : State :=
  closeFull (sendFlits (updS s n fun x => { x with win := x.win.map fun w => { w with pt := w.pt ++ e } }) n false) n

/-- One entry packed into the window of stream `n`; none while its open window cannot take it, or no window may be opened: a
DRAINING stream opens none (Table 9.6). (DEDUCED, log entry 20) -/
def packEntry (s : State) (n : Nat) (e : Bytes) : Option State :=
  match portOf s n with
  | none => none
  | some p =>
    match (getS s n).win with
    | some w => if takesEntry w e then some (addEntry s n e) else none
    | none =>
      let s := moveStream s n
      if (getS s n).state = .opened ∧ !(getS s n).moveDue ∧ mayOpenWindow s p n then some (addEntry (startWindow s n) n e) else none

/-- A control message as it travels. -/
def messageBytes (type : Nat) (m : Bytes) : Bytes := toLE type 2 ++ toLE m.length 2 ++ m

/-- Control messages of bond `b` packed, in order, as far as windows may be opened (R250). -/
def flushControl (s : State) (b : Nat) : State :=
  let n := ctlNo b
  let s := (getBond s b).outbox.foldl
    (fun s _ => match (getBond s b).outbox with
      | [] => s
      | m :: rest => match packEntry s n (messageBytes m.1.toNat m.2) with
        | some s => updBond s b fun x => { x with outbox := rest }
        | none => s) s
  flushFlit s n

/-- Windows of stream `n` from sequence `from_` on sent again (R261). -/
def resendWindows (s : State) (n from_ : Nat) : State :=
  match portOf s n with
  | none => s
  | some p =>
    let ws := (getS s n).sent.filter fun w => w.seq ≥ from_
    updPort s p fun y => { y with egress := y.egress ++ ws.flatMap (·.flits), retx := satAdd 16 y.retx ws.length }

end Sys2Proof.Machine
end

