-- ==== Sys2Proof/Machine/LinkOps.lean ====
section
/-! DEFINITION. The life of streams, bonds and ports (R238, R247, R252, Tables 9.1, 9.4 and 9.6), and lost requests (R280,
R281). -/

namespace Sys2Proof.Machine

/-- An entry CLOSED: its state, salts and buffers are zeroized. -/
def closeEntry (s : State) (p e : Nat) : State := updPort s p fun x => { x with streams := tdel x.streams e }
/-- Ports and entries of all streams that `f` selects and that are not CLOSED. -/
def streamsWhere (s : State) (f : Nat → Stream → Bool) : List (Nat × Nat) :=
  s.ports.flatMap fun p => (p.2.streams.filter fun e => e.2.state != .closed && f p.1 e.2).map fun e => (p.1, e.1)
/-- Streams of bond `b`. -/
def bondStreams (s : State) (b : Nat) : List (Nat × Nat) := streamsWhere s fun _ x => x.bond == b

/-- Bond `b` in state `st`; the ports of its mask raise their event (Table 17.1). -/
def setBondState (s : State) (b : Nat) (st : BondState) : State :=
  let s := updBond s b fun x => { x with state := st }
  (maskPorts (getBond s b).mask).foldl pulsePort s

/-- Port `p` in state `st`, with its event. -/
def setPortState (s : State) (p : Nat) (st : PortState) : State :=
  if (getPort s p).state = st then s else pulsePort (updPort s p fun x => { x with state := st }) p

/-- A request declared lost (R280, R281): answered ERROR, REMOTE_LOST raised with the fence code, and its core group
marked for the target chip. -/
def declareLost (s : State) (p : Nat) (r : Req) (code fence : BitVec 8) (detail : Word) : State :=
  let s := raise s
    { originFault s r.origin code unitPort p r.accord fence with
      detail6 := detail, detail7 := BitVec.ofNat 32 (r.chip % 65536) }
  let s := updPort s p fun x => { x with lost := satAdd 32 x.lost 1 }
  let s := answer s r (some .lost) []
  match r.origin with
  | .core cg _ =>
    updCore s cg fun c => { c with lostChips := if c.lostChips.contains r.chip then c.lostChips else c.lostChips ++ [r.chip] }
  | _ => s

/-- Every outstanding request of a stream declared lost, oldest first. -/
def loseOutstanding (s : State) (p e : Nat) : State :=
  let st := getStream s p e
  let s := updStream s p e fun x => { x with outstanding := [] }
  st.outstanding.foldl
    (fun s o => declareLost s p o.2 0x42 (if st.handover then 0x05 else 0x04) (BitVec.ofNat 32 o.1.toNat)) s

/-- Requests of the transmit stage that no window carries yet leave the stream and wait for a path (R278). -/
def unqueue (s : State) (p e : Nat) : State :=
  updPort s p fun x =>
    { x with tx := x.tx.filter fun t => t.1 != e
             heldReqs := x.heldReqs ++ (x.tx.filter fun t => t.1 == e).map (·.2) }

/-- OPEN to DRAINING: no new window is opened (Table 9.6). -/
def drainStream (s : State) (p e : Nat) (handover : Bool) : State :=
  if (getStream s p e).state = .opened then
    unqueue (updStream s p e fun x => { x with state := .draining, handover := handover }) p e
  else s

/-- The CLOSE_STREAM that tells the peer (Table 9.5). -/
def tellClose (s : State) (p e : Nat) : State :=
  let x := getStream s p e
  controlMessage s x.bond 0x0104 (toLE (streamNo p e) 2 ++ toLE x.peerStream 2)

/-- OPEN or DRAINING to FAILED, and from there to CLOSED in the next lane cycle with CLOSE_STREAM (Table 9.6). -/
def failStream (s : State) (p e : Nat) : State :=
  let st := (getStream s p e).state
  if st = .opened ∨ st = .draining then closeEntry (tellClose (unqueue (loseOutstanding s p e) p e) p e) p e
  else s

/-- DRAINING for 20 µs: what is still unacknowledged is lost, and the entry closes. -/
def drainExpired (s : State) (p e : Nat) : State :=
  if (getStream s p e).state = .draining then closeEntry (loseOutstanding s p e) p e else s

/-- Requests of an MPE that are not answered yet. -/
def mpeReqs (m : Mpe) : List Req :=
  m.ingress ++ m.ready ++ m.residency ++ m.heldReqs.map (·.2) ++ m.netHeld ++ m.reenc.map (·.req) ++ m.reads.map (·.2.req)
    ++ m.store.flatMap (·.2.waiting)

/-- Whether a local MPE still has a request that came over entry `n` (R276). -/
def atMpes (s : State) (n : Nat) (x : Stream) : Bool :=
  s.mpes.any fun m => (mpeReqs m.2).any fun r => match r.origin with
    | .remote st inst _ => st == n && inst == x.inst
    | _ => false

/-- Whether a DRAINING stream has nothing left: windows, requests of this side, and requests of the peer to answer (R252, R276). -/
def drained (s : State) (n : Nat) (x : Stream) : Bool :=
  x.state == .draining && x.sent.isEmpty && x.outstanding.isEmpty && x.win.isNone && x.responses.isEmpty && !atMpes s n x

/-- Every DRAINING stream that has nothing left closes. -/
def closeDrained (s : State) : State :=
  ((streamsWhere s fun _ x => x.state == .draining).filter fun pe =>
    drained s (streamNo pe.1 pe.2) (getStream s pe.1 pe.2)).foldl (fun s pe => closeEntry s pe.1 pe.2) s

/-- Every CLOSING bond without streams becomes CLOSED: BOND_CLOSE is sent and its keys are zeroized (Table 9.4). -/
def closeBonds (s : State) : State :=
  (s.bonds.filter fun b => b.2.state == .closing).foldl
    (fun s b =>
      if (bondStreams s b.1).isEmpty then
        let s := closeWindow (flushControl (controlMessage (setBondState s b.1 .closed) b.1 0x010B []) b.1) (ctlNo b.1)
        updBond s b.1 fun x => { x with root := [], rxRoot := [], nextRoot := none, oldRx := none, oldTx := none, ctl := {} }
      else s) s

/-- Every DRAINING port without streams becomes DISABLED (R238). -/
def closePorts (s : State) : State :=
  (s.ports.filter fun p => p.2.state == .draining).foldl
    (fun s p => if (streamsWhere s fun q _ => q == p.1).isEmpty then setPortState s p.1 .disabled else s) s

/-- Streams, bonds and ports that have finished, closed in that order. -/
def closeFinished (s : State) : State := closePorts (closeBonds (closeDrained s))

/-- LIVE or STALE to CLOSING: every stream drains. -/
def closeBond (s : State) (b : Nat) : State :=
  let st := (getBond s b).state
  if st = .live ∨ st = .stale then
    (bondStreams s b).foldl (fun s pe => drainStream s pe.1 pe.2 false) (setBondState s b .closing)
  else s

/-- Whether port `p`'s LPE takes traffic (R39). -/
def portServes (s : State) (p : Nat) : Bool := lpeOk s (p / 4)

/-- DISABLED to NO_LINK, or further where the link is up (R238, R239); a port whose LPE is held out stays DISABLED (R39). -/
def enablePort (s : State) (p : Nat) : State :=
  if (getPort s p).state = .disabled ∧ portServes s p then setPortState s p (if (getPort s p).linkUp then .unidentified else .noLink) else s

/-- PORT_DISABLE: the port drains (R238). -/
def drainPort (s : State) (p : Nat) : State :=
  let s := setPortState s p .draining
  (streamsWhere s fun q _ => q == p).foldl (fun s pe => drainStream s pe.1 pe.2 false) s

/-- The streams of an accord that enters RETIRING close at once; their requests are answered ERROR (Table 9.6). -/
def closeAccordStreams (s : State) (a : Nat) : State :=
  let s := (streamsWhere s fun _ x => a != 0 && x.accord == a).foldl
    (fun s pe =>
      let st := getStream s pe.1 pe.2
      let s := closeEntry (updPort s pe.1 fun x => { x with tx := x.tx.filter fun t => t.1 != pe.2 }) pe.1 pe.2
      st.outstanding.foldl (fun s o => answer s o.2 (some .lost) []) s) s
  s.ports.foldl
    (fun s p =>
      let mine (r : Req) : Bool := r.accord == a
      let gone := p.2.heldReqs.filter mine ++ p.2.gwIn.filter mine
        ++ (p.2.gwOpen ++ p.2.gwSent).flatMap fun r => if r.accord == a then r.reqs else []
      let s := updPort s p.1 fun x =>
        { x with heldReqs := x.heldReqs.filter fun r => !mine r
                 gwIn := x.gwIn.filter fun r => !mine r
                 gwOpen := x.gwOpen.filter fun r => r.accord != a
                 gwSent := x.gwSent.filter fun r => r.accord != a
                 landing := x.landing.filter fun r => r.2.accord != a }
      gone.foldl (fun s r => answer s r (some .lost) []) s) s

end Sys2Proof.Machine
end

