-- ==== Sys2Proof/Machine/Flags.lean ====
section
/-! DEFINITION. Status words that the block writes for software: handles, fence status, completion entries, fault queue
entries. -/

namespace Sys2Proof.Machine

/-- TYPE values of Table 4.1. -/
def objTypeNum : ObjType → Nat
  | .session => 1 | .queue => 2 | .fence => 3 | .region => 4 | .bond => 5 | .key => 6

/-- The type of a TYPE value. -/
def objTypeOf : Nat → Option ObjType
  | 1 => some .session | 2 => some .queue | 3 => some .fence | 4 => some .region | 5 => some .bond | 6 => some .key
  | _ => none

/-- Limit of an object type (Table 4.1). -/
def objLimit : ObjType → Nat
  | .session => 4096 | .queue => 1024 | .fence => 65536 | .region => 2048 | .bond => 4096 | .key => 4096

/-- Key of an object in `State.gens`. -/
def genKey (r : ObjRef) : Nat := objTypeNum r.type * 2 ^ 20 + r.index

/-- The generation of an index. -/
def genOf (s : State) (r : ObjRef) : BitVec 8 := tgetD s.gens (genKey r) 0

/-- The handle of an object (Table 4.2). -/
def handle (s : State) (r : ObjRef) : Word :=
  pack [(objTypeNum r.type, 28), ((genOf s r).toNat, 20), (r.index % 2 ^ 20, 0)]

/-- A handle or null. -/
def handleOpt (s : State) (t : ObjType) (i : Option Nat) : Word :=
  match i with
  | some n => handle s { type := t, index := n }
  | none => 0

/-- HUB_FENCE_STATUS of a fence (Table 4.19). -/
def fenceStatus (f : Fence) : Word :=
  pack [(if f.code.isSome then 2 else 1, 30), (b2n f.backward, 29), (b2n f.lateSignal, 28), (b2n f.multi, 27)
       , (Nat.min f.errorCount 255, 16), ((f.code.getD 0).toNat, 0)]

/-- The fence record of Table 4.10. (DEDUCED, log entry 49) -/
def fenceRecord (f : Fence) : Bytes := toLE f.value.toNat 8 ++ toLE (fenceStatus f).toNat 4 ++ toLE f.updates.toNat 4

/-- A completion entry (Table 4.5). -/
def completionEntry (word0 : Word) (status : Status) (detail result : Word) (phase : Bool) (ring : Nat) : List Word :=
  [pack [(fld word0 31 24, 24), (statusCode status, 16), (fld word0 15 0, 0)], detail, result
  , pack [(b2n phase, 31), (ring % 65536, 0)]]

/-- A fault queue entry (Table 16.3), with the rung taken. -/
def faultEntry (s : State) (f : Raised) (rung : Option Nat) (phase : Bool) : List Word :=
  let (q, ring) := f.cmd.getD (0, 0)
  [ pack [(b2n phase, 31), (rung.getD 7, 28), (f.unit.toNat, 24), (f.inst % 256, 16), (f.code.toNat, 0)]
  , handleOpt s .session f.session
  , pack [((f.cg.getD 0) % 256, 24), (b2n f.cg.isSome, 23), (b2n f.cmd.isSome, 22), (q % 1024, 10), (f.accord % 1024, 0)]
  , pack [(ring % 65536, 16)]
  , handleOpt s .fence f.fence
  , BitVec.ofNat 32 s.time
  , f.detail6, f.detail7 ]

end Sys2Proof.Machine
end

