-- ==== Sys2Proof/Machine/Operands.lean ====
section
/-! DEFINITION. The operand forms of hub commands: which worlds may issue an opcode, what its TARGET is and which operand
words it uses (Table 4.6), the spaces a session may use (R455), and resource selectors (Table 2.11). -/

namespace Sys2Proof.Machine

/-- What an opcode takes in its TARGET word. -/
inductive TargetKind
  | absent
  | object (types : List ObjType)
  /-- a bond handle, or null (09 R249) -/
  | bondOrNull
deriving DecidableEq, Repr

/-- One row of Table 4.6, as the fetch checks of R454 use it. -/
structure OpInfo where
  worlds : List World
  /-- open to HOST sessions of the PF -/
  pf : Bool := false
  target : TargetKind := .absent
  /-- operand words used, 8 to 15 -/
  words : List Nat := []
deriving DecidableEq, Repr

/-- Every object type. -/
def anyObject : List ObjType := [.session, .queue, .fence, .region, .bond, .key]

/-- Table 4.6. -/
def opInfo (op : Nat) : Option OpInfo :=
  let rht : List World := [.root, .host, .tenant]
  let rt : List World := [.root, .tenant]
  let rm : List World := [.root, .mgmt]
  let rmt : List World := [.root, .mgmt, .tenant]
  let rmht : List World := [.root, .mgmt, .host, .tenant]
  match op with
  | 0x00 => some { worlds := [.root, .mgmt, .host, .tenant, .debug] }
  | 0x01 => some { worlds := rht, words := [8, 9, 10] }
  | 0x02 => some { worlds := rht, target := .object [.session] }
  | 0x03 => some { worlds := rt, pf := true, target := .object [.session] }
  | 0x04 => some { worlds := rht, target := .object [.session], words := [8, 9, 10, 11, 12, 13, 14] }
  | 0x05 => some { worlds := rht, target := .object [.queue] }
  | 0x06 => some { worlds := rht, target := .object [.queue], words := [8] }
  | 0x07 => some { worlds := rt, pf := true, target := .object [.queue], words := [8] }
  | 0x08 => some { worlds := rht, words := [8, 9, 10, 11, 12, 13] }
  | 0x09 => some { worlds := rht, target := .object [.fence], words := [8, 9, 10] }
  | 0x0A => some { worlds := rht, target := .object [.fence], words := [8] }
  | 0x0B => some { worlds := [.root, .mgmt, .host, .tenant, .debug], target := .object [.fence], words := [8, 9, 10] }
  | 0x0C => some { worlds := rht, target := .object anyObject }
  | 0x0D => some { worlds := rht, target := .object anyObject }
  | 0x0E => some { worlds := rht, target := .object [.fence, .region, .bond], words := [8, 9] }
  | 0x0F => some { worlds := rt, target := .object [.session], words := [8] }
  | 0x10 => some { worlds := rm, pf := true, words := [8, 9, 10] }
  | 0x11 => some { worlds := rm, pf := true, words := [8, 9] }
  | 0x12 => some { worlds := rm, pf := true, words := [8] }
  | 0x13 => some { worlds := rmt, pf := true, words := [8] }
  | 0x14 => some { worlds := rm, pf := true, words := [8] }
  | 0x18 => some { worlds := rt, words := [8, 9, 10] }
  | 0x19 => some { worlds := rt, target := .object [.region], words := [8, 9, 10] }
  | 0x1A => some { worlds := [.tenant], target := .object [.region] }
  | 0x1B => some { worlds := [.tenant], target := .object [.region] }
  | 0x1C => some { worlds := rt, words := [8] }
  | 0x1D => some { worlds := rt, words := [8, 9, 10] }
  -- word 12 is DEST_OFFSET of Table 8.10
  | 0x1E => some { worlds := [.tenant], target := .object [.region], words := [8, 9, 10, 11, 12] }
  | 0x20 => some { worlds := rm, pf := true, words := [8, 9] }
  | 0x21 => some { worlds := rm, pf := true, target := .object [.bond] }
  | 0x22 => some { worlds := rm, pf := true, target := .object [.bond] }
  | 0x23 => some { worlds := rt, target := .bondOrNull, words := [8, 9] }
  | 0x24 => some { worlds := rt, target := .bondOrNull, words := [8] }
  | 0x25 => some { worlds := rm, pf := true, words := [8] }
  | 0x26 => some { worlds := rm, pf := true, words := [8] }
  | 0x28 => some { worlds := rmt, words := [8, 9, 10] }
  | 0x29 => some { worlds := rmt, words := [8, 9] }
  | 0x2A => some { worlds := rmt, words := [8] }
  | 0x2B => some { worlds := rmt, words := [8] }
  | 0x2C => some { worlds := rt, words := [8, 9, 10, 11] }
  | 0x30 => some { worlds := rmht, words := [8, 9] }
  | 0x31 => some { worlds := rmht, words := [8, 9, 10] }
  | 0x38 => some { worlds := rt, words := [8, 9, 10, 11] }
  | 0x39 => some { worlds := [.root], words := [8, 9, 10, 11, 12] }
  | 0x3A => some { worlds := [.host, .tenant], words := [8, 9] }
  | 0x3B => some { worlds := [.host, .tenant], words := [8, 9] }
  | 0x3C => some { worlds := [.root], pf := true, words := [8] }
  | 0x3D => some { worlds := [.root], pf := true, words := [8] }
  | 0x40 => some { worlds := rm, words := [8, 9, 10] }
  | 0x41 => some { worlds := rm, pf := true, words := [8, 9] }
  | 0x42 => some { worlds := [.debug] }
  | 0x43 => some { worlds := [.debug], target := .object [.region], words := [8, 9] }
  | 0x44 => some { worlds := rm, words := [8, 9] }
  | 0x45 => some { worlds := [.mgmt], words := [8, 9] }
  | 0x46 => some { worlds := rm, words := [8] }
  | 0x47 => some { worlds := [.mgmt] }
  | 0x48 => some { worlds := rm }
  | 0x49 => some { worlds := [.root], pf := true, words := [8] }
  | _ => none

/-- Word 0: OPCODE. -/
def opOf (w : List Word) : Nat := fld (wd w 0) 31 24
/-- FLAGS, by bit of Table 4.4. -/
def flag (w : List Word) (i : Nat) : Bool := bit (wd w 0) (16 + i)
/-- SIGNAL. -/
def flagSignal (w : List Word) : Bool := flag w 0
/-- WAIT. -/
def flagWait (w : List Word) : Bool := flag w 1
/-- SERIAL. -/
def flagSerial (w : List Word) : Bool := flag w 2
/-- NOTIFY. -/
def flagNotify (w : List Word) : Bool := flag w 3
/-- WAIT_ANY. -/
def flagWaitAny (w : List Word) : Bool := flag w 4
/-- SIGNAL_ADD. -/
def flagAdd (w : List Word) : Bool := flag w 5
/-- QUIET. -/
def flagQuiet (w : List Word) : Bool := flag w 6
/-- CONTINUE. -/
def flagContinue (w : List Word) : Bool := flag w 7

/-- Whether a session's world may issue an opcode (R105). -/
def mayIssue (x : Session) (o : OpInfo) : Bool := o.worlds.contains x.world || (o.pf && x.world == .host && x.fn == some 0)

/-- R454 step 2, second part: an operand field that only ROOT may give, given by another world (R97, R136, R204, R312). -/
def rootOnlyField (x : Session) (w : List Word) : Bool :=
  x.world != .root &&
  match opOf w with
  | 0x01 => fld (wd w 8) 2 0 != 0 || fld (wd w 9) 9 0 != 0 || (bit (wd w 8) 8 && x.world != .tenant)
  | 0x1D => fld (wd w 8) 25 16 != 0
  | 0x2C => fld (wd w 8) 25 16 != 0
  | 0x38 => fld (wd w 8) 25 16 != 0 || bit (wd w 8) 4
  | _ => false

/-- R454 step 3 (R103, R80, R232): a field left unused by a clear flag, an unused word, or a reserved bit that a chapter
names. -/
def reservedSet (o : OpInfo) (w : List Word) : Bool :=
  (!flagSignal w && (wd w 1 != 0 || wd w 2 != 0 || wd w 3 != 0))
  || (!flagWait w && (wd w 4 != 0 || wd w 5 != 0 || wd w 6 != 0))
  || (o.target == .absent && wd w 7 != 0)
  || (List.range 8).any (fun i => !o.words.contains (8 + i) && wd w (8 + i) != 0)
  || (opOf w == 0x10 && fld (wd w 10) 31 2 != 0)
  || (opOf w == 0x1E && (fld (wd w 9) 31 5 != 0 || fld (wd w 10) 31 24 != 0 || fld (wd w 11) 31 24 != 0))

/-! ## Spaces (R98, R109, R455) -/

/-- The function whose requester ID a session's HOST-space accesses carry. -/
def sessionFn (x : Session) : Option Nat := if x.world = .debug then some 0 else x.fn

/-- Whether a session may use a space. -/
def mayUseSpace (x : Session) (sp : Space) : Bool :=
  match x.world, sp with
  | .root, .hub => true
  | .mgmt, .hub => true
  | .host, .host => x.fn.isSome
  | .tenant, .host => x.fn.isSome
  | .tenant, .accord => true
  | .debug, .host => true
  | _, _ => false

/-- The default space of a session. -/
def defaultSpace (x : Session) : Space :=
  match x.world with
  | .root => .hub
  | .mgmt => .hub
  | .host => .host
  | .debug => .host
  | .tenant => if x.fn.isSome then .host else .accord

/-- Space encodings of R109 and R80: 0 HUB, 1 HOST, 2 ACCORD. -/
def spaceOf : Nat → Option Space
  | 0 => some .hub | 1 => some .host | 2 => some .accord | _ => none

/-- The MGMT staging area of R400. -/
def inStaging (a len : Nat) : Bool := 0x80000000 ≤ a && a + len ≤ 0x81000000

/-- The check on an address a command names: BAD_OPERAND for a space the session may not use, NO_ACCESS for a HUB
address of MGMT outside the staging area (R400). (DEDUCED, log entry 12) -/
def spaceCheck (x : Session) (sp : Option Space) (a len : Nat) : Option Status :=
  match sp with
  | none => some .badOperand
  | some sp =>
    if !mayUseSpace x sp then some .badOperand
    else if x.world = .mgmt ∧ !inStaging a len then some .noAccess
    else none

/-! ## Resource selectors (HUB_RES_SEL, Table 2.11) -/

/-- KIND and INDEX; none for a reserved KIND, for set reserved bits or for an index beyond the kind. -/
def resSel (w : Word) : Option (ResKind × Nat) :=
  let i := fld w 7 0
  if fld w 29 8 ≠ 0 then none
  else match fld w 31 30 with
    | 0 => some (.channel, i)
    | 1 => if i < 32 then some (.port, i) else none
    | 2 => some (.coreGroup, i)
    | _ => none

end Sys2Proof.Machine
end

