-- ==== Sys2Proof/Machine/Objects.lean ====
section
/-! DEFINITION. Objects, handles, references and fences (R93, R94, R106 to R113): how a handle is checked, how counts
change, what a fence update does, and what tearing an object down does. -/

namespace Sys2Proof.Machine

/-- The session index that no session has: the creator of an object whose creator has died. -/
def nobody : Nat := 65536

/-! ## Looking objects up -/

/-- Whether a bond object exists: its bond is not FREE, and not CLOSED with both counts zero (Table 9.4). -/
def bondExists (x : Bond) : Bool := x.state != .free && !(x.state == .closed && x.href == 0 && x.dref == 0)

/-- Whether an index holds an object. -/
def objExists (s : State) (r : ObjRef) : Bool :=
  match r.type with
  | .session => (tget s.sessions r.index).isSome
  | .queue => (tget s.queues r.index).isSome
  | .fence => (tget s.fences r.index).isSome
  | .region => (tget s.regions r.index).isSome
  | .bond => (tget s.bonds r.index).any bondExists
  | .key => (tget s.keyObjs r.index).isSome

/-- The creating session of an object. -/
def objCreator (s : State) (r : ObjRef) : Option Nat :=
  match r.type with
  | .session => (tget s.sessions r.index).map (·.creator)
  | .queue => (tget s.queues r.index).bind (·.creator)
  | .fence => (tget s.fences r.index).map (·.creator)
  | .region => (tget s.regions r.index).bind (·.owner)
  | .bond => (tget s.bonds r.index).map (·.owner)
  | .key => (tget s.keyObjs r.index).map (·.owner)

/-- The accord of an object. -/
def objAccord (s : State) (r : ObjRef) : Nat :=
  match r.type with
  | .session => ((tget s.sessions r.index).map (·.accord)).getD 0
  | .queue => (((tget s.queues r.index).bind fun q => tget s.sessions q.session).map (·.accord)).getD 0
  | .fence => ((tget s.fences r.index).map (·.accord)).getD 0
  | .region => ((tget s.regions r.index).map (·.accord)).getD 0
  | .bond => 0
  | .key => if r.index < 256 then (getSlot s r.index).owner else r.index - 256

/-- Whether a session owns an object: it made it, it is it or its own queue's session, or it is the primary session of
the object's accord (R94). (DEDUCED, log entry 10) -/
def owns (s : State) (i : Nat) (x : Session) (r : ObjRef) : Bool :=
  objCreator s r == some i
  || (r.type == .session && r.index == i)
  || (r.type == .queue && (tget s.queues r.index).any fun q => q.session == i)
  || (x.primary && r.type != .bond && objAccord s r == x.accord)

/-- Whether a session holds WAIT or SIGNAL on a fence (Table 4.3, R111). -/
def holdsFence (i : Nat) (f : Fence) : Bool := f.signalers.contains i || f.waiters.contains i

/-- Whether a session holds a right that another gave it (Table 4.1). (DEDUCED, log entry 10) -/
def holdsRight (s : State) (i : Nat) (r : ObjRef) : Bool :=
  match r.type with
  | .fence => (tget s.fences r.index).any (holdsFence i)
  | .region => (tget s.regions r.index).any fun g => g.users.contains i
  | .bond => (tget s.bonds r.index).any fun b => b.users.contains i
  | _ => false

/-- R94: owned, or a right held. (DEDUCED, log entry 10) -/
def mayReach (s : State) (i : Nat) (x : Session) (r : ObjRef) : Bool := owns s i x r || holdsRight s i r

/-- R111: whether a session may signal a fence or attach an error to it. -/
def maySignal (i : Nat) (f : Fence) : Bool := f.signalers.contains i && (f.multi || f.creator == i)

/-- A handle read (R94): BAD_HANDLE, STALE_HANDLE, or the object. -/
def parseHandle (s : State) (h : Word) (types : List ObjType) : Except Status ObjRef :=
  match objTypeOf (fld h 31 28) with
  | none => .error .badHandle
  | some t =>
    let r : ObjRef := { type := t, index := fld h 19 0 }
    if !types.contains t ∨ r.index ≥ objLimit t then .error .badHandle
    else if !objExists s r ∨ (genOf s r).toNat ≠ fld h 27 20 then .error .staleHandle
    else .ok r

/-- A handle checked for a session (R94). -/
def checkHandle (s : State) (i : Nat) (x : Session) (h : Word) (types : List ObjType) : Except Status ObjRef :=
  match parseHandle s h types with
  | .error e => .error e
  | .ok r => if mayReach s i x r then .ok r else .error .noAccess

/-! ## Address spaces -/

/-- Key of an address of a function in `Hpe.mem`. (DESIGN CHOICE, log entry 46) -/
def hostKey (fn : Nat) (a : BitVec 64) : Nat := fn * 2 ^ 64 + a.toNat

/-- Bytes of host memory as function `fn` reaches them. (DESIGN CHOICE, log entry 46) -/
def hostRead (s : State) (fn : Nat) (a : BitVec 64) (len : Nat) : Bytes := memReadBytes s.hpe.mem 0 (hostKey fn a) len
/-- Bytes written to host memory with the requester ID of function `fn`. (DESIGN CHOICE, log entry 46) -/
def hostWrite (s : State) (fn : Nat) (a : BitVec 64) (d : Bytes) : State :=
  { s with hpe := { s.hpe with mem := memWriteBytes s.hpe.mem 0 (hostKey fn a) d } }

/-- Bytes read from a space for a session (R455). -/
def readSpace (s : State) (x : Session) (sp : Space) (a : BitVec 64) (len : Nat) : State × Option Bytes :=
  match sp with
  | .hub => (s, some (memReadBytes s.hubMem 0 a.toNat len))
  | .host => (s, some (hostRead s ((sessionFn x).getD 0) a len))
  | .accord => readDpa s x.accord a.toNat len

/-- Bytes written to a space. -/
def writeAt (s : State) (sp : Space) (fn accord : Nat) (a : BitVec 64) (d : Bytes) (o : Origin) : State × Bool :=
  match sp with
  | .hub => ({ s with hubMem := memWriteBytes s.hubMem 0 a.toNat d }, true)
  | .host => (hostWrite s fn a d, true)
  | .accord => writeDpa s accord a.toNat d o

/-- Bytes written to a space for a session. -/
def writeSpace (s : State) (x : Session) (sp : Space) (a : BitVec 64) (d : Bytes) (o : Origin) : State × Bool :=
  writeAt s sp ((sessionFn x).getD 0) x.accord a d o

/-! ## Fences (Table 4.8) -/

/-- Fence `i` replaced. -/
def setFence (s : State) (i : Nat) (f : Fence) : State := { s with fences := tset s.fences i f }

/-- The record of a fence with MIRROR, written (R109). (DEDUCED, log entry 49) -/
def writeMirror (s : State) (f : Fence) : State :=
  match f.mirror with
  | none => s
  | some (sp, a) => (writeAt s sp f.fn f.accord a (fenceRecord f) .block).1

/-- A signal as Table 4.8 gives it. -/
def signalFence (f : Fence) (v : BitVec 64) (add : Bool) : Fence :=
  let f := { f with updates := f.updates + 1 }
  if f.code.isSome then { f with lateSignal := true }
  else
    let n := if add then f.value.toNat + v.toNat else v.toNat
    if n ≤ f.value.toNat ∨ n ≥ 2 ^ 64 then { f with backward := true } else { f with value := BitVec.ofNat 64 n }

/-- An error attached as Table 4.8 gives it. -/
def errorFence (f : Fence) (code : BitVec 8) : Fence :=
  let f := { f with updates := f.updates + 1 }
  if f.code.isSome then { f with errorCount := satAdd 8 f.errorCount 1 } else { f with code := some code }

/-- Fence `i` updated by `g`, with its mirror record. (DEDUCED, log entry 49) -/
def updateFence (s : State) (i : Nat) (g : Fence → Fence) : State :=
  match tget s.fences i with
  | none => s
  | some f => writeMirror (setFence s i (g f)) (g f)

/-- Fence `i` signalled by the command processor: the update is ready at the fence unit. -/
def fenceSignal (s : State) (i : Nat) (v : BitVec 64) (add : Bool) : State :=
  { s with fenceReady := s.fenceReady ++ [{ fence := i, value := v, add := add }] }
/-- An error of the command processor for fence `i`, ready at the fence unit. -/
def fenceError (s : State) (i : Nat) (code : BitVec 8) : State :=
  { s with fenceReady := s.fenceReady ++ [{ fence := i, code := some code }] }
/-- An error of the FRS for fence `i`, ready at the fence unit. -/
def frsFenceError (s : State) (i : Nat) (code : BitVec 8) : State :=
  { s with fenceReady := s.fenceReady ++ [{ fence := i, source := 1, code := some code }] }

/-- One update applied (Table 4.8). -/
def applyUpdate (s : State) (u : FenceUpdate) : State :=
  updateFence s u.fence fun f => match u.code with
    | none => signalFence f u.value u.add
    | some c => errorFence f c

/-- The update that the fence unit applies next (R108): signals before errors, then the first source of the rotation, then the oldest. -/
def nextUpdate (s : State) : Option FenceUpdate :=
  let signals := s.fenceReady.filter (·.code.isNone)
  let kind := if signals.isEmpty then s.fenceReady else signals
  (kind.find? fun u => u.source == s.fenceTurn).orElse fun _ => kind.head?

/-- One cycle of the fence unit: that update applied, and its source put last in the rotation. -/
def fenceCycle (s : State) : State :=
  match nextUpdate s with
  | none => s
  | some u => applyUpdate { s with fenceReady := s.fenceReady.erase u, fenceTurn := 1 - u.source } u

/-- The fence unit applies every update that is ready (R108). Updates that one command of this block makes ready count as ready in one
hub cycle. (DESIGN CHOICE, log entry 87) -/
def applyFences (s : State) : State := (List.range s.fenceReady.length).foldl (fun s _ => fenceCycle s) s

/-! ## Slots leaving use (Table 5.6) -/

/-- A slot whose halves have no user left, as far as Table 5.6 lets it go on. -/
def settleSlot (x : Slot) : Slot :=
  if x.state = .retiring ∧ x.users = [] ∧ x.shadowUsers = [] then {}
  else if x.state = .live ∧ x.shadow = .draining ∧ x.shadowUsers = [] then { x with shadow := .empty, shadowKey := [] }
  else x

/-- KEY_RETIRE: the slot takes no new use; a STAGED or CHECKED shadow is zeroized. -/
def retireSlot (x : Slot) : Slot :=
  if x.state = .live ∨ x.state = .staged then
    let x := if x.shadow = .staged ∨ x.shadow = .checked then { x with shadow := .empty, shadowKey := [] } else x
    settleSlot { x with state := .retiring }
  else x

/-! ## Teardown (Table 4.12) -/

/-- The generation of an index advances (R94). -/
def bumpGen (s : State) (r : ObjRef) : State := { s with gens := tset s.gens (genKey r) (genOf s r + 1) }

/-- References to an object that is gone leave every session's list. -/
def dropRefs (s : State) (r : ObjRef) : State :=
  { s with sessions := tmap s.sessions fun _ x => { x with refs := x.refs.filter fun e => e.1 != r } }

/-- A region torn down: its region table entry is freed. Store entries of its bricks are written back first. -/
def tearRegion (s : State) (i : Nat) : State :=
  match tget s.regions i with
  | none => s
  | some g =>
    let mine (b : Nat) : Bool := (findRegion (getMpe s g.stack) b).any (·.1 == g.rt)
    let s := flushStore (markAccepted s g.stack mine) g.stack fun x e => e.rt == g.rt && mine (x / 16)
    let s := updMpe s g.stack fun m => { m with rt := tdel m.rt g.rt }
    let r : ObjRef := { type := .region, index := i }
    bumpGen { s with regions := tdel s.regions i } r

/-- No session and no fault names fence `i` any more. -/
def forgetFence (s : State) (i : Nat) : State :=
  { s with sessions := tmap s.sessions fun _ x => { x with faultFence := if x.faultFence = some i then none else x.faultFence }
           frs := { s.frs with raised := s.frs.raised.map fun f => { f with fence := if f.fence = some i then none else f.fence } } }

/-- A fence torn down, after the updates that are ready: mirror writes stop, and a session's fault fence or a fault that names it names
none. -/
def tearFence (s : State) (i : Nat) : State :=
  if (tget s.fences i).isSome then
    let s := applyFences s
    bumpGen (forgetFence { s with fences := tdel s.fences i } i) { type := .fence, index := i }
  else s

/-- A key object torn down: its slot goes to RETIRING, or its flacon is discarded. -/
def tearKey (s : State) (i : Nat) : State :=
  if (tget s.keyObjs i).isNone then s
  else
    let s := if i < 256 then updSlot s i retireSlot else updAccord s (i - 256) fun x => { x with flacon := none }
    bumpGen { s with keyObjs := tdel s.keyObjs i } { type := .key, index := i }

/-- A bond torn down: one that is LIVE or STALE closes; a CLOSED one becomes FREE. -/
def tearBond (s : State) (i : Nat) : State :=
  let s := closeBonds (closeBond s i)
  bumpGen s { type := .bond, index := i }

/-- HREF and DREF of an object. -/
def objCounts (s : State) (r : ObjRef) : Nat × Nat :=
  match r.type with
  | .session => ((tget s.sessions r.index).map fun x => (x.href, x.dref)).getD (0, 0)
  | .queue => ((tget s.queues r.index).map fun x => (x.href, x.dref)).getD (0, 0)
  | .fence => ((tget s.fences r.index).map fun x => (x.href, x.dref)).getD (0, 0)
  | .region => ((tget s.regions r.index).map fun x => (x.href, x.dref)).getD (0, 0)
  | .bond => ((tget s.bonds r.index).map fun x => (x.href, x.dref)).getD (0, 0)
  | .key => ((tget s.keyObjs r.index).map fun x => (x.href, x.dref)).getD (0, 0)

/-- HREF and DREF of an object set. -/
def setCounts (s : State) (r : ObjRef) (h d : Nat) : State :=
  match r.type with
  | .session => { s with sessions := tupd s.sessions r.index fun x => { x with href := h, dref := d } }
  | .queue => { s with queues := tupd s.queues r.index fun x => { x with href := h, dref := d } }
  | .fence => { s with fences := tupd s.fences r.index fun x => { x with href := h, dref := d } }
  | .region => { s with regions := tupd s.regions r.index fun x => { x with href := h, dref := d } }
  | .bond => { s with bonds := tupd s.bonds r.index fun x => { x with href := h, dref := d } }
  | .key => { s with keyObjs := tupd s.keyObjs r.index fun x => { x with href := h, dref := d } }

/-- R112: a fence, region, bond or key object whose counts are both zero is torn down. -/
def reap (s : State) (r : ObjRef) : State :=
  if objExists s r ∧ objCounts s r = (0, 0) then
    match r.type with
    | .fence => tearFence s r.index
    | .region => tearRegion s r.index
    | .bond => tearBond s r.index
    | .key => tearKey s r.index
    | _ => s
  else s

/-- One count of an object raised by `k`; none when it would pass 65,535. -/
def addRef (s : State) (r : ObjRef) (side : Side) (k : Nat) : Option State :=
  let (h, d) := objCounts s r
  match side with
  | .host => if h + k > 65535 then none else some (setCounts s r (h + k) d)
  | .device => if d + k > 65535 then none else some (setCounts s r h (d + k))

/-- One count lowered by `k`, and the object torn down when both are zero. -/
def subRef (s : State) (r : ObjRef) (side : Side) (k : Nat) : State :=
  if !objExists s r then s
  else
    let (h, d) := objCounts s r
    reap (match side with
      | .host => setCounts s r (h - k) d
      | .device => setCounts s r h (d - k)) r

/-- References of a session to an object. -/
def refsOf (x : Session) (r : ObjRef) : Nat := ((x.refs.find? fun e => e.1 == r).map (·.2)).getD 0

/-- That number set; zero removes the entry. -/
def setRefs (x : Session) (r : ObjRef) (n : Nat) : Session :=
  let rest := x.refs.filter fun e => e.1 != r
  { x with refs := if n = 0 then rest else rest ++ [(r, n)] }

/-- The most distinct objects in a reference list (R112). -/
def refListMax : Nat := 1024

/-- A reference of session `i` to object `r` added (OBJECT_REF, OBJECT_SHARE, creation). -/
def holdRef (s : State) (i : Nat) (r : ObjRef) : Except Status State :=
  match tget s.sessions i with
  | none => .error .staleHandle
  | some x =>
    if refsOf x r = 0 ∧ x.refs.length ≥ refListMax then .error .limit
    else match addRef s r x.side 1 with
      | none => .error .refOverflow
      | some s => .ok { s with sessions := tupd s.sessions i fun x => setRefs x r (refsOf x r + 1) }

/-- A reference of session `i` dropped (OBJECT_UNREF). -/
def dropRef (s : State) (i : Nat) (r : ObjRef) : Except Status State :=
  match tget s.sessions i with
  | none => .error .staleHandle
  | some x =>
    let (h, d) := objCounts s r
    let n := match x.side with
      | .host => h | .device => d
    if n = 0 ∨ refsOf x r = 0 then .error .refUnderflow
    else
      let s := { s with sessions := tupd s.sessions i fun x => setRefs x r (refsOf x r - 1) }
      .ok (subRef s r x.side 1)

/-- Whether a session has room for one more object in its list. -/
def refRoom (s : State) (i : Nat) : Bool := (tget s.sessions i).any fun x => x.refs.length < refListMax

/-- Every reference of a session released (R116 step 5). -/
def releaseRefs (s : State) (i : Nat) : State :=
  match tget s.sessions i with
  | none => s
  | some x =>
    let s := { s with sessions := tupd s.sessions i fun x => { x with refs := [] } }
    x.refs.foldl (fun s e => subRef s e.1 x.side e.2) s

/-- R111 and R116 step 6: session `i` dies, and fences that only it could signal go to ERROR with SIGNALER_LOST. -/
def signalerLost (s : State) (i : Nat) : State :=
  let s := applyFences s
  s.fences.foldl
    (fun s e =>
      let f := e.2
      let lost : Bool := f.code.isNone && f.signalers.contains i &&
        (if f.multi then !(f.signalers.any fun j => j != i && (tget s.sessions j).isSome) else f.creator == i)
      let s := if lost then fenceError s e.1 0x02 else s
      { s with fences := tupd s.fences e.1 fun f =>
          { f with signalers := f.signalers.filter (· != i), waiters := f.waiters.filter (· != i)
                   creator := if f.creator = i then nobody else f.creator } }) s

/-- What a dead session had made or been given belongs to no session. -/
def disown (s : State) (i : Nat) : State :=
  let o (c : Option Nat) : Option Nat := if c = some i then some nobody else c
  { s with
    sessions := tmap s.sessions fun _ x => { x with creator := if x.creator = i then nobody else x.creator }
    queues := tmap s.queues fun _ x => { x with creator := o x.creator }
    regions := tmap s.regions fun _ x => { x with owner := o x.owner, users := x.users.filter (· != i) }
    bonds := tmap s.bonds fun _ x =>
      { x with owner := if x.owner = i then nobody else x.owner, users := x.users.filter (· != i) }
    keyObjs := tmap s.keyObjs fun _ x => { x with owner := if x.owner = i then nobody else x.owner }
    cores := tmap s.cores fun _ x => { x with session := if x.session = some i then none else x.session } }

/-- The lowest free index of an object type. (DESIGN CHOICE, log entry 9) -/
def freeIndex (s : State) : ObjType → Option Nat
  | .session => tfree s.sessions 3 4096
  | .queue => tfree s.queues 3 1024
  | .fence => tfree s.fences 0 65536
  | .region => tfree s.regions 0 2048
  | .bond => (List.range 4096).find? fun b =>
      match tget s.bonds b with
      | none => true
      | some x => x.state == .free || (x.state == .closed && x.href == 0 && x.dref == 0 && x.outbox.isEmpty)
  | .key => tfree s.keyObjs 256 4096

end Sys2Proof.Machine
end

