-- ==== Sys2Proof/Machine/Hub.lean ====
section
/-! DEFINITION. The command processor: fetching and its checks (R94, R454), starting (R100), completing (R101, R104), the
teardown of queues and sessions (R113, R116), and the commands whose completion waits for something else. -/

namespace Sys2Proof.Machine

/-! ## Completing a command -/

/-- Fence code that a status puts into the SIGNAL fence (R101). -/
def errorCodeOf : Status → BitVec 8
  | .timeout => 0x03
  | .waitFailed => 0x0F
  | .aborted => 0x01
  | _ => 0x10

/-- An entry of queue 1: the response of the COMMAND that waits for it, within 10 ms, else unread (R399, R400). -/
def mgmtEntry (s : State) (ring : Nat) (e : List Word) : State :=
  let m := s.mgmt
  if m.awaits.any fun w => w.1 == ring && s.time ≤ w.2 + 10000 then
    { s with mgmt := { m with awaits := none, out := m.out ++ [(0x00, bytesOf e)] } }
  else { s with mgmt := { m with unread := m.unread ++ [e] } }

/-- The completion entry of a command written to its queue's completion ring (R104). -/
def writeEntry (s : State) (q : Nat) (words : List Word) (ring : Nat) (st : Status) (detail result : Word) : State :=
  match tget s.queues q with
  | none => s
  | some x =>
    let e := completionEntry (wd words 0) st detail result x.cplPhase ring
    let wrap : Bool := x.cplIndex + 1 == 2 ^ x.log2
    let adv (x : Queue) : Queue :=
      { x with cplIndex := if wrap then 0 else x.cplIndex + 1, cplPhase := if wrap then !x.cplPhase else x.cplPhase }
    let s := { s with queues := tset s.queues q (adv x) }
    match x.space with
    | .hub =>
      let s := { s with queues := tupd s.queues q fun y => { y with entries := tset y.entries x.cplIndex e } }
      if q = 1 then mgmtEntry s ring e else s
    | sp =>
      let sess := (tget s.sessions x.session).getD { world := .root }
      (writeSpace s sess sp (x.cpl + BitVec.ofNat 64 (16 * x.cplIndex)) (bytesOf e) .block).1

/-- The fence of a command's SIGNAL: signalled when it ended OK, else an error attached (R101). -/
def endFence (s : State) (words : List Word) (signalOk : Bool) (st : Status) (code : Option (BitVec 8)) : State :=
  if !(flagSignal words && signalOk) then s
  else match parseHandle s (wd words 1) [.fence] with
    | .error _ => s
    | .ok r =>
      if st = .ok then fenceSignal s r.index (wd2 words 2) (flagAdd words)
      else fenceError s r.index (code.getD (errorCodeOf st))

/-- The event of a NOTIFY completion (R434). -/
def notify (s : State) (q : Nat) (words : List Word) : State :=
  match tget s.queues q with
  | some x => if flagNotify words ∧ x.src ≠ 511 then pulse s x.src else s
  | none => s

/-- What every completion or discard does: the entry unless QUIET suppresses it, the event, the fence, and the DREF of
each handle the fetch counted (R104, Table 4.11). `code` overrides the fence code. -/
def endCommand (s : State) (q ring : Nat) (words : List Word) (refs : List ObjRef) (signalOk : Bool) (st : Status)
    (detail result : Word) (code : Option (BitVec 8)) : State :=
  let s := if flagQuiet words ∧ st = .ok then s else writeEntry s q words ring st detail result
  let s := notify s q words
  let s := endFence s words signalOk st code
  refs.foldl (fun s r => subRef s r .device 1) s

/-- The fetched and unstarted commands of a queue discarded, in ring order (R101). -/
def discardFetched (s : State) (q : Nat) : State :=
  match tget s.queues q with
  | none => s
  | some x =>
    let s := { s with queues := tset s.queues q { x with fetched := [] } }
    x.fetched.foldl (fun s f => endCommand s q f.ring f.words f.refs f.signalOk .aborted 0 0 none) s

/-- A queue enters STOPPED and discards what it has fetched (R101). -/
def stopQueue (s : State) (q : Nat) : State :=
  discardFetched { s with queues := tupd s.queues q fun x => { x with stopped := true } } q

/-- The queue's part of a command that ended with a status (R101). -/
def afterEnd (s : State) (q : Nat) (words : List Word) (st : Status) : State :=
  if st ≠ .ok ∧ (st = .timeout ∨ !flagContinue words) then stopQueue s q else s

/-- Started command `id` completed with a status. `code` overrides the fence code. A command that its timeout has
completed already only signals, and so sets LATE_SIGNAL (chapter 4, Cases left undefined). -/
def finishWith (s : State) (id : Nat) (st : Status) (detail result : Word) (code : Option (BitVec 8)) : State :=
  match tget s.started id with
  | none => s
  | some c =>
    let s := { s with started := tdel s.started id }
    if c.timedOut then (if st = .ok then endFence s c.words true st none else s)
    else afterEnd (endCommand s c.queue c.ring c.words c.refs true st detail result code) c.queue c.words st

/-- Started command `id` completed. -/
def finish (s : State) (id : Nat) (st : Status) (detail result : Word) : State := finishWith s id st detail result none

/-- A command that may still be running completed, if it is there. -/
def finishOpt (s : State) (id : Option Nat) (st : Status) (detail result : Word) : State :=
  match id with
  | some i => finish s i st detail result
  | none => s

/-! ## Queues and sessions leaving -/

/-- Started commands of queue `q`, by id; those their timeout has completed do not count (R102). -/
def startedOf (s : State) (q : Nat) : List Nat := (s.started.filter fun e => e.2.queue == q && !e.2.timedOut).map (·.1)

/-- Queues of session `i`. -/
def queuesOf (s : State) (i : Nat) : List Nat := (s.queues.filter fun e => e.2.session == i).map (·.1)

/-- A queue torn down: what it had fetched is discarded, its ring is no longer read, and its session loses a DREF. -/
def tearQueue (s : State) (q : Nat) : State :=
  match tget s.queues q with
  | none => s
  | some x =>
    let s := discardFetched s q
    let r : ObjRef := { type := .queue, index := q }
    let s := bumpGen (dropRefs { s with queues := tdel s.queues q } r) r
    subRef s { type := .session, index := x.session } .device 1

/-- A session torn down with its queues (Table 4.12). -/
def tearSession (s : State) (i : Nat) : State :=
  if (tget s.sessions i).isNone then s
  else
    let s := (queuesOf s i).foldl tearQueue s
    let r : ObjRef := { type := .session, index := i }
    disown (bumpGen (dropRefs { s with sessions := tdel s.sessions i } r) r) i

/-- Steps 3, 5 and 6 of R116. -/
def dieSession (s : State) (i : Nat) : State :=
  let s := (queuesOf s i).foldl discardFetched s
  signalerLost (releaseRefs s i) i

/-- The queues of a session fetch nothing more (R116 steps 1 and 4). -/
def haltSession (s : State) (i : Nat) : State :=
  { s with sessions := tupd s.sessions i fun x => { x with dying := true }
           queues := tmap s.queues fun _ q => if q.session = i then { q with noFetch := true } else q }

/-- R116 without waiting: the started commands of the session end ABORTED at once (an FLR under R341). -/
def killSession (s : State) (i : Nat) : State :=
  let s := haltSession s i
  let ids := (queuesOf s i).flatMap (startedOf s)
  let s := ids.foldl (fun s id => finish s id .aborted 0 0) s
  tearSession (dieSession s i) i

/-! ## Fetching (R454) -/

/-- The handle checks of R454 step 4, in order: what failed, the references of the handles that passed, and whether
SIGNAL_FENCE passed. (DEDUCED, log entry 12) -/
def handleChecks (s : State) (i : Nat) (x : Session) (o : OpInfo) (w : List Word) : Option Status × List ObjRef × Bool :=
  let sig : Except Status (List ObjRef) :=
    if !flagSignal w then .ok []
    else match checkHandle s i x (wd w 1) [.fence] with
      | .error e => .error e
      | .ok r => if (tget s.fences r.index).any (maySignal i) then .ok [r] else .error .noAccess
  match sig with
  | .error e => (some e, [], false)
  | .ok r1 =>
    let wait : Except Status (List ObjRef) :=
      if !flagWait w then .ok []
      else match checkHandle s i x (wd w 4) [.fence] with
        | .error e => .error e
        | .ok r => if (tget s.fences r.index).any (holdsFence i) then .ok [r] else .error .noAccess
    match wait with
    | .error e => (some e, r1, true)
    | .ok r2 =>
      let pfAll (r : ObjRef) : Bool :=
        x.world == .host && x.fn == some 0 &&
        (match opOf w with
          | 0x03 => (tget s.sessions r.index).any fun y => y.side == .host
          | 0x07 => ((tget s.queues r.index).bind fun q => tget s.sessions q.session).any fun y => y.side == .host
          | _ => false)
      let fixed (r : ObjRef) : Bool :=
        match opOf w with
        | 0x02 | 0x03 => r.index < 3 || (tget s.sessions r.index).any (·.primary)
        | 0x05 => r.index < 3 || (tget s.queues r.index).any fun q =>
            q.creator.isNone && (tget s.sessions q.session).any (·.primary)
        | _ => false
      let tgt (types : List ObjType) : Option Status × List ObjRef × Bool :=
        match parseHandle s (wd w 7) types with
        | .error e => (some e, r1 ++ r2, true)
        | .ok r =>
          -- R378: for TENSOR_WATCH the WATCH_GID check of R385 takes the place of this one
          let reach := opOf w == 0x43 || mayReach s i x r || pfAll r
          if !reach ∨ fixed r then (some .noAccess, r1 ++ r2, true) else (none, r1 ++ r2 ++ [r], true)
      match o.target with
      | .absent => (none, r1 ++ r2, true)
      | .object types => tgt types
      | .bondOrNull => if wd w 7 = 0 then (none, r1 ++ r2, true) else tgt [.bond]

/-- The fetch checks, in the order of R454. (DEDUCED, log entry 12) -/
def fetchChecks (s : State) (i : Nat) (x : Session) (w : List Word) : Option Status × List ObjRef × Bool :=
  match opInfo (opOf w) with
  | none => (some .badOpcode, [], false)
  | some o =>
    if !mayIssue x o ∨ rootOnlyField x w then (some .world, [], false)
    else if reservedSet o w then (some .reservedNonzero, [], false)
    else handleChecks s i x o w

/-- The 16 words of the slot at a queue's head (R98, R103). -/
def slotWords (s : State) (q : Queue) : State × List Word :=
  match q.space with
  | .hub => (s, tgetD q.slots q.head [])
  | sp =>
    let x := (tget s.sessions q.session).getD { world := .root }
    let (s, d) := readSpace s x sp (q.ring + BitVec.ofNat 64 (64 * q.head)) 64
    (s, wordsOf (d.getD (zeros 64)))

/-- Whether the VF that owns a session is not RUNNING (R339). -/
def quiesced (s : State) (x : Session) : Bool :=
  match x.fn with
  | some v => v != 0 && (getVf s v).state != .running
  | none => false

/-- Whether queue `qi` may fetch: it has a slot to read, nothing has stopped its fetching, and queue 2 is enabled. -/
def mayFetch (s : State) (qi : Nat) : Option (Queue × Session) :=
  match tget s.queues qi with
  | none => none
  | some q =>
    match tget s.sessions q.session with
    | none => none
    | some x =>
      if !running s ∨ q.noFetch ∨ x.dying ∨ quiesced s x ∨ q.head = q.tail ∨ (qi = 2 ∧ !s.hpe.pfqEnable) then none
      else some (q, x)

/-- The DREF of each handle raised; none when one would overflow and the queue waits (R112). -/
def takeRefs (s : State) (refs : List ObjRef) : Option State :=
  refs.foldl (fun (o : Option State) r => o.bind fun s => addRef s r .device 1) (some s)

/-- Failed commands at the head of a queue complete once every earlier command has started (R454). -/
def drainFailed (s : State) (qi : Nat) : State :=
  match tget s.queues qi with
  | none => s
  | some q0 =>
    (List.range q0.fetched.length).foldl
      (fun s _ => match tget s.queues qi with
        | none => s
        | some q => match q.fetched with
          | [] => s
          | f :: rest => match f.failed with
            | none => s
            | some st =>
              if q.stopped ∨ q.noFetch then s
              else
                let s := { s with queues := tset s.queues qi { q with fetched := rest } }
                afterEnd (endCommand s qi f.ring f.words f.refs f.signalOk st 0 0 none) qi f.words st)
      s

/-- COMMAND_FETCH: the slot at the head read once, checked and queued; a STOPPED queue discards it (R101). -/
def fetch (s : State) (qi : Nat) : State :=
  match mayFetch s qi with
  | none => s
  | some (q, x) =>
    let (s, words) := slotWords s q
    let w := (List.range 16).map fun i => wd words i
    let (failed, refs, signalOk) := fetchChecks s q.session x w
    match takeRefs s refs with
    | none => s
    | some s =>
      let s := { s with queues := tupd s.queues qi fun q => { q with head := (q.head + 1) % 2 ^ q.log2 } }
      if q.stopped then endCommand s qi q.head w refs signalOk .aborted 0 0 none
      else
        let f : Fetched := { ring := q.head, words := w, failed := failed, signalOk := signalOk, refs := refs }
        drainFailed { s with queues := tupd s.queues qi fun q => { q with fetched := q.fetched ++ [f] } } qi

/-! ## Starting (R100) -/

/-- Where the WAIT condition of a command stands: held back, free to start, or failed with the fence's code. -/
inductive WaitState
  | held | free | failed (code : BitVec 8)
deriving DecidableEq, Repr

/-- The WAIT condition (R106, Table 4.4). (DEDUCED, log entry 10) -/
def waitState (s : State) (w : List Word) : WaitState :=
  if !flagWait w then .free
  else match tget s.fences (fld (wd w 4) 19 0) with
    | none => if flagWaitAny w then .free else .failed 0x0D
    | some f =>
      if (wd2 w 5).toNat ≤ f.value.toNat then .free
      else match f.code with
        | none => .held
        | some c => if flagWaitAny w then .free else .failed c

/-- Whether dry-down lets an opcode of this session start (R426, R427); POWER_STATE starts only to be rejected (R441).
(DEDUCED, log entry 14) -/
def dryAllows (s : State) (x : Session) (op : Nat) : Bool :=
  !inDry s || (x.world == .mgmt && (op == 0x47 || op == 0x48)) || op == 0x46

/-- The command of a queue that starts next: the oldest fetched one; in dry-down the oldest that still runs. (DESIGN
CHOICE, log entry 6) -/
def nextFetched (s : State) (q : Queue) (x : Session) : Option Fetched :=
  if inDry s then q.fetched.find? fun f => dryAllows s x (opOf f.words) else q.fetched.head?

/-- Commands of queue `qi` that count toward its 32: started and not completed, or fetched with a failed check (R100, R454). -/
def inFlight (s : State) (qi : Nat) (q : Queue) : Nat := (startedOf s qi).length + (q.fetched.filter (·.failed.isSome)).length

/-- The next command of queue `qi`, when it may start now (R100). (DESIGN CHOICE, log entry 6) -/
def readyCommand (s : State) (qi : Nat) : Option (Queue × Fetched × Session) :=
  match tget s.queues qi with
  | none => none
  | some q =>
    match tget s.sessions q.session with
    | none => none
    | some x => match nextFetched s q x with
    | none => none
    | some f =>
      if f.failed.isNone ∧ running s ∧ !q.stopped ∧ !q.noFetch ∧ !quiesced s x ∧ dryAllows s x (opOf f.words)
          ∧ s.pwr.entry.isNone ∧ ¬ (x.world = .tenant ∧ s.dbg.holding = some x.accord) ∧ waitState s f.words ≠ .held
          ∧ (!flagSerial f.words ∨ (startedOf s qi).isEmpty) ∧ inFlight s qi q < 32
      then some (q, f, x) else none

/-- The queue whose command starts in this command slot: of those that hold a startable command, the first in the rotation, which begins
behind the queue served last (R100). (DEDUCED, log entry 6) -/
def startTurn (s : State) : Option Nat :=
  let place (i : Nat) : Nat := (i + 1024 - s.queueTurn) % 1024
  ((s.queues.map (·.1)).filter fun i => (readyCommand s i).isSome).foldl
    (fun (b : Option Nat) i => match b with
      | none => some i
      | some j => if place i < place j then some i else b) none

/-- The next command of queue `qi`, when it is this queue's turn and its opcode is `op`. -/
def startable (s : State) (qi op : Nat) : Option (Queue × Fetched × Session) :=
  match readyCommand s qi with
  | none => none
  | some (q, f, x) => if opOf f.words = op ∧ startTurn s = some qi then some (q, f, x) else none

/-- What an opcode did when it started. -/
inductive Eff
  | done (st : Status) (detail result : Word) (s : State)
  | wait (w : Wait) (s : State)

/-- A command that ended with a status and nothing else. -/
def Eff.fail (st : Status) (s : State) : Eff := .done st 0 0 s
/-- A command that failed a check of its chapter. -/
def Eff.reject (code : Word) (s : State) : Eff := .done .rejected code 0 s
/-- A command that completed. -/
def Eff.good (s : State) : Eff := .done .ok 0 0 s
/-- A command that completed with a RESULT. -/
def Eff.result (r : Word) (s : State) : Eff := .done .ok 0 r s

/-- What a started command waits for, recorded. -/
def setWait (s : State) (id : Nat) (w : Wait) : State :=
  { s with started := tupd s.started id fun c => { c with wait := w } }

/-- The session of a started command. -/
def sessionOf (s : State) (c : Started) : Session := (tget s.sessions c.session).getD { world := .root }

/-- The index in a handle word. -/
def handleIndex (h : Word) : Nat := fld h 19 0

/-- The TARGET of a started command, if it is still the object the fetch found. -/
def targetOf (s : State) (c : Started) : Option ObjRef :=
  match parseHandle s (wd c.words 7) anyObject with
  | .ok r => some r
  | .error _ => none

/-- The function whose requester ID a record's accesses carry (R330). -/
def recordFn (s : State) (x : Session) : Option Nat :=
  if x.world = .tenant ∧ (x.side = .device ∨ x.fn.isNone) then
    ((List.range 63).map (· + 1)).find? fun v => (getVf s v).bound == some x.accord
  else x.fn

/-- What every start does before the opcode's own effect (R100): when the next command of queue `qi` is an `op`, may start, and
its WAIT has not failed, it leaves the queue and becomes the started command with the next id. -/
def beginOf (s : State) (qi op : Nat) : Option (Started × State) :=
  match startable s qi op with
  | none => none
  | some (q, f, _) =>
    match waitState s f.words with
    | .failed _ => none
    | _ =>
      let c : Started := { queue := qi, ring := f.ring, session := q.session, words := f.words, refs := f.refs, wait := .starting }
      some (c, { s with queues := tset s.queues qi { q with fetched := q.fetched.erase f }
                        queueTurn := (qi + 1) % 1024
                        nextId := s.nextId + 1
                        started := tset s.started s.nextId c })

/-- A command that may start but whose WAIT has failed ends at once with the fence's code (R106). -/
def endFailedWait (s : State) (qi op : Nat) : State :=
  match startable s qi op with
  | none => s
  | some (q, f, _) =>
    match waitState s f.words with
    | .failed code =>
      let s := { s with queues := tset s.queues qi { q with fetched := q.fetched.erase f }, queueTurn := (qi + 1) % 1024 }
      let s := endCommand s qi f.ring f.words f.refs f.signalOk .waitFailed (code.setWidth 32) 0 none
      drainFailed (afterEnd s qi f.words .waitFailed) qi
    | _ => s

/-- What an opcode did, carried out on started command `id`: it ends, or it waits. -/
def applyEff (id : Nat) (e : Eff) : State :=
  match e with
  | .done st detail result s => finish s id st detail result
  | .wait w s => setWait s id w

/-- The oldest fetched command of queue `qi` started, if it is an `op` and may start: `eff` applies its change in this command
slot. (DESIGN CHOICE, log entry 6) -/
def startCommand (op qi : Nat) (eff : Nat → Started → State → Eff) (s : State) : State :=
  match beginOf s qi op with
  | some (c, u) => drainFailed (applyEff s.nextId (eff s.nextId c u)) qi
  | none => endFailedWait s qi op

end Sys2Proof.Machine
end

