-- ==== Sys2Proof/Machine/KeyOps.lean ====
section
/-! DEFINITION. Fresh randomness (R144, R145), key slots as commands see them (R123 to R132, R136) and what an accord's end does to its
keys (R147). -/

namespace Sys2Proof.Machine

/-! ## Randomness (R144, R145) -/

/-- One generate request of the DRBG. Its raw noise is free; what follows from it is as R144 and R145 say. (DESIGN CHOICE, log
entry 3) -/
def drawBytes (s : State) (n : Nat) : State × Bytes :=
  let r := drbgGenerate s.drbgKey s.drbgV n
  ({ s with drbgKey := r.2.1, drbgV := r.2.2, drbgRequests := s.drbgRequests + 1 }, r.1)

/-- Three conditioned blocks, of 1,152 raw bits. -/
def drawEntropy (s : State) : State × Bytes :=
  ({ s with draws := s.draws + 3 }, (List.range 3).flatMap fun i => conditionBlock (Config.noise (s.draws + i)))

/-- The DRBG instantiated from fresh entropy: ready, with its counts begun. -/
def startDrbg (s : State) : State :=
  let (s, e) := drawEntropy s
  let r := drbgSeed e (zeros 32) (zeros 16)
  { s with drbgKey := r.1, drbgV := r.2, drbgReady := true, entropyFail := false, drbgRequests := 0, drbgSince := s.time }

/-- The DRBG reseeded from fresh entropy (R145). -/
def reseedDrbg (s : State) : State :=
  let (s, e) := drawEntropy s
  let r := drbgSeed e s.drbgKey s.drbgV
  { s with drbgKey := r.1, drbgV := r.2, drbgRequests := 0, drbgSince := s.time }

/-- Whether a reseed is due, so that generate requests wait (R145). -/
def reseedDue (s : State) : Bool := s.drbgRequests ≥ 65536 || s.time ≥ s.drbgSince + 1000000

/-- Whether the DRBG serves: no test has failed (R145). -/
def noEntropy (s : State) : Bool := s.entropyFail || !s.drbgReady

/-- `n` bytes for the hub itself, from a DRBG that is reseeded first where a reseed is due (R145). -/
def drawFresh (s : State) (n : Nat) : State × Bytes := drawBytes (if reseedDue s then reseedDrbg s else s) n

/-- USE bits of Table 5.3. -/
def useEncrypt : Nat := 0
/-- DECRYPT. -/
def useDecrypt : Nat := 1
/-- DERIVE. -/
def useDerive : Nat := 2
/-- MAC. -/
def useMac : Nat := 3
/-- WRAP. -/
def useWrap : Nat := 4
/-- UNWRAP. -/
def useUnwrap : Nat := 5
/-- MASTERS bits: GCE and KDF. -/
def masterGce : Nat := 4
/-- KDF. -/
def masterKdf : Nat := 5

/-- Key length of a LENGTH code (Table 5.3). -/
def keyLen : Nat → Nat
  | 0 => 16 | 1 => 32 | 2 => 48 | _ => 64

/-- LENGTH code of a key. -/
def lenCode (k : Bytes) : Nat := if k.length ≤ 16 then 0 else if k.length ≤ 32 then 1 else if k.length ≤ 48 then 2 else 3

/-- LCMASK of PILOT, FIELD and SUNSET (R127, R136). -/
def maskPFS : BitVec 16 := 0x01C0

/-- Whether a mask admits the life-cycle state in force. -/
def lcAdmits (s : State) (m : BitVec 16) : Bool := m.getLsbD s.lcc.state

/-- Whether a session may name a slot that is not EMPTY (R124, second part). -/
def mayName (x : Session) (k : Slot) : Bool :=
  k.worlds.getLsbD (worldNum x.world) && !(x.world == .tenant && k.owner != x.accord) && !(x.world == .mgmt && k.owner != 0)

/-- R124: whether a LIVE slot's key serves an operation of a unit for a session. -/
def mayServe (s : State) (x : Session) (k : Slot) (master use : Nat) : Bool :=
  k.state == .live && k.masters.getLsbD master && mayName x k && lcAdmits s k.lcmask && k.use.getLsbD use

/-- Rejection codes of Table 5.11. -/
def keySlotRange : Word := 0x01
/-- SLOT_STATE. -/
def keySlotState : Word := 0x02
/-- KCV_MISMATCH. -/
def keyKcvMismatch : Word := 0x03
/-- ATTR_DENIED. -/
def keyAttrDenied : Word := 0x04
/-- LABEL_INVALID. -/
def keyLabelInvalid : Word := 0x05
/-- USE_DENIED. -/
def keyUseDenied : Word := 0x06
/-- UNWRAP_FAILED. -/
def keyUnwrapFailed : Word := 0x07
/-- ENTROPY_FAIL. -/
def keyEntropyFail : Word := 0x08
/-- TIER_FULL. -/
def keyTierFull : Word := 0x09

/-- The lowest EMPTY slot of a tier, 1 heart or 2 top (R132). -/
def freeSlot (s : State) (tier : Nat) : Option Nat :=
  let r := if tier = 1 then (16, 48) else (64, 192)
  ((List.range r.2).map (· + r.1)).find? fun i => (getSlot s i).state == .empty

/-- R127: whether a key material block asks for attributes its session may not give. A key of OPEN is refused too (R48; DEDUCED, log
entry 25). -/
def attrDenied (x : Session) (slot : Nat) (sp : Space) (blk : Bytes) : Bool :=
  let b (i : Nat) : Nat := leField blk i 1
  let fmt := b 0
  let masters := BitVec.ofNat 8 (b 4)
  let worlds := BitVec.ofNat 8 (b 5)
  let lcm := BitVec.ofNat 16 (leField blk 6 2)
  let use := BitVec.ofNat 8 (b 8)
  let heart : Bool := slot < 64
  let owner := if x.world = .tenant then x.accord else 0
  fmt > 3 || b 2 / 4 != 0 || b 3 != 0 || b 5 / 32 != 0 || b 8 / 128 != 0
    || (bslice blk 9 23).any (· != 0) || (b 1 != 0 && fmt != 2)
    || (lcm &&& 0xFC00) != 0
    || (fmt == 0 && sp == .host)
    || (fmt == 1 && owner == 0)
    || (masters &&& 0x06) != 0
    || (heart && (use &&& ~~~(0x34 : BitVec 8)) != 0)
    || (!heart && use.getLsbD useDerive)
    || (x.world == .tenant && (x.accord == 1 || worlds != 0x08 || (masters &&& ~~~(0x38 : BitVec 8)) != 0
          || (lcm &&& ~~~maskPFS) != 0))
    || (x.world == .mgmt && (worlds != 0x02 || (masters &&& ~~~(0xB0 : BitVec 8)) != 0))

/-- The key object of a slot, made if there is none (Table 5.6), with the creator's reference. -/
def ensureKeyObj (s : State) (i session : Nat) : State :=
  if (tget s.keyObjs i).isSome then s
  else
    let s := { s with keyObjs := tset s.keyObjs i { owner := session } }
    match holdRef s session { type := .key, index := i } with
    | .ok s => s
    | .error _ => s

/-- The shadow of slot `i` written from a block whose key field is clear: 32 B of attributes, then the key. -/
def writeShadow (s : State) (i owner : Nat) (blk : Bytes) : State :=
  let attr : BitVec 8 × BitVec 5 × BitVec 7 × BitVec 16 × Nat :=
    (BitVec.ofNat 8 (leField blk 4 1), BitVec.ofNat 5 (leField blk 5 1), BitVec.ofNat 7 (leField blk 8 1)
    , BitVec.ofNat 16 (leField blk 6 2), owner)
  updSlot s i fun k =>
    let k := if k.state = .empty
      then { k with state := .staged, masters := attr.1, worlds := attr.2.1, use := attr.2.2.1, lcmask := attr.2.2.2.1
                    owner := attr.2.2.2.2 }
      else k
    { k with shadow := .staged, shadowKey := blk.drop 32, shadowAttr := attr }

/-- KEY_STAGE's write done: the shadow, the key object, and the completion (R129). -/
def stageDone (s : State) (id i : Nat) (c : Started) (blk : Bytes) : State :=
  let x := sessionOf s c
  let s := writeShadow s i (if x.world = .tenant then x.accord else 0) blk
  let s := ensureKeyObj s i c.session
  let detail := if leField blk 0 1 = 3 then kcv (blk.drop 32) else 0
  finish s id .ok detail (handle s { type := .key, index := i })

/-- Operation `id` bound to the active half of slot `i` (R130). -/
def bindSlot (s : State) (i id : Nat) : State := { s with slots := tupd s.slots i fun k => { k with users := k.users ++ [id] } }

/-- Operation `id` lets go of the half of slot `i` it is bound to, with Table 5.6's zeroizations (R130, R147). -/
def releaseSlot (s : State) (i id : Nat) : State :=
  { s with slots := tupd s.slots i fun k =>
      settleSlot { k with users := k.users.filter (· != id), shadowUsers := k.shadowUsers.filter (· != id) } }

/-- What an accord's entry into RETIRING does to its keys (Table 5.10): its context leaves the die, its flacon is
overwritten and its key object torn down, FLACON_SEQ advances, its slots retire and its queued KEY_STAGE commands end ABORTED. -/
def retireKeys (s : State) (a : Nat) : State :=
  let r : ObjRef := { type := .key, index := 256 + a }
  let s := updAccord (tearKey (dropRefs s r) r.index) a fun x => { x with ctx := none, flacon := none }
  let s := { s with flaconSeq := tset s.flaconSeq a (tgetD s.flaconSeq a 0 + 1)
                    slots := tmap s.slots fun i k => if i ≥ 16 && k.owner == a && a != 0 then retireSlot k else k }
  let queued := s.started.filter fun e => match e.2.wait with
    | .keyStage _ _ => (tget s.sessions e.2.session).any fun x => x.accord == a && x.world == .tenant
    | _ => false
  queued.foldl (fun s e => finish s e.1 .aborted 0 0) s

/-- Keys of slots 16 to 255, the context cache and every engine key zeroized (ZEROIZE_ALL and dry-down, Table 5.10). -/
def zeroizeKeys (s : State) : State :=
  { s with
    slots := s.slots.filter fun e => e.1 < 16
    accords := tmap s.accords fun _ x => { x with ctx := none }
    mpeKeys := false }

/-- Slots that the life-cycle state in force does not admit, zeroized (R125). (DEDUCED, log entry 39) -/
def lcZeroize (s : State) : State := { s with slots := s.slots.filter fun e => lcAdmits s e.2.lcmask }

/-! ## KEY_STAGE (R126, R127, R129, R131) -/

/-- NO_HEART_NOTE of Table 5.11. -/
def keyNoHeartNote : Word := 0x0C

/-- The slot a command names, or how R124 and Table 5.11 refuse it. (DEDUCED, log entry 25) -/
def namedSlot (s : State) (x : Session) (i : Nat) : Except Word Slot :=
  if i < 16 then .error keySlotRange
  else
    let k := getSlot s i
    if k.state ≠ .empty ∧ !mayName x k then .error keyUseDenied else .ok k

/-- Length of the KEY field of a block (Table 5.5). -/
def blockKeyLen (blk : Bytes) : Nat :=
  let n := keyLen (leField blk 2 1 % 4)
  match leField blk 0 1 with
  | 0 => n | 3 => 0 | _ => n + 8

/-- The key material block at an address, read once: 32 B, then its KEY field, each within what R455 lets the session use. (DEDUCED,
log entry 25) -/
def readBlock (s : State) (x : Session) (sp : Space) (a : BitVec 64) : State × Except Status Bytes :=
  match spaceCheck x (some sp) a.toNat 32 with
  | some e => (s, .error e)
  | none => match readSpace s x sp a 32 with
    | (s, none) => (s, .error .badOperand)
    | (s, some h) => match spaceCheck x (some sp) a.toNat (32 + blockKeyLen h) with
      | some e => (s, .error e)
      | none => match readSpace s x sp (a + 32) (blockKeyLen h) with
        | (s, none) => (s, .error .badOperand)
        | (s, some k) => (s, .ok (h ++ k))

/-- Why a key command is not applied yet, or how it is refused. -/
inductive KeyStop
  | wait | code (c : Word)
deriving DecidableEq, Repr

/-- The context of an accord that holds heart notes: on the die, or to be waited for while the hot set has no room (R62), and none once
its flacon has proved bad (R141). -/
def needContext (s : State) (a : Nat) : State × Except KeyStop KeyContext :=
  let (s, _) := makeResident s a
  match (getAccord s a).ctx with
  | some c => (s, .ok c)
  | none => (s, .error .wait)

/-- The clear key of a block, or its rejection (R127, R145). -/
def clearKey (s : State) (x : Session) (blk : Bytes) : State × Except KeyStop Bytes :=
  let n := keyLen (leField blk 2 1 % 4)
  let body := bslice blk 32 (blockKeyLen blk)
  let unwrap (key : Bytes) : Except KeyStop Bytes :=
    match kwUnwrap key body with
    | some k => .ok k
    | none => .error (.code keyUnwrapFailed)
  match leField blk 0 1 with
  | 0 => (s, .ok body)
  | 1 =>
    match needContext s x.accord with
    | (s, .error e) => (s, .error e)
    | (s, .ok c) => (s, unwrap c.heartShared)
  | 2 =>
    let w := leField blk 1 1
    let k := getSlot s w
    if w < 16 then (s, .error (.code keySlotRange))
    else if !mayServe s x k masterKdf useUnwrap ∨ k.key.length ≠ 32 then (s, .error (.code keyUseDenied))
    else (s, unwrap k.key)
  | _ =>
    if noEntropy s then (s, .error (.code keyEntropyFail))
    else if reseedDue s then (s, .error .wait)
    else let (s, b) := drawBytes s n; (s, .ok b)

/-- Whether a KEY_STAGE is queued on a slot (R131). -/
def stageQueued (s : State) (i : Nat) : Bool :=
  s.started.any fun e => match e.2.wait with
    | .keyStage j _ => j == i
    | _ => false

/-- Whether the session can hold the key object of slot `i`. -/
def keyObjRoom (s : State) (session i : Nat) : Bool := (tget s.keyObjs i).isSome || refRoom s session

/-- KEY_STAGE into slot `i` with the block `blk`, whose attributes have passed R127. -/
def stageInto (c : Started) (s : State) (i : Nat) (blk : Bytes) : Eff :=
  let x := sessionOf s c
  let k := getSlot s i
  let waits : Bool := k.state == .retiring || k.shadow == .draining
  if !waits ∧ k.shadow ≠ .empty then .reject keySlotState s
  else if waits ∧ stageQueued s i then .fail .busy s
  else if !keyObjRoom s c.session i then .fail .limit s
  else match clearKey s x blk with
    | (s, .error (.code e)) => .reject e s
    | (s, .error .wait) => .wait .retry s
    | (s, .ok key) => .wait (.keyStage i (bslice blk 0 32 ++ key)) s

/-- KEY_STAGE (R126, R127, R129, R131). (DEDUCED, log entry 25) -/
def keyStageEff (_id : Nat) (c : Started) (s : State) : Eff :=
  let x := sessionOf s c
  let w := wd c.words 8
  let i := fld w 7 0
  let sp := spaceOf (fld w 17 16)
  let a := wd2 c.words 9
  let named : Except Word Unit := if i = 0 then .ok () else (namedSlot s x i).map fun _ => ()
  match named with
  | .error e => .reject e s
  | .ok () =>
    match sp with
    | none => .fail .badOperand s
    | some sp => match readBlock s x sp a with
      | (s, .error e) => .fail e s
      | (s, .ok blk) =>
        let tier := fld w 9 8
        if i = 0 ∧ tier ≠ 1 ∧ tier ≠ 2 then .fail .badOperand s
        else if attrDenied x (if i = 0 then (if tier = 1 then 16 else 64) else i) sp blk then .reject keyAttrDenied s
        else if i ≠ 0 then stageInto c s i blk
        else match freeSlot s tier with
          | none => .reject keyTierFull s
          | some j => stageInto c s j blk

/-! ## KEY_DERIVE (R136) -/

/-- What a derivation starts from: the key, and OWNER, WORLDS, LCMASK and MASTERS of the result. -/
structure DeriveSource where
  key : Bytes
  owner : Nat
  worlds : BitVec 5
  lcmask : BitVec 16
  masters : BitVec 8
deriving DecidableEq, Repr

/-- The source that KEY_DERIVE names; a slot that is not LIVE serves no new use (Table 5.6; DEDUCED, log entry 29). -/
def deriveSource (s : State) (x : Session) (w : Word) : State × Except KeyStop DeriveSource :=
  if fld w 9 8 = 0 then
    let i := fld w 7 0
    let k := getSlot s i
    if i < 16 ∨ 64 ≤ i then (s, .error (.code keySlotRange))
    else if k.state ≠ .live then (s, .error (.code keySlotState))
    else if !mayServe s x k masterKdf useDerive ∨ k.key.length ≠ 32 then (s, .error (.code keyUseDenied))
    else (s, .ok { key := k.key, owner := k.owner, worlds := k.worlds, lcmask := k.lcmask, masters := k.masters &&& 0xDF })
  else
    let a := if x.world = .root then fld w 25 16 else x.accord
    let st := (getAccord s a).state
    if a < 2 ∨ (st ≠ .composing ∧ st ≠ .live) then (s, .error (.code keyNoHeartNote))
    else match needContext s a with
      | (s, .error e) => (s, .error e)
      | (s, .ok c) =>
        (s, .ok { key := if fld w 9 8 = 1 then c.heartChip else c.heartShared, owner := a, worlds := 0x08, lcmask := maskPFS
                  masters := 0x18 })

/-- Whether a label may be used for a key of owner `a`. -/
def labelOk (s : State) (a : Nat) (l : Bytes) : Bool :=
  0x80 ≤ leField l 0 1 && leField l 1 1 == 1 && leField l 8 4 == (if a = 0 then 0 else (gidOf s a).toNat)
    && leField l 5 1 == 0 && leField l 24 4 == 0 && bslice l 28 4 == [0x42, 0x4C, 0x4E, 0x4C]

/-- The slot derived into: a named top slot that is EMPTY, or the lowest one. -/
def deriveDest (s : State) (i : Nat) : Except Word Nat :=
  if i = 0 then
    match freeSlot s 2 with
    | some j => .ok j
    | none => .error keyTierFull
  else if i < 64 then .error keySlotRange
  else if (getSlot s i).state ≠ .empty then .error keySlotState
  else .ok i

/-- KEY_DERIVE. (DEDUCED, log entry 25) -/
def keyDeriveEff (_id : Nat) (c : Started) (s : State) : Eff :=
  let x := sessionOf s c
  let w := wd c.words 8
  let sp := defaultSpace x
  if fld w 9 8 = 3 then .fail .badOperand s
  else match deriveSource s x w with
    | (s, .error (.code e)) => .reject e s
    | (s, .error .wait) => .wait .retry s
    | (s, .ok src) => match spaceCheck x (some sp) (wd2 c.words 10).toNat 32 with
      | some e => .fail e s
      | none => match readSpace s x sp (wd2 c.words 10) 32 with
        | (s, none) => .fail .badOperand s
        | (s, some l) =>
          if !labelOk s src.owner l then .reject keyLabelInvalid s
          else match deriveDest s (fld (wd c.words 9) 7 0) with
            | .error e => .reject e s
            | .ok i =>
              if !keyObjRoom s c.session i then .fail .limit s
              else
                let k : Slot :=
                  { state := .live, key := kdf src.key l [] 256, masters := src.masters, worlds := src.worlds
                    use := BitVec.ofNat 7 (fld (wd c.words 9) 14 8) &&& 0x7B, lcmask := src.lcmask, owner := src.owner }
                let s := ensureKeyObj (updSlot s i fun _ => k) i c.session
                .result (handle s { type := .key, index := i }) s


/-! ## DRBG_READ, and commands that wait and are applied again -/

/-- DRBG_READ (R145); while a reseed is due it waits. -/
def drbgReadEff (id : Nat) (c : Started) (s : State) : Eff :=
  let x := sessionOf s c
  let n := (wd c.words 10).toNat
  let sp := defaultSpace x
  if n > 4096 then .fail .badOperand s
  else match spaceCheck x (some sp) (wd2 c.words 8).toNat n with
    | some e => .fail e s
    | none =>
      if noEntropy s then .reject keyEntropyFail s
      else if reseedDue s then .wait .retry s
      else
        let (s, b) := drawBytes s n
        match writeSpace s x sp (wd2 c.words 8) b (.command id) with
        | (s, true) => .good s
        | (s, false) => .fail .badOperand s

/-- A command that waited is applied again: none while it still waits. -/
def retryCommand (s : State) (id : Nat) (c : Started) : Option State :=
  let again (e : Eff) : Option State := match e with
    | .wait .retry _ => none
    | e => some (applyEff id e)
  match opOf c.words with
  | 0x28 => again (keyStageEff id c s)
  | 0x2C => again (keyDeriveEff id c s)
  | 0x31 => again (drbgReadEff id c s)
  | _ => none

end Sys2Proof.Machine
end

