-- ==== Sys2Proof/Machine/Watch.lean ====
section
/-! DEFINITION. The tensor watch (R385, R386): its wait for the step, the hold of its accord, and the dump. -/

namespace Sys2Proof.Machine

/-- Requests that a port holds. -/
def portReqs (p : Port) : List Req :=
  p.streams.flatMap (fun e => e.2.outstanding.map (·.2)) ++ p.tx.map (·.2) ++ p.heldReqs ++ p.gwIn
    ++ p.gwOpen.flatMap (·.reqs) ++ p.gwSent.flatMap (·.reqs)

/-- Accord whose region a watch names, with the region. -/
def watchRegion (s : State) (c : Started) : Option (Nat × Region) :=
  match targetOf s c with
  | some r => (tget s.regions r.index).map fun x => (x.accord, x)
  | none => none

/-- Whether no request or command of accord `a` is under way (R385 step 2). (PRESUMED, log entry 40) -/
def accordQuiet (s : State) (a : Nat) : Bool :=
  !(s.mpes.any fun e => (mpeReqs e.2).any fun r => r.accord == a)
    && !(s.ports.any fun e => (portReqs e.2).any fun r => r.accord == a)
    && !(s.hpe.pages.any fun r => r.accord == a)
    && !(s.otus.any fun e => (e.2.ingress.any fun r => r.accord == a) || e.2.misses.any fun m => m.2.accord == a)
    && !(s.started.any fun e => !e.2.timedOut && (sessionOf s e.2).world == .tenant && (sessionOf s e.2).accord == a)

/-- The bricks `base` to `limit` read as the accord, in ascending order; none when a read is refused. (PRESUMED, log entry 40) -/
def watchRead (s : State) (n a base limit : Nat) : State × Option Bytes :=
  (List.range (limit + 1 - base)).foldl
    (fun (x : State × Option Bytes) i => match x.2 with
      | none => x
      | some d => match readBrickBytes x.1 n (base + i) a 0 4096 with
        | (s, .ok e) => (s, some (d ++ e))
        | (s, .error _) => (s, none))
    (s, some [])

/-- Whether a handle names a fence that a session of accord `a` created (R385). -/
def watchFenceOk (s : State) (a : Nat) : Bool :=
  match parseHandle s s.dbg.watchFence [.fence] with
  | .error _ => false
  | .ok r => (tget s.fences r.index).any fun f => f.accord == a

/-- The 64-byte header of a dump (R386). (PRESUMED, log entry 40) -/
def watchHeader (gid : Word) (region step bricks chunks : Nat) : Bytes :=
  bslice (toLE 0x48435457 4 ++ toLE gid.toNat 4 ++ toLE region 4 ++ toLE step 8 ++ toLE bricks 4 ++ toLE chunks 4) 0 64

/-- The dump written to the host, and the command's end (R385 step 3, R386). The top slot that holds the shared secret is
taken and retired within it. (PRESUMED, log entry 40) -/
def watchDump (s : State) (id : Nat) (c : Started) (a : Nat) (x : Region) : State :=
  let done (s : State) (st : Status) (detail : Word) : State :=
    finish { s with dbg := { s.dbg with holding := none } } id st detail 0
  match tget (getMpe s x.stack).rt x.rt, s.dbg.grant with
  | some e, some g =>
    if (freeSlot s 2).isNone then done s .rejected keyTierFull
    else if noEntropy s then done s .rejected keyEntropyFail
    else
      let (s, seed) := drawFresh s 32
      match Config.kemEncaps g.recipient seed with
      | none => done s .rejected 0x09
      | some (ct, key) => match watchRead s x.stack a e.base e.limit with
        | (s, none) => done s .aborted 0
        | (s, some d) =>
          let cs := chunks 1048576 d
          let h := watchHeader (gidOf s a) e.id (wd2 c.words 8).toNat (e.limit + 1 - e.base) cs.length
          let s := hostWrite s 0 s.dbg.watchDest (h ++ bslice ct 0 1568)
          let s := (List.range cs.length).foldl
            (fun s i =>
              let iv := zeros 8 ++ toBE i 4
              let w := gcmCrypt (bslice key 0 32) iv ((cs[i]?).getD [])
              hostWrite s 0 (s.dbg.watchDest + BitVec.ofNat 64 (1632 + i * 1048592)) (w ++ gcmTag (bslice key 0 32) iv h w)) s
          done { s with dbg := { s.dbg with chunks := cs.length } } .ok 0
  | _, _ => done s .aborted 0

/-- A watch moved on: it ends on an error of its fence, holds the accord at the step, and dumps once the accord is quiet. -/
def watchStep (s : State) (id : Nat) (c : Started) : Option State :=
  match watchRegion s c, tget s.fences (fld s.dbg.watchFence 19 0) with
  | some (a, x), some f =>
    if !watchFenceOk s a then some (finish { s with dbg := { s.dbg with holding := none } } id .rejected 0x0A 0)
    else if f.value.toNat < (wd2 c.words 8).toNat then
      if f.code.isSome then some (finish { s with dbg := { s.dbg with holding := none } } id .rejected 0x0A 0) else none
    else if accordQuiet s a then some (watchDump { s with dbg := { s.dbg with holding := some a } } id c a x)
    else if s.dbg.holding = some a then none
    else some { s with dbg := { s.dbg with holding := some a } }
  | _, _ => some (finish { s with dbg := { s.dbg with holding := none } } id .rejected 0x0A 0)

end Sys2Proof.Machine
end

