-- ==== Sys2Proof/Machine/Sleep.lean ====
section
/-! DEFINITION. The way into a B-state (R441): the quiet the hub waits for, what is saved, self-test at shutdown (R446), and an
entry that a wake event abandons (R442). -/

namespace Sys2Proof.Machine

/-! ## The self-test record (Tables 17.3 and 17.4) -/

/-- Where the record lies in the flash. -/
def recordAddr : Nat := 0x02000000

/-- Bytes of the flash. -/
def flashRead (s : State) (a len : Nat) : Bytes := memReadBytes s.cfg.flash 0xFF a len

/-- Bytes written to the flash. -/
def flashWrite (s : State) (a : Nat) (d : Bytes) : State :=
  { s with cfg := { s.cfg with flash := memWriteBytes s.cfg.flash 0xFF a d } }

/-- The key of slot 4, when it is usable in the state in force (R124). -/
def trimKey (s : State) : Option Bytes :=
  let k := getSlot s 4
  if k.state = .live ∧ lcAdmits s k.lcmask then some k.key else none

/-- The record of a self-test. -/
def testRecord (fw key : Bytes) (fails : List (BitVec 64)) : Bytes :=
  let head := toLE 0x54534942 4
  let rest := bslice fw 0 48 ++ toLE (Nat.min 64 fails.length) 1 ++ zeros 7
    ++ bslice ((fails.take 64).flatMap fun f => toLE f.toNat 8) 0 512
  head ++ List.replicate 4 0xFF ++ rest ++ cmac key (head ++ rest)

/-- What LBIST and MBIST found: as many failures, and such, as the silicon has. (DEDUCED, log entry 42) -/
def shutdownFailures (s : State) : State × List (BitVec 64) :=
  let (s, n) := drawNat s
  (List.range (n % 65)).foldl
    (fun (x : State × List (BitVec 64)) _ => let (s, k) := drawNat x.1; (s, x.2 ++ [BitVec.ofNat 64 k])) (s, [])

/-- Self-test at shutdown: the record is kept where slot 4 is usable and the flash is large enough (R446). -/
def shutdownTest (s : State) : State :=
  let (s, fails) := shutdownFailures s
  match trimKey s with
  | some k => if s.cfg.bigFlash then flashWrite s recordAddr (testRecord (toBE s.cfg.fwDigest.toNat 48) k fails) else s
  | none => s

/-! ## Steps 3 to 7 of R441 -/

/-- Code of Table 17.2 for a B-state: PWR_VID_TABLE, and 0 for B3. -/
def vidCode (s : State) : Nat → BitVec 8
  | 0 => BitVec.ofNat 8 (fld s.pwr.vidTable 31 24)
  | 1 => BitVec.ofNat 8 (fld s.pwr.vidTable 23 16)
  | 2 => BitVec.ofNat 8 (fld s.pwr.vidTable 15 8)
  | _ => 0

/-- Every store entry gone, dirty ones written back, and the capstone of every MPE saved (Table 8.6, R167). (DEDUCED,
log entry 65) -/
def saveStacks (s : State) : State :=
  (List.range 8).foldl
    (fun s n => capstoneSave (flushStore s n fun _ _ => true) n) s

/-- A key half wrapped with AES-KW under slot 3. -/
def wrapHalf (kek k : Bytes) : Bytes := if k.isEmpty then [] else kwWrap kek k

/-- Numbered slots as the B3 state image holds them: their keys wrapped, their attributes beside them. (DESIGN CHOICE, log entry 42) -/
def wrapSlots (s : State) : Tab Slot :=
  let kek := (getSlot s 3).key
  (s.slots.filter fun e => e.1 ≥ 16 && e.2.state != .empty).map fun e =>
    (e.1, { e.2 with key := wrapHalf kek e.2.key, shadowKey := wrapHalf kek e.2.shadowKey })

/-- The digest of a state image. -/
def imageDigest (t : Tab Slot) : Bytes := sha384 (t.flatMap fun e => toLE e.1 2 ++ e.2.key ++ e.2.shadowKey)

/-- Step 3 for B3: every resident context spilled, and the numbered slots wrapped into the state image, whose digest the retention store
keeps (R441). -/
def saveKeys (s : State) : State :=
  let s := (residents s).foldl evict s
  let t := wrapSlots s
  { s with pwr := { s.pwr with image := some t, imageDigest := imageDigest t } }

/-- Step 5's zeroization: only slots 5 and 10 stay, in the retention store (Table 5.10). -/
def dropKeys (s : State) : State :=
  { s with slots := s.slots.filter fun e => e.1 == 5 || e.1 == 10
           accords := tmap s.accords fun _ a => { a with ctx := none }
           mpeKeys := false }

/-- What a B-state needs done before the rail moves. (DEDUCED, log entry 42) -/
def saveFor (s : State) (target : Nat) : State :=
  let s := if target = 3 then saveKeys s else s
  let s := if target ≥ 2 then saveStacks s else s
  if target = 3 then dropKeys (shutdownTest s) else s

/-- Steps 3 to 7: the VID handshake is under way. -/
def sleepNow (s : State) (e : PowerEntry) : State :=
  let s := saveFor s e.target
  { s with pwr := { s.pwr with entry := none, entering := some e.target, vidReq := some (vidCode s e.target) } }

/-! ## Steps 1 and 2 -/

/-- Whether no started command is left but the POWER_STATE itself. -/
def commandsQuiet (s : State) (id : Nat) : Bool := s.started.all fun e => e.1 == id || e.2.timedOut

/-- Ports that the entry disables. -/
def portsEnabled (s : State) : List Nat := (s.ports.filter fun p => p.2.state != .disabled).map (·.1)

/-- Step 2: every enabled port drains. -/
def drainPorts (s : State) (e : PowerEntry) : State :=
  let on := portsEnabled s
  let s := on.foldl drainPort { s with pwr := { s.pwr with portsOn := on, entry := some { e with step := 2 } } }
  closeFinished s

/-- Whether no bond is open any more. -/
def bondsClosed (s : State) : Bool := s.bonds.all fun b => b.2.state != .live && b.2.state != .stale && b.2.state != .closing

/-- Step 1 done: B3 closes the bonds first. -/
def beginDrain (s : State) (e : PowerEntry) : State :=
  if e.target = 1 then sleepNow s e
  else if e.target = 3 then
    let s := (s.bonds.map (·.1)).foldl closeBond { s with pwr := { s.pwr with entry := some { e with step := 1 } } }
    closeFinished s
  else drainPorts s e

/-- The entry moved on as far as it can now; 10 ms without quiet end it NOT_QUIESCENT. (DEDUCED, log entry 42) -/
def sleepStep (s : State) : State :=
  match s.pwr.entry with
  | none => s
  | some e =>
    if e.step = 0 then
      if commandsQuiet s e.cmd then beginDrain s e
      else if s.time ≥ e.since + 10000 then
        finish { s with pwr := { s.pwr with entry := none } } e.cmd .rejected 0x01 0
      else s
    else if e.step = 1 then (if bondsClosed s then drainPorts s e else s)
    else if (portsEnabled s).isEmpty then sleepNow s e
    else s

/-! ## Wake events (R442) -/

/-- An entry abandoned by a wake event: the block is in B0, and the command completes with that. (DEDUCED, log entry 42) -/
def abandonEntry (s : State) (source : Nat) : State :=
  match s.pwr.entry with
  | none => s
  | some e =>
    let s := { s with pwr := { s.pwr with entry := none, last := 0, wakeSource := source } }
    finish s e.cmd .ok 0 (pack [(source, 16), (0, 0)])

/-- A wake event: an entry is abandoned; a sleeping block raises its rail; one that still lowers it keeps the event.
(DEDUCED, log entry 42) -/
def takeWake (s : State) (source : Nat) : State :=
  if s.pwr.entry.isSome then abandonEntry s source
  else if s.pwr.waking.isSome ∨ (s.pwr.current = 0 ∧ s.pwr.entering.isNone) then s
  else
    let s := { s with pwr := { s.pwr with waking := some source } }
    if s.pwr.entering.isSome then s else { s with pwr := { s.pwr with vidReq := some (vidCode s 0) } }

/-- The source number of a wake that no event source caused. -/
def noSource : Nat := 0x1FF

/-- Ports that an abandoned entry has disabled are enabled again. -/
def reenablePorts (s : State) : State :=
  if s.pwr.entry.isSome ∨ s.pwr.entering.isSome ∨ s.pwr.current ≠ 0 then s
  else
    let ready := s.pwr.portsOn.filter fun p => (getPort s p).state == .disabled
    let s := { s with pwr := { s.pwr with portsOn := s.pwr.portsOn.filter fun p => !ready.contains p } }
    ready.foldl enablePort s

end Sys2Proof.Machine
end

