-- ==== Sys2Proof/Machine/Poll.lean ====
section
/-! DEFINITION. Started commands that complete when something else has finished (the last column of Table 4.6). -/

namespace Sys2Proof.Machine

/-- Whether every queue of session `i` is empty, but for command `id` itself (SESSION_CLOSE). -/
def sessionIdle (s : State) (i id : Nat) : Bool :=
  (queuesOf s i).all fun q => (tget s.queues q).any fun x =>
    x.head == x.tail && x.fetched.isEmpty && (startedOf s q).all (· == id)

/-- Whether no started command of session `i` is left, but for `id` itself (SESSION_ABORT). (DEDUCED, log entry 10) -/
def sessionQuiet (s : State) (i id : Nat) : Bool := (queuesOf s i).all fun q => (startedOf s q).all (· == id)

/-- The last steps of R116, and the completion of the command that asked for them. A command on a queue of the session
itself writes its entry before that queue goes. -/
def endSession (s : State) (id i : Nat) (c : Started) : State :=
  let s := dieSession s i
  if c.session = i then tearSession (finish s id .ok 0 0) i else finish (tearSession s i) id .ok 0 0

/-- Whether command `c` is a bounce record whose accesses carry the requester ID of function `v`. -/
def recordOf (s : State) (v : Nat) (c : Started) : Bool :=
  match c.wait with
  | .bounce _ _ _ _ => recordFn s (sessionOf s c) == some v
  | _ => false

/-- Whether a VF has no started command and no record in progress left, but for `id` (R339). -/
def vfQuiet (s : State) (v id : Nat) : Bool :=
  s.started.all fun e =>
    e.1 == id || !(recordOf s v e.2) && (e.2.timedOut || !((tget s.sessions e.2.session).any fun x => x.fn == some v))

/-- Command `id` completed, if what it waits for has come about. -/
def resolve (s : State) (id : Nat) (c : Started) : Option State :=
  match c.wait with
  | .sessionClose i =>
    if (tget s.sessions i).isNone then some (finish s id .ok 0 0)
    else if sessionIdle s i id then some (endSession s id i c) else none
  | .sessionAbort i =>
    if (tget s.sessions i).isNone then some (finish s id .ok 0 0)
    else if sessionQuiet s i id then some (endSession s id i c) else none
  | .queueDestroy q =>
    if (tget s.queues q).isNone then some (finish s id .ok 0 0)
    else if (startedOf s q).all (· == id) then
      some (if c.queue = q then tearQueue (finish s id .ok 0 0) q else finish (tearQueue s q) id .ok 0 0)
    else none
  | .retire a => if (getAccord s a).state = .free then some (finish s id .ok 0 0) else none
  | .rung2 a => if (getAccord s a).state = .free then some (finish s id .ok 0 0) else none
  | .bondClose b =>
    let st := (getBond s b).state
    if st = .closed ∨ st = .free then some (finish s id .ok 0 0) else none
  | .streamClose n => if (getStream s (n / 256) (n % 256)).state = .closed then some (finish s id .ok 0 0) else none
  | .portUp p => if (getPort s p).state = .up then some (finish s id .ok 0 0) else none
  | .portAgain p =>
    if (getPort s p).state = .disabled then some (setWait (enablePort s p) id (.portUp p)) else none
  | .portDown p => if (getPort s p).state = .disabled then some (finish s id .ok 0 0) else none
  | .keyRetire i => if (getSlot s i).state = .empty then some (finish s id .ok 0 0) else none
  | .keyStage i blk =>
    let k := getSlot s i
    if k.state = .retiring ∨ k.shadow = .draining then none else some (stageDone s id i c blk)
  | .vfQuiesce v =>
    if (getVf s v).state ≠ .quiescing then some (finish s id .ok 0 0)
    else if vfQuiet s v id then some (finish (updVf s v fun x => { x with state := .quiesced }) id .ok 0 0) else none
  | .retry => retryCommand s id c
  | .watch => watchStep s id c
  | _ => none

/-- Whether a started command waits for session `i` to go. -/
def awaited (s : State) (i : Nat) : Bool :=
  s.started.any fun e => match e.2.wait with
    | .sessionAbort j => j == i
    | .sessionClose j => j == i
    | _ => false

/-- Sessions that a rung 0 or the end of a debug grant aborts, torn down when their started commands are gone (R116,
R379, R411). -/
def pollDying (s : State) : State :=
  (s.sessions.filter fun e => e.2.dying && !awaited s e.1 && (queuesOf s e.1).all fun q => (startedOf s q).isEmpty).foldl
    (fun s e =>
      let s := tearSession (dieSession s e.1) e.1
      { s with frs := { s.frs with active := s.frs.active.filter fun d => d != .rung0 e.1 } }) s

/-- One look at every started command, oldest first; then at sessions that go and at an entry into a B-state. -/
def pollOnce (s : State) : State :=
  reenablePorts (sleepStep (pollDying ((s.started.map (·.1)).foldl
    (fun s id => match tget s.started id with
      | some c => (resolve s id c).getD s
      | none => s) s)))

/-- Started commands completed as long as one completion lets another go on. (DESIGN CHOICE, log entry 6) -/
def poll (s : State) : State := (List.range (s.started.length + 1)).foldl (fun s _ => pollOnce s) s

end Sys2Proof.Machine
end

