-- ==== Sys2Proof/Machine/Bec.lean ====
section
/-! DEFINITION. The event controller's inputs, pending state and messages (R434 to R439). Every meaning ends in `settle`,
which brings the BEC up to date with the state the meaning left and touches nothing else. -/

namespace Sys2Proof.Machine

/-- A byte of the TRIMS section in force, or the ROM default (Table 17.5). -/
def trimByte (s : State) (i default : Nat) : Nat :=
  match s.cfg.trims with
  | some b => leField b i 1
  | none => default

/-- TEMP_WARN, TEMP_THROTTLE and TEMP_TRIP in force. -/
def tempLimit (s : State) (k : Nat) : Nat := trimByte s (12 + k) (95 + 10 * k)

/-- HUB_MGMT_STATUS.SESSION: a management session is established (15 R398). -/
def mgmtSession (s : State) : Bool :=
  match s.mgmt.sec with
  | .none => false
  | .exchanged => false
  | _ => true

/-- The input of a level source (Table 17.1). -/
def level (s : State) (n : Nat) : Bool :=
  match n with
  | 0 => !s.frs.entries.isEmpty
  | 1 => s.frs.entries.length ≥ 255
  | 2 => s.accords.any fun a => a.2.ownerEvents != 0
  | 4 => s.dbg.grant.isSome
  | 6 => s.entropyFail
  | 7 => mgmtSession s
  | 9 => !s.hpe.hotFifo.isEmpty
  | 10 => s.hpe.moveDone
  | 11 => s.pwr.temp ≥ tempLimit s 0
  | 12 => s.pwr.temp ≥ tempLimit s 1
  | 13 => s.pwr.temp ≥ tempLimit s 2
  | 14 => s.dbg.stop == .stopped || s.dbg.stop == .scanned
  | _ => false

/-- A number in or out of a set. -/
def mark (l : List Nat) (n : Nat) (b : Bool) : List Nat :=
  if b then (if l.contains n then l else l ++ [n]) else l.filter (· != n)

/-- One message of source `n` to its target: MSI-X (held for a VF that is not RUNNING, R339) or an In-Band Interrupt.
(DESIGN CHOICE, log entry 7; DESIGN CHOICE, log entry 60) -/
def sendEvent (s : State) (b : Bec) (n : Nat) (cfg : Word) : Bec :=
  let v := fld cfg 10 0
  if fld cfg 27 26 = 1 then
    if v / 32 ≠ 0 ∧ (getVf s (v / 32)).state ≠ .running then { b with msixPending := b.msixPending ++ [(v / 32, v % 32)] }
    else { b with msix := b.msix ++ [(v / 32, v % 32)] }
  else { b with ibis := b.ibis ++ [n] }

/-- The block sleeps or is on its way there. -/
def asleep (s : State) : Bool := s.pwr.current != 0 || s.pwr.entering.isSome || s.pwr.entry.isSome

/-- Source `n` sensed once. (DEDUCED, log entry 37) -/
def senseSource (s : State) (b : Bec) (n : Nat) (cfg : Word) : Bec :=
  let now := level s n
  let was := b.inputs.contains n
  let flash := b.pulses.contains n
  let rise := (now && !was) || flash
  let fall := (!now && was) || flash
  let sense := fld cfg 30 29
  let edge := bit cfg 31 && ((sense == 1 && rise) || (sense == 2 && fall) || (sense == 3 && (rise || fall)))
  let lev := bit cfg 31 && sense == 0 && (now || flash)
  let target := fld cfg 27 26
  let message := (target == 1 && !inDry s) || target == 2
  let b := { b with inputs := mark b.inputs n now }
  let b := if bit cfg 28 && (edge || lev) && asleep s then { b with latched := mark b.latched n true } else b
  let b := if edge then (if message then sendEvent s b n cfg else { b with edges := mark b.edges n true }) else b
  let b := if lev && message && !b.told.contains n then sendEvent s b n cfg else b
  { b with told := mark b.told n (now && (lev && message || b.told.contains n)) }

/-- Every configured source sensed; the pulses of this step are used up. (DEDUCED, log entry 37) -/
def senseAll (s : State) : Bec :=
  let b := s.bec.cfg.foldl (fun b e => senseSource s b e.1 e.2) s.bec
  { b with pulses := [] }

/-- The BEC brought up to date; nothing else changes. (DEDUCED, log entry 37) -/
def settle (s : State) : State := { s with bec := senseAll s }

/-- Started commands that can complete do, the fence unit applies its updates, and the BEC is brought up to date. -/
def settleAll (s : State) : State := settle (applyFences (poll s))

/-- Whether source `n` is pending (R436). -/
def pendingSource (s : State) (n : Nat) : Bool :=
  let cfg := tgetD s.bec.cfg n 0
  s.bec.edges.contains n || (bit cfg 31 && fld cfg 30 29 == 0 && level s n)

/-- PRIORITY of source `n`. -/
def priorityOf (s : State) (n : Nat) : Nat := fld (tgetD s.bec.cfg n 0) 25 18

/-- Rank of a priority: its top `RANK_BITS` bits (R437). -/
def rankOf (s : State) (p : Nat) : Nat := p / 2 ^ (8 - s.bec.rankBits)

/-- The pending hub source that R437 selects, whatever the stack holds. -/
def bestSource (s : State) : Option Nat :=
  (s.bec.cfg.filter fun e => fld e.2 27 26 == 0 && pendingSource s e.1).foldl
    (fun (b : Option Nat) e => match b with
      | none => some e.1
      | some x => if priorityOf s e.1 < priorityOf s x then some e.1 else b)
    none

/-- The selected source, if it interrupts now: the stack is empty, or its rank is below the top's (R437, R438). In dry-down the hub target
is not served (R439). (DESIGN CHOICE, log entry 60) -/
def selected (s : State) : Option Nat :=
  if s.bec.frozen ∨ !s.bec.enable ∨ inDry s then none
  else match bestSource s with
    | none => none
    | some n => match s.bec.stack with
      | [] => some n
      | t :: _ => if rankOf s (priorityOf s n) < rankOf s (priorityOf s t) then some n else none

end Sys2Proof.Machine
end

