-- ==== Sys2Proof/Machine/Commands.lean ====
section
/-! DEFINITION. Hub commands on sessions, queues, fences and references (opcodes 0x00 to 0x0F), the fetch of commands and
their timeout. Each opcode has an effect, applied when the command starts, and a meaning that starts it. -/

namespace Sys2Proof.Machine

/-- The oldest fetched command of queue `q` started as opcode `op`; then everything it lets finish. (DESIGN CHOICE, log
entry 6) -/
def runCommand (op q : Nat) (eff : Nat → Started → State → Eff) (s : State) : Host.Outcome State Fault Refusal :=
  .next (settleAll (startCommand op q eff s))

/-! ## NOP -/

/-- NOP: nothing. -/
def nopEff (_id : Nat) (_c : Started) (s : State) : Eff := .good s

/-- NOP (R100). -/
def execNop (q : Nat) (s : State) : Host.Outcome State Fault Refusal := runCommand 0x00 q nopEff s

/-! ## Sessions -/

/-- SESSION_OPEN (R97). (DEDUCED, log entry 10) -/
def sessionOpenEff (_id : Nat) (c : Started) (s : State) : Eff :=
  let x := sessionOf s c
  let named := if x.world = .root then worldOf (fld (wd c.words 8) 2 0) else some x.world
  match named with
  | none => .fail .badOperand s
  | some world =>
    let accord := if x.world = .root then fld (wd c.words 9) 9 0 else x.accord
    let side : Side := if bit (wd c.words 8) 8 then .device else .host
    let badAccord : Bool :=
      if world = .tenant then accord == 0 || (getAccord s accord).state != .live else accord != 0
    let fence : Except Status (Option Nat) :=
      if wd c.words 10 = 0 then .ok none
      else match checkHandle s c.session x (wd c.words 10) [.fence] with
        | .error e => .error e
        | .ok r => if (tget s.fences r.index).any (maySignal c.session) then .ok (some r.index) else .error .noAccess
    if badAccord then .fail .badOperand s
    else match fence with
      | .error e => .fail e s
      | .ok ff =>
        match freeIndex s .session, refRoom s c.session with
        | some i, true =>
          let n : Session := { world := world, accord := accord, side := side, faultFence := ff, fn := x.fn
                               creator := c.session }
          let s := { s with sessions := tset s.sessions i n }
          let r : ObjRef := { type := .session, index := i }
          match holdRef s c.session r with
          | .ok s => .result (handle s r) s
          | .error e => .fail e s
        | _, _ => .fail .limit s

/-- SESSION_OPEN. -/
def execSessionOpen (q : Nat) (s : State) : Host.Outcome State Fault Refusal := runCommand 0x01 q sessionOpenEff s

/-- SESSION_CLOSE: completes when the session's queues are empty. -/
def sessionCloseEff (_id : Nat) (c : Started) (s : State) : Eff :=
  match targetOf s c with
  | some r => .wait (.sessionClose r.index) s
  | none => .fail .staleHandle s

/-- SESSION_CLOSE. -/
def execSessionClose (q : Nat) (s : State) : Host.Outcome State Fault Refusal := runCommand 0x02 q sessionCloseEff s

/-- SESSION_ABORT (R116): its queues stop fetching at once. -/
def sessionAbortEff (_id : Nat) (c : Started) (s : State) : Eff :=
  match targetOf s c with
  | some r => .wait (.sessionAbort r.index) (haltSession s r.index)
  | none => .fail .staleHandle s

/-- SESSION_ABORT. -/
def execSessionAbort (q : Nat) (s : State) : Host.Outcome State Fault Refusal := runCommand 0x03 q sessionAbortEff s

/-! ## Queues -/

/-- Whether the rings of a queue of a session may lie in a space (R98). -/
def ringSpaceOk (x : Session) (sp : Nat) : Bool := (sp == 1 && x.fn.isSome) || (sp == 2 && x.world == .tenant)

/-- QUEUE_CREATE. -/
def queueCreateEff (_id : Nat) (c : Started) (s : State) : Eff :=
  match targetOf s c with
  | none => .fail .staleHandle s
  | some t =>
    let w := c.words
    let x := (tget s.sessions t.index).getD { world := .root }
    let sp := fld (wd w 10) 1 0
    let log2 := fld (wd w 10) 12 8
    let timeout := if wd w 13 = 0 then 10000 else (wd w 13).toNat
    let src := (wd w 14).toNat
    if !ringSpaceOk x sp ∨ log2 < 4 ∨ log2 > 16 ∨ timeout > 60000000 ∨ ¬ (256 ≤ src ∧ src ≤ 511) then
      .fail .badOperand s
    else match freeIndex s .queue, refRoom s c.session with
      | some i, true =>
        match addRef s t .device 1 with
        | none => .fail .refOverflow s
        | some s' =>
          let n : Queue := { session := t.index, space := if sp = 1 then .host else .accord, ring := wd2 w 8
                             cpl := wd2 w 11, log2 := log2, timeoutUs := timeout, src := src
                             creator := some c.session }
          let s' := { s' with queues := tset s'.queues i n }
          let r : ObjRef := { type := .queue, index := i }
          match holdRef s' c.session r with
          | .ok s' => .result (handle s' r) s'
          | .error e => .fail e s
      | _, _ => .fail .limit s

/-- QUEUE_CREATE. -/
def execQueueCreate (q : Nat) (s : State) : Host.Outcome State Fault Refusal := runCommand 0x04 q queueCreateEff s

/-- QUEUE_DESTROY (R101): the queue stops fetching and what it had fetched is discarded. -/
def queueDestroyEff (_id : Nat) (c : Started) (s : State) : Eff :=
  match targetOf s c with
  | some r =>
    let s := { s with queues := tupd s.queues r.index fun q => { q with noFetch := true } }
    .wait (.queueDestroy r.index) (discardFetched s r.index)
  | none => .fail .staleHandle s

/-- QUEUE_DESTROY. -/
def execQueueDestroy (q : Nat) (s : State) : Host.Outcome State Fault Refusal := runCommand 0x05 q queueDestroyEff s

/-- QUEUE_SET_TIMEOUT. -/
def queueSetTimeoutEff (_id : Nat) (c : Started) (s : State) : Eff :=
  match targetOf s c with
  | none => .fail .staleHandle s
  | some r =>
    let t := (wd c.words 8).toNat
    if t = 0 ∨ t > 60000000 then .fail .badOperand s
    else .good { s with queues := tupd s.queues r.index fun q => { q with timeoutUs := t } }

/-- QUEUE_SET_TIMEOUT. -/
def execQueueSetTimeout (q : Nat) (s : State) : Host.Outcome State Fault Refusal := runCommand 0x06 q queueSetTimeoutEff s

/-- QUEUE_RESTART (R101): a new head, below the ring size, and the queue leaves STOPPED. (DEDUCED, log entry 10) -/
def queueRestartEff (_id : Nat) (c : Started) (s : State) : Eff :=
  match targetOf s c with
  | none => .fail .staleHandle s
  | some r =>
    let x := sessionOf s c
    let head := fld (wd c.words 8) 15 0
    match tget s.queues r.index with
    | none => .fail .staleHandle s
    | some t =>
      if t.session ≠ c.session ∧ ¬ (x.world = .host ∧ x.fn = some 0) then .fail .noAccess s
      else if head ≥ 2 ^ t.log2 then .fail .badOperand s
      else .good { s with queues := tset s.queues r.index { t with stopped := false, head := head } }

/-- QUEUE_RESTART. -/
def execQueueRestart (q : Nat) (s : State) : Host.Outcome State Fault Refusal := runCommand 0x07 q queueRestartEff s

/-! ## Fences -/

/-- FENCE_CREATE (Table 4.8, R109). -/
def fenceCreateEff (_id : Nat) (c : Started) (s : State) : Eff :=
  let w := c.words
  let x := sessionOf s c
  let mirror := bit (wd w 10) 1
  let sp := spaceOf (fld (wd w 13) 1 0)
  let bad := if mirror then spaceCheck x sp (wd2 w 11).toNat 16 else none
  match bad with
  | some e => .fail e s
  | none =>
    match freeIndex s .fence, refRoom s c.session with
    | some i, true =>
      let f : Fence :=
        { value := wd2 w 8, multi := bit (wd w 10) 0, creator := c.session, accord := x.accord, signalers := [c.session]
          fn := (sessionFn x).getD 0
          mirror := if mirror then sp.map fun sp => (sp, wd2 w 11) else none }
      let s' := setFence s i f
      let r : ObjRef := { type := .fence, index := i }
      match holdRef s' c.session r with
      | .ok s' => .result (handle s' r) (writeMirror s' f)
      | .error e => .fail e s
    | _, _ => .fail .limit s

/-- FENCE_CREATE. -/
def execFenceCreate (q : Nat) (s : State) : Host.Outcome State Fault Refusal := runCommand 0x08 q fenceCreateEff s

/-- FENCE_SIGNAL (R111). -/
def fenceSignalEff (_id : Nat) (c : Started) (s : State) : Eff :=
  match targetOf s c with
  | none => .fail .staleHandle s
  | some r =>
    if !(tget s.fences r.index).any (maySignal c.session) then .fail .noAccess s
    else .good (fenceSignal s r.index (wd2 c.words 8) (bit (wd c.words 10) 0))

/-- FENCE_SIGNAL. -/
def execFenceSignal (q : Nat) (s : State) : Host.Outcome State Fault Refusal := runCommand 0x09 q fenceSignalEff s

/-- FENCE_ERROR (R107). -/
def fenceErrorEff (_id : Nat) (c : Started) (s : State) : Eff :=
  match targetOf s c with
  | none => .fail .staleHandle s
  | some r =>
    let code := (wd c.words 8).toNat
    if !(tget s.fences r.index).any (maySignal c.session) then .fail .noAccess s
    else if code < 0x80 ∨ code > 0xFF then .fail .badOperand s
    else .good (fenceError s r.index (BitVec.ofNat 8 code))

/-- FENCE_ERROR. -/
def execFenceError (q : Nat) (s : State) : Host.Outcome State Fault Refusal := runCommand 0x0A q fenceErrorEff s

/-- FENCE_QUERY (R109): the record written where the command says. -/
def fenceQueryEff (id : Nat) (c : Started) (s : State) : Eff :=
  match targetOf s c with
  | none => .fail .staleHandle s
  | some r =>
    let x := sessionOf s c
    let sp := spaceOf (fld (wd c.words 10) 1 0)
    match spaceCheck x sp (wd2 c.words 8).toNat 16, tget s.fences r.index, sp with
    | some e, _, _ => .fail e s
    | none, some f, some sp =>
      match writeSpace s x sp (wd2 c.words 8) (fenceRecord f) (.command id) with
      | (s, true) => .good s
      | (s, false) => .fail .badOperand s
    | _, _, _ => .fail .staleHandle s

/-- FENCE_QUERY. -/
def execFenceQuery (q : Nat) (s : State) : Host.Outcome State Fault Refusal := runCommand 0x0B q fenceQueryEff s

/-! ## References and rights -/

/-- OBJECT_REF (R112). -/
def objectRefEff (_id : Nat) (c : Started) (s : State) : Eff :=
  match targetOf s c with
  | none => .fail .staleHandle s
  | some r => match holdRef s c.session r with
    | .ok s => .good s
    | .error e => .fail e s

/-- OBJECT_REF. -/
def execObjectRef (q : Nat) (s : State) : Host.Outcome State Fault Refusal := runCommand 0x0C q objectRefEff s

/-- OBJECT_UNREF (R112). -/
def objectUnrefEff (_id : Nat) (c : Started) (s : State) : Eff :=
  match targetOf s c with
  | none => .fail .staleHandle s
  | some r => match dropRef s c.session r with
    | .ok s => .good s
    | .error e => .fail e s

/-- OBJECT_UNREF. -/
def execObjectUnref (q : Nat) (s : State) : Host.Outcome State Fault Refusal := runCommand 0x0D q objectUnrefEff s

/-- Whether rights may be shared with a grantee (Table 4.1, R94, R111). -/
def shareCheck (s : State) (i : Nat) (r : ObjRef) (g : Session) (rights : Nat) : Option Status :=
  if rights = 0 then some .badOperand
  else match r.type with
    | .fence => match tget s.fences r.index with
      | none => some .staleHandle
      | some f =>
        if rights ≥ 2 ∧ !f.multi then some .badOperand
        else if rights ≥ 2 ∧ !f.signalers.contains i then some .noAccess
        else if !holdsFence i f then some .noAccess
        else none
    | .region =>
      if rights ≠ 1 then some .badOperand else if g.accord ≠ objAccord s r then some .noAccess else none
    | .bond =>
      if rights ≠ 1 then some .badOperand
      else if g.world = .root ∨ g.world = .mgmt ∨ (g.world = .host ∧ g.fn = some 0) then none else some .noAccess
    | _ => some .badHandle

/-- A right noted on the object. -/
def grantRight (s : State) (r : ObjRef) (g rights : Nat) : State :=
  let add (l : List Nat) : List Nat := if l.contains g then l else l ++ [g]
  match r.type with
  | .fence => { s with fences := tupd s.fences r.index fun f =>
      { f with signalers := if rights ≥ 2 then add f.signalers else f.signalers
               waiters := if rights % 2 = 1 then add f.waiters else f.waiters } }
  | .region => { s with regions := tupd s.regions r.index fun f => { f with users := add f.users } }
  | .bond => { s with bonds := tupd s.bonds r.index fun f => { f with users := add f.users } }
  | _ => s

/-- OBJECT_SHARE (R111, Table 4.11). -/
def objectShareEff (_id : Nat) (c : Started) (s : State) : Eff :=
  match targetOf s c with
  | none => .fail .staleHandle s
  | some r =>
    match parseHandle s (wd c.words 8) [.session] with
    | .error e => .fail e s
    | .ok g =>
      let rights := fld (wd c.words 9) 1 0
      match shareCheck s c.session r ((tget s.sessions g.index).getD { world := .debug }) rights with
      | some e => .fail e s
      | none => match holdRef s g.index r with
        | .ok s => .good (grantRight s r g.index rights)
        | .error e => .fail e s

/-- OBJECT_SHARE. -/
def execObjectShare (q : Nat) (s : State) : Host.Outcome State Fault Refusal := runCommand 0x0E q objectShareEff s

/-- A core group attached to a session; the marks of R281 and R412 are cleared. -/
def attachCore (s : State) (cg session : Nat) : State :=
  updCore s cg fun k => { k with session := some session, lostChips := [], localMark := false }

/-- Whether a core group is bound, with VALID set, to an accord (R97, R115). -/
def coreBoundTo (s : State) (cg a : Nat) : Bool :=
  let e := (getCore s cg).entry
  bit e 31 && fld e 28 19 == a

/-- CORE_ATTACH (R97). -/
def coreAttachEff (_id : Nat) (c : Started) (s : State) : Eff :=
  match targetOf s c with
  | none => .fail .staleHandle s
  | some r =>
    let cg := fld (wd c.words 8) 7 0
    if coreBoundTo s cg (objAccord s r) then .good (attachCore s cg r.index) else .fail .noAccess s

/-- CORE_ATTACH. -/
def execCoreAttach (q : Nat) (s : State) : Host.Outcome State Fault Refusal := runCommand 0x0F q coreAttachEff s

/-! ## Fetch and timeout -/

/-- COMMAND_FETCH: queue `q` fetches the slot at its head. -/
def execCommandFetch (q : Nat) (s : State) : Host.Outcome State Fault Refusal := .next (settleAll (fetch s q))

/-- The default rung of a fault by the session's world (R410): rung 2 for a tenant, else rung 0. -/
def worldRung (x : Session) : Nat := if x.world = .tenant then 2 else 0

/-- Started command `id` completed by its timeout (R102): TIMEOUT, the queue stops whatever CONTINUE says, and HANG is
raised, naming the fence without attaching to it again (R408). Whether its effect still lands is a free value
(chapter 4, Cases left undefined): the command is kept, or forgotten. (DESIGN CHOICE, log entry 13) -/
def timeoutCommand (s : State) (id : Nat) (c : Started) : State :=
  let x := sessionOf s c
  let f := commandFault s 0x01 unitHub 0 id x.accord 0
  let f := { f with fenceCode := none, detail6 := BitVec.ofNat 32 (opOf c.words), rung := some (worldRung x) }
  let (s, lands) := drawNat s
  let s := finish s id .timeout 0 0
  let s := if lands % 2 = 1 then { s with started := tset s.started id { c with timedOut := true, refs := [] } } else s
  raise s f

end Sys2Proof.Machine
end

