-- ==== Sys2Proof/Machine/Resources.lean ====
section
/-! DEFINITION. Resources changing hands (R44, R55 to R59): drain, erase, scrub and bind of channels, ports and core
groups. -/

namespace Sys2Proof.Machine

/-- Whether the instance that a resource belongs to is in service (R39). -/
def unitInService (s : State) (k : ResKind) (i : Nat) : Bool :=
  match k with
  | .channel => bit s.unitOk0 (i / 32)
  | .port => bit s.unitOk0 (8 + i / 4)
  | .coreGroup => bit s.unitOk0 (16 + i / 16)

/-- How many resources of a kind the chip has. -/
def resCount : ResKind → Nat
  | .channel => 256 | .port => 32 | .coreGroup => 256

/-- Resource `i` changed by `f`. -/
def updRes (s : State) (k : ResKind) (i : Nat) (f : Res → Res) : State := setRes s k i (f (getRes s k i))

/-- First data brick of channel `c` of a stack, and the brick after its last. -/
def channelRange (c : Nat) : Nat × Nat := (c * channelBricks, (c + 1) * channelBricks)

/-- A pinned range without the MiBs that touch a brick range. -/
def cutPin (p : Pin) (lo hi : Nat) : List Pin :=
  let first := lo / 256
  let after := (hi + 255) / 256
  (if p.base < first then [{ p with len := Nat.min p.len (first - p.base) }] else [])
    ++ (if p.base + p.len > after
        then [{ p with base := Nat.max p.base after, len := p.base + p.len - Nat.max p.base after }] else [])

/-- The pins of accord `a` in channel `i` released (Table 2.6). -/
def releasePins (s : State) (i a : Nat) : State :=
  let (lo, hi) := channelRange (i % 32)
  updAccord s a fun x => { x with pins := x.pins.flatMap fun p => if p.stack = i / 32 then cutPin p lo hi else [p] }

/-- Streams of accord `a` on port `i` that are not CLOSED. -/
def portStreams (s : State) (i a : Nat) : List (Nat × Nat) := streamsWhere s fun p x => p == i && x.accord == a

/-- DRAIN of the streams of accord `a` on port `i`: open ones drain; one that is still OPENING drains when its answer comes. -/
def drainPortStreams (s : State) (i a : Nat) : State :=
  (portStreams s i a).foldl (fun s pe => drainStream s pe.1 pe.2 true) s

/-- DRAIN of a resource (Table 2.6). (DEDUCED, log entry 15) -/
def startDrain (s : State) (k : ResKind) (i : Nat) : State :=
  let owners := (getRes s k i).owners
  let s := updRes s k i fun r => { r with state := .drain, scrub := none }
  match k with
  | .channel =>
    let s := markAccepted s (i / 32) fun b => chanOf b == i % 32
    owners.foldl (fun s a => releasePins s i a) s
  | .port =>
    owners.foldl (fun s a => drainPortStreams s i a) s
  | .coreGroup => updCore s i fun c => { c with entry := (c.entry &&& 0x7FFFFFFF) ||| 0x00008000, session := none }

/-- The bind step of a resource for accord `a` (Table 2.6). `info` is the entry of a core group, or bit 0 for an
exclusive port. A SCRUB that has not ended starts again from brick zero (Table 2.7). -/
def bindNow (s : State) (k : ResKind) (i a : Nat) (info : Word) : State :=
  let s := updRes s k i fun r =>
    { r with state := .bound, pending := none, scrub := r.scrub.map fun _ => 0
             owners := if k = .port ∧ r.state = .bound then r.owners ++ [a] else [a]
             exclusive := k ≠ .port || bit info 0 }
  match k with
  | .coreGroup =>
    let e : Word := pack [(1, 31), (fld info 30 29, 29), (a, 19), (fld info 18 16, 16), (fld info 14 14, 14)]
    updCore s i fun c => { c with entry := e }
  | _ => s

/-- A resource bound now when it is FREE, or queued for accord `a` while it is leaving (R58). (DEDUCED, log entry 15) -/
def bindOrQueue (s : State) (k : ResKind) (i a : Nat) (info : Word) (cmd : Option Nat) : State :=
  let r := getRes s k i
  if r.state = .drain ∨ r.state = .erase
  then updRes s k i fun r => { r with pending := some { accord := a, cmd := cmd, info := info } }
  else bindNow s k i a info

/-- Data bricks overwritten with zeros, as they stand in the stack. -/
def zeroBrick (s : State) (n b : Nat) : State := hbmWrite s n (dataAddr b 0) (zeros 4096)

/-- The metadata lines of brick `b` as the MPE holds them right after it rebuilt them. -/
def rebuiltLines (s : State) (n b : Nat) : Supplied :=
  [0, 1, 2].map fun lv => (levelPart lv, storedNode s n lv (courseOf b / 8 ^ lv), 0)

/-- The course line of brick `b` brought in for the block's own work, and the lookup counted; one that fails is rebuilt as LOST
first (R206). -/
def ensureCourse (s : State) (n b : Nat) : State :=
  let m := getMpe s n
  match loadCourse s n b [] with
  | (s, .ok) => countLookup s n b m
  | (s, l) =>
    let s := loadFault (countLookup s n b m) n l
    (loadCourse s n b (rebuiltLines s n b)).1

/-- One record as ERASE leaves it (Table 2.6): MAJOR and FROZEN stay. -/
def erasedRec (r : Rec) : Rec := { major := r.major, frozen := r.frozen, cls := .c, owner := 0, epoch := 0 }

/-- ERASE of one brick: a class S brick that holds data is overwritten, and the record is cleared. -/
def eraseBrick (s : State) (n b : Nat) : State :=
  let s := ensureCourse s n b
  let r := heldRec (getMpe s n) b
  let s := if r.init ∧ r.cls = .s then zeroBrick s n b else s
  putRec s n b (erasedRec r)

/-- ERASE of a channel (Table 2.6). -/
def eraseChannel (s : State) (i : Nat) : State :=
  (List.range channelBricks).foldl (fun s k => eraseBrick s (i / 32) (i % 32 * channelBricks + k)) s

/-- Region table entries of stack `n` that touch channel `i` of accord `a`. -/
def regionsInChannel (s : State) (i a : Nat) : List Nat :=
  let (lo, hi) := channelRange (i % 32)
  ((getMpe s (i / 32)).rt.filter fun e => e.2.owner == a && e.2.base < hi && lo ≤ e.2.limit).map (·.1)

/-- What ERASE does to a resource of each kind (Table 2.6), at its end. (DEDUCED, log entry 15) -/
def eraseResource (s : State) (k : ResKind) (i : Nat) : State :=
  let owners := (getRes s k i).owners
  match k with
  | .channel =>
    let s := eraseChannel s i
    let gone := owners.flatMap (regionsInChannel s i)
    updMpe s (i / 32) fun m => { m with rt := m.rt.filter fun e => !gone.contains e.1 }
  | .port => owners.foldl (fun s a => (portStreams s i a).foldl (fun s pe => closeEntry s pe.1 pe.2) s) s
  | .coreGroup => updCore s i fun c => { c with entry := 0, stores := [], doorbells := [], pool := none, session := none }

/-- The DREF that a CARVE pool holds on its region, released (R115). -/
def clearPool (s : State) (cg : Nat) : State :=
  match (getCore s cg).pool with
  | none => s
  | some p => subRef (updCore s cg fun c => { c with pool := none }) { type := .region, index := p.region } .device 1

/-- Whether requests that core group `cg` has sent are still to be answered. -/
def coreBusy (s : State) (cg : Nat) : Bool :=
  let mine (r : Req) : Bool := issuer r == cg
  s.mpes.any (fun e => (mpeReqs e.2).any mine) || s.ports.any (fun e => (portReqs e.2).any mine) || s.hpe.pages.any mine
    || s.otus.any fun e => e.2.ingress.any mine || e.2.misses.any fun m => m.2.waiting.any mine

/-- Whether DRAIN of a resource is over: a channel's admitted accesses are done, a port's streams are closed, a core group's
requests are answered. (DEDUCED, log entry 15) -/
def drainOver (s : State) (k : ResKind) (i : Nat) : Bool :=
  match k with
  | .channel =>
    let m := getMpe s (i / 32)
    let here (b : Nat) : Bool := chanOf b == i % 32
    !acceptedIn m here
  | .port => (getRes s k i).owners.all fun a => (portStreams s i a).isEmpty
  | .coreGroup => !coreBusy s i

/-- ERASE begins: entries of a channel's bricks leave the coalescing store (Table 8.6), or a core group's clear request
is raised. (DEDUCED, log entry 15) -/
def startErase (s : State) (k : ResKind) (i : Nat) : State :=
  let s := updRes s k i fun r => { r with state := .erase }
  match k with
  | .channel => invalidateStore s (i / 32) fun x _ => chanOf (x / 16) == i % 32
  | .port => s
  | .coreGroup => updCore (clearPool s i) i fun c => { c with clearReq := true }

/-- Started commands that wait for the unbind of a resource, but for one that is queued behind a bind. -/
def unbindWaiters (s : State) (k : ResKind) (i : Nat) : List Nat :=
  let later := (getRes s k i).unbindNext.bind id
  (s.started.filter fun e => match e.2.wait with
    | .unbind k' i' => k' == k && i' == i && later != some e.1
    | _ => false).map (·.1)

/-- Whether a channel still lies under a region of its owner, or of the accord whose bind is queued (R46). -/
def channelInUse (s : State) (i : Nat) : Bool :=
  let r := getRes s .channel i
  (r.owners ++ (r.pending.map (·.accord)).toList).any fun a => !(regionsInChannel s i a).isEmpty

/-- The end of ERASE: the resource is FREE or goes to its queued owner, and the unbinds that waited complete. (DEDUCED,
log entry 15) -/
def endErase (s : State) (k : ResKind) (i : Nat) : State :=
  let s := eraseResource s k i
  let waiters := unbindWaiters s k i
  let r := getRes s k i
  let s := updRes s k i fun r =>
    { r with state := .free, owners := [], exclusive := false, scrub := if k = .channel then some 0 else none }
  let s := waiters.foldl (fun s id => finish s id .ok 0 0) s
  match r.pending with
  | none => s
  | some p =>
    let s := bindNow s k i p.accord p.info
    let s := finishOpt s p.cmd .ok 0 0
    match r.unbindNext with
    | none => s
    | some cmd =>
      let s := updRes s k i fun r => { r with unbindNext := none }
      -- the rule on regions holds for the queued unbind too (R46)
      if k = .channel ∧ channelInUse s i then finishOpt s cmd .rejected 0x14 0 else startDrain s k i

/-- A queued bind of accord `a` given up (Table 2.7): it ends ABORTED, and so does an unbind queued behind it. -/
def abortPending (s : State) (k : ResKind) (i : Nat) : State :=
  let r := getRes s k i
  match r.pending with
  | none => s
  | some p =>
    let s := updRes s k i fun r => { r with pending := none, unbindNext := none }
    let s := finishOpt s p.cmd .aborted 0 0
    finishOpt s (r.unbindNext.bind id) .aborted 0 0

/-- ACCORD_BIND (R58, Table 2.7). It names no QOS, OTU, DOORBELL or EXCLUSIVE: the model binds a core group BEST_EFFORT at OTU 0
without doorbells and a port exclusively (DESIGN CHOICE, log entry 78). Statuses that no rule names: log entry 79. -/
def accordBindEff (id : Nat) (c : Started) (s : State) : Eff :=
  let a := fld (wd c.words 9) 9 0
  match resSel (wd c.words 8) with
  | none => .fail .badOperand s
  | some (k, i) =>
    if a = 0 ∨ (getAccord s a).state ≠ .live then .fail .badOperand s
    else if !unitInService s k i then .reject 0x12 s
    else
      let r := getRes s k i
      let info : Word := 1
      match r.state with
      | .free => .good (bindNow s k i a (if k = .port then info else 0))
      | .bound => .fail .resourceBusy s
      | _ =>
        if r.pending.isSome then .fail .resourceBusy s
        else .wait (.bind k i) (bindOrQueue s k i a (if k = .port then info else 0) (some id))

/-- ACCORD_UNBIND (R46, Table 2.7). Of a FREE resource it is BAD_OPERAND, of one in DRAIN or ERASE without a queued bind, or behind
another queued unbind, RESOURCE_BUSY (DESIGN CHOICE, log entry 79). -/
def accordUnbindEff (id : Nat) (c : Started) (s : State) : Eff :=
  match resSel (wd c.words 8) with
  | none => .fail .badOperand s
  | some (k, i) =>
    let r := getRes s k i
    match r.state with
    | .free => .fail .badOperand s
    | .bound =>
      if k = .channel ∧ channelInUse s i then .reject 0x14 s
      else .wait (.unbind k i) (startDrain s k i)
    | _ =>
      if k = .channel ∧ r.pending.isSome ∧ r.unbindNext.isNone ∧ channelInUse s i then .reject 0x14 s
      else if r.pending.isSome ∧ r.unbindNext.isNone
      then .wait (.unbind k i) (updRes s k i fun r => { r with unbindNext := some (some id) })
      else .fail .resourceBusy s

/-- ACCORD_BIND. -/
def execAccordBind (q : Nat) (s : State) : Host.Outcome State Fault Refusal := runCommand 0x11 q accordBindEff s

/-- ACCORD_UNBIND. -/
def execAccordUnbind (q : Nat) (s : State) : Host.Outcome State Fault Refusal := runCommand 0x12 q accordUnbindEff s

/-- SCRUB_STEP: the next brick of a channel in SCRUB is overwritten with zeros when its INIT is clear (Table 2.6). -/
def scrubStep (s : State) (i : Nat) : State :=
  match (getRes s .channel i).scrub with
  | none => s
  | some k =>
    let n := i / 32
    let b := i % 32 * channelBricks + k
    let s := ensureCourse s n b
    let s := if (heldRec (getMpe s n) b).init then s else zeroBrick s n b
    updRes s .channel i fun r => { r with scrub := if k + 1 < channelBricks then some (k + 1) else none }

/-- SCRUB_STEP. -/
def execScrubStep (chan : Nat) (s : State) : Host.Outcome State Fault Refusal :=
  if live s then .next (settle (scrubStep s chan)) else .next s

/-- HANDOVER_DRAIN_COMPLETE: a resource in DRAIN that has nothing left passes to ERASE. -/
def execHandoverDrainComplete (k : ResKind) (i : Nat) (s : State) : Host.Outcome State Fault Refusal :=
  if running s ∧ (getRes s k i).state = .drain ∧ drainOver s k i then .next (settleAll (startErase s k i)) else .next s

/-- ST_CG_CLEAR_ACK: the compute die has cleared a core group (R57); without a request it is ignored. -/
def execStCgClearAck (cg : Nat) (s : State) : Host.Outcome State Fault Refusal :=
  if running s ∧ (getCore s cg).clearReq then .next (settle (updCore s cg fun c => { c with clearReq := false }))
  else .next s

end Sys2Proof.Machine
end

