-- ==== Sys2Proof/Machine/ImageParse.lean ====
section
/-! DEFINITION. Accord images read and checked without regard to the chip's state: phase 1 of R81 (R73 to R80, R137). -/

namespace Sys2Proof.Machine

/-- One record of an image: word offset, type, version and words, header included. -/
structure ImgRec where
  off : Nat
  type : Nat
  version : Nat
  words : List Word
deriving DecidableEq, Repr

/-- Rejection codes of Table 3.4. -/
def imgTooLarge : Nat := 0x01
/-- MALFORMED. -/
def imgMalformed : Nat := 0x02
/-- WRONG_CHIP. -/
def imgWrongChip : Nat := 0x03
/-- ORDER. -/
def imgOrder : Nat := 0x04
/-- VERSION_UNSUPPORTED. -/
def imgVersion : Nat := 0x05
/-- UNKNOWN_RECORD. -/
def imgUnknown : Nat := 0x06
/-- RESERVED_NONZERO. -/
def imgReserved : Nat := 0x07
/-- COMPOSER_SIG_BAD. -/
def imgComposer : Nat := 0x08
/-- TENANT_SIG_BAD. -/
def imgTenant : Nat := 0x09
/-- KEY_CHECK_FAILED. -/
def imgKeyCheck : Nat := 0x0A
/-- LIFE_CYCLE. -/
def imgLifeCycle : Nat := 0x0B
/-- GID_INVALID. -/
def imgGidInvalid : Nat := 0x0C
/-- GID_IN_USE. -/
def imgGidInUse : Nat := 0x0D
/-- NO_INDEX. -/
def imgNoIndex : Nat := 0x0E
/-- SEQUENCE_MISMATCH. -/
def imgSequence : Nat := 0x0F
/-- DELTA_FORBIDDEN. -/
def imgDelta : Nat := 0x10
/-- ACCORD_BUSY. -/
def imgBusy : Nat := 0x11
/-- UNIT_OUT_OF_SERVICE. -/
def imgUnit : Nat := 0x12
/-- RESOURCE_BUSY. -/
def imgResource : Nat := 0x13
/-- REGION_OUTSIDE_CHANNELS. -/
def imgOutside : Nat := 0x14
/-- REGION_OVERLAP. -/
def imgOverlap : Nat := 0x15
/-- REGION_TABLE_FULL. -/
def imgTableFull : Nat := 0x16
/-- CLASS_NOT_ALLOWED. -/
def imgClass : Nat := 0x17
/-- SCHEDULE_INVALID. -/
def imgSchedule : Nat := 0x18
/-- SLOT_CONFLICT. -/
def imgSlots : Nat := 0x19
/-- PIN_EXCEEDED. -/
def imgPin : Nat := 0x1A
/-- HOT_SET_FULL. -/
def imgHotSet : Nat := 0x1B
/-- ADMISSION_EXCEEDED. -/
def imgAdmission : Nat := 0x1C
/-- TRANSLATION_INVALID. -/
def imgTranslation : Nat := 0x1D

/-- DETAIL of a rejected image: word offset and code (Table 4.5). -/
def imgDetail (off code : Nat) : Word := pack [(off % 2 ^ 24, 8), (code, 0)]

/-- The record types of Table 3.2. -/
def knownTypes : List Nat :=
  [0x801, 0x010, 0x020, 0x030, 0x040, 0x7F0, 0x810, 0x820, 0x830, 0x838, 0x840, 0x850, 0x858, 0x860, 0x870, 0x880, 0xFF0]

/-- Unknown types that are skipped (R77). -/
def skippable (t : Nat) : Bool := (0x700 ≤ t && t ≤ 0x7EF) || (0xF00 ≤ t && t ≤ 0xFEF)

/-- Types a delta may hold besides its header and signature (Table 3.2, R84). -/
def deltaAllowed (t : Nat) : Bool :=
  t == 0x801 || t == 0xFF0 || (t > 0x801 && t ≤ 0xFEF && t != 0x880)

/-- Place of a type in the order of R75: group, then type. -/
def typeRank (t : Nat) : Nat :=
  if t = 0x801 then 0 else if t = 0x7F0 then 0x2000 else if t = 0xFF0 then 0x8000
  else if t ≤ 0x7EF then 0x1000 + t else 0x4000 + t

/-- Whether LENGTH is right for a record of this type (Table 3.2, with the counts of Table 3.3). -/
def lengthOk (t : Nat) (w : List Word) : Bool :=
  let n := w.length
  match t with
  | 0x801 => n == 6
  | 0x010 => n == 4
  | 0x020 => n == 513
  | 0x030 => n == 4
  | 0x040 => n ≥ 2 && n == 2 + fld (wd w 1) 7 0 && n ≤ 18
  | 0x7F0 => n == 853
  | 0x810 => n == 9
  | 0x820 => 2 ≤ n && n ≤ 257
  | 0x830 => n == 4
  | 0x838 => n ≥ 2 && n == 2 + fld (wd w 1) 15 0 && n ≤ 1025
  | 0x840 => n ≥ 5 && n == 5 + fld (wd w 4) 7 0 && n ≤ 21
  | 0x850 => n == 3
  | 0x858 => n == 10
  | 0x860 => n == 3
  | 0x870 => n == 4
  | 0x880 => n == 427
  | 0xFF0 => n == 854
  | _ => true

/-- The key field that orders records of one type (Table 3.2). -/
def keyField (r : ImgRec) : Nat :=
  match r.type with
  | 0x840 => fld (wd r.words 1) 31 16
  | 0x850 => fld (wd r.words 2) 2 0
  | 0x858 => fld (wd r.words 1) 2 0
  | 0x860 => fld (wd r.words 1) 2 0 * 65536 + fld (wd r.words 1) 31 16
  | 0x870 => fld (wd r.words 1) 3 0
  | _ => 0

/-- Whether two records of one type with equal keys may stand together (R75). -/
def mayRepeat (t : Nat) : Bool := t == 0x840 || t == 0x860 || !knownTypes.contains t

/-- The record walk of step 3 from word offset `off`: lengths, order and multiplicity. A record that a delta may not hold ends the
walk with DELTA_FORBIDDEN; no rule gives the step of that check (DESIGN CHOICE, log entry 80). -/
def walkFrom (fuel : Nat) (delta : Bool) (words : List Word) (off : Nat) (prev : Option ImgRec) (acc : List ImgRec) :
    Except (Nat × Nat) (List ImgRec) :=
  match fuel with
  | 0 => .error (imgMalformed, off)
  | fuel + 1 =>
    match words with
    | [] => .ok acc.reverse
    | h :: _ =>
      let t := fld h 31 20
      let len := fld h 15 0
      let r : ImgRec := { off := off, type := t, version := fld h 19 16, words := words.take len }
      if len = 0 ∨ len > words.length ∨ !lengthOk t r.words then .error (imgMalformed, off)
      else if delta && !deltaAllowed t then .error (imgDelta, off)
      else
        let bad : Bool := match prev with
          | none => t != 0x801
          | some p =>
            typeRank t < typeRank p.type
              || (t == p.type && (keyField r < keyField p || (keyField r == keyField p && !mayRepeat t)))
        if bad then .error (imgOrder, off)
        else walkFrom fuel delta (words.drop len) (off + len) (some r) (r :: acc)

/-- The records that an image must hold. -/
def required (delta : Bool) : List Nat :=
  if delta then [0x801, 0xFF0] else [0x801, 0x010, 0x020, 0x030, 0x040, 0x7F0, 0x810, 0x880, 0xFF0]

/-- Step 3 whole: the walk, then required records; a missing one is reported where it would stand. -/
def walk (delta : Bool) (words : List Word) : Except (Nat × Nat) (List ImgRec) :=
  match walkFrom (words.length + 1) delta words 0 none [] with
  | .error e => .error e
  | .ok rs =>
    match (required delta).find? fun t => !rs.any fun r => r.type == t with
    | none => .ok rs
    | some t =>
      .error (imgMalformed, ((rs.find? fun r => typeRank r.type > typeRank t).map (·.off)).getD words.length)

/-- Bits of a known record that Table 3.3 leaves reserved. -/
def reservedBits (r : ImgRec) : Bool :=
  let w := r.words
  let set (i hi lo : Nat) : Bool := fld (wd w i) hi lo != 0
  let odd (from_ : Nat) (f : Word → Bool) : Bool := (w.drop from_).any f
  let padding (bytes start : Nat) : Bool := (bslice (bytesOf (w.drop start)) bytes 3).any (· != 0)
  match r.type with
  | 0x801 => set 2 27 16
  | 0x010 => set 2 29 11 || wd w 3 != 0
  | 0x030 => set 2 23 0 || wd w 3 != 0
  | 0x040 => set 1 31 11
  | 0x7F0 => padding 3309 25
  | 0x820 => odd 1 fun x => fld x 17 0 != 0
  | 0x830 => wd w 3 != 0
  | 0x838 => set 1 31 16 || odd 2 fun x => fld x 31 16 != 0
  | 0x840 => set 1 9 8 || set 2 31 24 || set 3 31 24 || set 4 31 8
  | 0x850 => set 2 15 3
  | 0x858 => set 1 31 6 || set 1 3 3
  | 0x860 => set 1 15 3 || set 2 31 16
  | 0x870 => set 1 31 4 || set 3 31 8
  | 0xFF0 => set 1 31 3 || padding 3309 26
  | _ => false

/-- Fields outside what Table 3.3 allows that no later step reports: a core group named twice, EXCLUSIVE outside BOUND. -/
def fieldsBad (r : ImgRec) : Bool :=
  match r.type with
  | 0x820 =>
    let cgs := (r.words.drop 1).map fun x => fld x 31 24
    cgs.eraseDups.length != cgs.length
  | 0x830 => (wd r.words 2 &&& ~~~(wd r.words 1)) != 0
  | _ => false

/-- Step 4 for one record: version, type and reserved bits (R77), and the fields above. A KDF_GEN other than 0x01 is reported as
VERSION_UNSUPPORTED; no rule gives its treatment (DESIGN CHOICE, log entry 81). -/
def checkRecord (gid : Word) (r : ImgRec) : Option Nat :=
  if r.version ≠ 1 then some imgVersion
  else if !knownTypes.contains r.type then (if skippable r.type then none else some imgUnknown)
  else if reservedBits r then some imgReserved
  else if r.type = 0x030 ∧ fld (wd r.words 2) 31 24 ≠ 1 then some imgVersion
  else if fieldsBad r then some imgMalformed
  else if r.type = 0x010 ∧ wd r.words 1 ≠ gid then some imgGidInvalid
  else none

/-- The first record that step 4 refuses. -/
def checkRecords (gid : Word) (rs : List ImgRec) : Option (Nat × Nat) :=
  rs.foldl (fun (e : Option (Nat × Nat)) r => if e.isSome then e else (checkRecord gid r).map fun c => (c, r.off)) none

/-- Bytes of the records that `f` selects, in image order. -/
def recordBytes (rs : List ImgRec) (f : Nat → Bool) : Bytes := (rs.filter fun r => f r.type).flatMap fun r => bytesOf r.words

/-- The measurement M (R78). -/
def measureM (rs : List ImgRec) : BitVec 384 := sha384W (recordBytes rs fun t => 0x001 ≤ t && t ≤ 0x7EF)
/-- The chip digest D (R78). -/
def measureD (rs : List ImgRec) : BitVec 384 :=
  sha384W (recordBytes rs fun t => t == 0x801 || (0x802 ≤ t && t ≤ 0xFEF))

/-- The first record of a type. -/
def recOfType (rs : List ImgRec) (t : Nat) : Option ImgRec := rs.find? fun r => r.type == t
/-- Its words, or none. -/
def recWords (rs : List ImgRec) (t : Nat) : List Word := ((recOfType rs t).map (·.words)).getD []
/-- Its offset. -/
def recOff (rs : List ImgRec) (t : Nat) : Nat := ((recOfType rs t).map (·.off)).getD 0

/-- Entry `k` of the composer trust list: P-384 key (96 B) and ML-DSA-65 key (1,952 B); an empty entry is all zero.
(PRESUMED, log entry 45) -/
def trustEntry (s : State) (k : Nat) : Option (Bytes × Bytes) :=
  match s.cfg.trust with
  | none => none
  | some b =>
    let e := bslice b (2048 * k) 2048
    if e.all (· == 0) then none else some (e.take 96, e.drop 96)

/-- Both parts of a signature over a message (R79). -/
def dualVerify (ec mldsa msg ecSig mldsaSig : Bytes) : Bool :=
  Config.ecdsaVerify ec msg ecSig && Config.mldsaVerify mldsa msg mldsaSig

/-- Step 5: the composer signature. -/
def composerOk (s : State) (rs : List ImgRec) (image : List Word) : Bool :=
  let w := recWords rs 0xFF0
  let off := recOff rs 0xFF0
  let b := bytesOf w
  match trustEntry s (fld (wd w 1) 2 0) with
  | none => false
  | some (ec, ml) =>
    let msg := ascii "BLNL-IMG-COMPOSR" ++ sha384 (bytesOf (image.take off))
    dualVerify ec ml msg (bslice b 8 96) (bslice b 104 3309)

/-- Step 6: the tenant signature. -/
def tenantOk (rs : List ImgRec) : Bool :=
  let k := bytesOf (recWords rs 0x020)
  let b := bytesOf (recWords rs 0x7F0)
  let msg := ascii "BLNL-IMG-TENANT" ++ [0] ++ toBE (measureM rs).toNat 48
  dualVerify (bslice k 4 96) (bslice k 100 1952) msg (bslice b 4 96) (bslice b 100 3309)

/-- Step 7: the tenant secret imported and the heart notes derived (R137, R120); none is KEY_CHECK_FAILED. -/
def importSecret (s : State) (gid : Word) (rs : List ImgRec) : Option (Bytes × Bytes) :=
  let b := bytesOf (recWords rs 0x880)
  let pk := bslice b 4 96
  let ct := bslice b 100 1568
  let wrapped := bslice b 1668 40
  match Config.ecdhX (getSlot s 8).key pk with
  | none => none
  | some sse =>
    let ssk := Config.kemDecaps (getSlot s 9).key ct
    let label (p : Nat) : Bytes := labelBytes { purpose := p, stack := 0xFF, cls := 0xFF, gid := gid }
    let kimp := kdf ssk (label 0x03) ((sha384 (sse ++ pk ++ ct)).take 32) 256
    match kwUnwrap kimp wrapped with
    | none => none
    | some st =>
      if kcv st ≠ wd (recWords rs 0x030) 1 then none
      else some (kdf (getSlot s 2).key (label 0x01) st 256, kdf st (label 0x02) (zeros 32) 256)

/-- What phase 1 found in a good image: M, D and, in a full image, the heart notes. -/
structure Checked where
  m : BitVec 384
  d : BitVec 384
  hearts : Bytes × Bytes := ([], [])

/-- Whether an image is a delta. -/
def isDelta (image : List Word) : Bool := fld (wd image 2) 31 28 == 2

/-- Phase 1 of R81 over the image the hub has read; `total` is its TOTAL_WORDS. -/
def phase1 (s : State) (image : List Word) : Except (Nat × Nat) Checked :=
  let total := (wd image 5).toNat
  if total > 262144 then .error (imgTooLarge, 0)
  else if total < 6 then .error (imgMalformed, 0)
  else
    let kind := fld (wd image 2) 31 28
    let gid := wd image 3
    if wd image 1 ≠ 0x494E4C42 ∨ (kind ≠ 1 ∧ kind ≠ 2) ∨ image.length ≠ total then .error (imgMalformed, 0)
    else if fld (wd image 2) 15 0 ≠ s.chipId then .error (imgWrongChip, 0)
    else if gid.toNat < 0x100 ∨ gid = 0xFFFFFFFF then .error (imgGidInvalid, 0)
    else if kind = 1 ∧ wd image 4 ≠ 0 then .error (imgMalformed, 0)
    else
      let delta : Bool := kind == 2
      match walk delta image with
      | .error e => .error e
      | .ok rs =>
        match checkRecords gid rs with
        | some e => .error e
        | none =>
          if !composerOk s rs image then .error (imgComposer, recOff rs 0xFF0)
          else if delta then .ok { m := measureM rs, d := measureD rs }
          else if !tenantOk rs then .error (imgTenant, recOff rs 0x7F0)
          else match importSecret s gid rs with
            | none => .error (imgKeyCheck, recOff rs 0x880)
            | some h => .ok { m := measureM rs, d := measureD rs, hearts := h }

/-- The records of an image that passed phase 1. -/
def recordsOf (image : List Word) : List ImgRec :=
  match walk (isDelta image) image with
  | .ok rs => rs
  | .error _ => []

/-- Life-cycle states PILOT and FIELD (Table 5.4, Table 14.1). -/
def imageState (s : State) : Bool := (s.lcc.state == 6 || s.lcc.state == 7) && !s.lcc.clearing

/-- IMAGE_LOAD: the life-cycle state first, then the image is read once and phase 1 runs (R80, R81). Image bytes that cannot be read
count as zeros in the header and as missing after it, so that the image is MALFORMED (DESIGN CHOICE, log entry 82). -/
def imageLoadEff (_id : Nat) (c : Started) (s : State) : Eff :=
  let x := sessionOf s c
  let sp := spaceOf (fld (wd c.words 10) 1 0)
  let a := wd2 c.words 8
  let bad : Option Status :=
    match sp with
    | some .accord => some .badOperand
    | _ => spaceCheck x sp a.toNat 24
  if !imageState s then .reject (imgDetail 0 imgLifeCycle) s
  else match bad, sp with
    | some e, _ => .fail e s
    | none, none => .fail .badOperand s
    | none, some sp =>
      let (s, head) := readSpace s x sp a 24
      let hw := wordsOf (head.getD (zeros 24))
      let total := (wd hw 5).toNat
      if total < 6 ∨ total > 262144 then
        .reject (imgDetail 0 (if total > 262144 then imgTooLarge else imgMalformed)) s
      else match spaceCheck x (some sp) a.toNat (4 * total) with
        | some e => .fail e s
        | none =>
          let (s, rest) := readSpace s x sp (a + 24) (4 * total - 24)
          let image := hw ++ wordsOf (rest.getD [])
          match phase1 s image with
          | .error (code, off) => .reject (imgDetail off code) s
          | .ok k => .wait (.imageChecked image k.m k.d k.hearts.1 k.hearts.2) s

/-- IMAGE_LOAD. -/
def execImageLoad (q : Nat) (s : State) : Host.Outcome State Fault Refusal := runCommand 0x10 q imageLoadEff s

end Sys2Proof.Machine
end

