-- ==== Sys2Proof/Machine/ImageCheck.lean ====
section
/-! DEFINITION. Phase 2 of an image (R81 steps 8 to 12): what the accord would hold after the image or delta, and the checks
on it. -/

namespace Sys2Proof.Machine

/-- A region as an image leaves it. -/
structure RegionPlan where
  /-- offset of its record; none for a region the delta does not name -/
  off : Option Nat
  id : Nat
  stack : Nat
  /-- class code, 3 for a removal -/
  cls : Nat
  sched : Bool
  f : BitVec 8
  base : Nat
  limit : Nat
  grants : List Word
deriving DecidableEq, Repr

/-- What an accord would hold after an image. -/
structure Plan where
  delta : Bool
  /-- local index: the delta's accord, or the index the image will get -/
  accord : Nat
  /-- the accord's configuration fields -/
  conf : Accord
  channels : List Nat
  /-- core group and entry fields -/
  groups : List (Nat × Word)
  /-- port and EXCLUSIVE -/
  ports : List (Nat × Bool)
  /-- REGION records, in image order -/
  regions : List RegionPlan
  /-- regions of the accord that the image leaves as they are -/
  kept : List RegionPlan
deriving DecidableEq, Repr

/-- Records of a type, in image order. -/
def recsOf (rs : List ImgRec) (t : Nat) : List ImgRec := rs.filter fun r => r.type == t

/-- Resources of kind `k` that accord `a` holds and that no handover is taking away, or that wait to be bound to it. -/
def heldRes (s : State) (k : ResKind) (a : Nat) : List Nat :=
  ((resTab s k).filter fun e => (e.2.state == .bound && e.2.owners.contains a) || e.2.pending.any fun p => p.accord == a).map (·.1)

/-- The entry fields of a CORE_GROUPS word in the layout of Table 2.4. -/
def groupInfo (w : Word) : Word := pack [(fld w 23 22, 29), (fld w 21 19, 16), (fld w 18 18, 14)]

/-- The entry fields that a held core group has now, or will have when its queued bind is applied. -/
def heldInfo (s : State) (g : Nat) : Word :=
  match (getRes s .coreGroup g).pending with
  | some p => p.info
  | none => (getCore s g).entry &&& 0x60074000

/-- A REGION record read. -/
def regionPlan (r : ImgRec) : RegionPlan :=
  let w := r.words
  { off := some r.off, id := fld (wd w 1) 31 16, stack := fld (wd w 1) 15 13, cls := fld (wd w 1) 12 11
    sched := bit (wd w 1) 10, f := BitVec.ofNat 8 (fld (wd w 1) 7 0), base := fld (wd w 2) 23 0
    limit := fld (wd w 3) 23 0, grants := w.drop 5 }

/-- Whether a REGION record removes its region (Table 3.5). -/
def isRemoval (delta : Bool) (r : RegionPlan) : Bool :=
  delta && r.cls == 3 && r.grants.isEmpty && r.base == 0 && r.limit == 0

/-- The regions accord `a` has now. -/
def currentRegions (s : State) (a : Nat) : List RegionPlan :=
  (List.range 8).flatMap fun n => (getMpe s n).rt.filterMap fun e =>
    if e.2.owner = a ∧ a ≠ 0 then
      some { off := none, id := e.2.id, stack := n, cls := clsNum e.2.cls, sched := e.2.sched, f := e.2.f, base := e.2.base
             limit := e.2.limit, grants := e.2.grants }
    else none

/-- A table with the records of one key type laid over it. -/
def overlay {α : Type} (t : Tab α) (rs : List ImgRec) (key : ImgRec → Nat) (val : ImgRec → Option α) : Tab α :=
  rs.foldl (fun t r => match val r with
    | some v => tset t (key r) v
    | none => tdel t (key r)) t

/-- The BANDWIDTH record; all-zero rates remove the reservation. -/
def readResv (r : ImgRec) : Option Resv :=
  let v : Resv := { c := fld (wd r.words 1) 31 16, r := fld (wd r.words 1) 15 0, s := fld (wd r.words 2) 31 16 }
  if v = {} then none else some v

/-- The SCHEDULE record; in a delta an empty mask removes the schedule. -/
def readSched (delta : Bool) (r : ImgRec) : Option Sched :=
  let mask : BitVec 256 := BitVec.ofNat 256 (leNat (bytesOf (r.words.drop 2)))
  if delta ∧ mask = 0 then none else some { cls := (clsOf (fld (wd r.words 1) 5 4)).getD .s, slots := mask }

/-- The pins after an image: those of a stack that the image names are replaced. -/
def readPins (old : List Pin) (rs : List ImgRec) : List Pin :=
  let new := (recsOf rs 0x860).map fun r =>
    ({ stack := fld (wd r.words 1) 2 0, base := fld (wd r.words 1) 31 16, len := fld (wd r.words 2) 15 0 } : Pin)
  (old.filter fun p => !new.any fun q => q.stack == p.stack) ++ new

/-- What the accord would hold: index `a`, configuration `old` before the image. -/
def planOf (s : State) (image : List Word) (a : Nat) (old : Accord) : Plan :=
  let rs := recordsOf image
  let delta := isDelta image
  let acc := recWords rs 0x010
  let pol := recWords rs 0x040
  let conf : Accord :=
    if delta then old
    else { old with gid := wd image 3, scheduled := bit (wd acc 2) 31, far := bit (wd acc 2) 30, chips := fld (wd acc 2) 10 0
                    classes := BitVec.ofNat 3 (fld (wd pol 1) 10 8), grantees := pol.drop 2
                    tenantKey := (recWords rs 0x020).drop 1 }
  let has (t : Nat) : Bool := !(recsOf rs t).isEmpty
  let channels :=
    if has 0x810 then
      (List.range 256).filter fun i => bit (wd (recWords rs 0x810) (1 + i / 32)) (i % 32)
    else if delta then heldRes s .channel a else []
  let groups :=
    if has 0x820 then ((recWords rs 0x820).drop 1).map fun w => (fld w 31 24, groupInfo w)
    else if delta then (heldRes s .coreGroup a).map fun g => (g, heldInfo s g) else []
  let ports :=
    if has 0x830 then
      ((List.range 32).filter fun p => bit (wd (recWords rs 0x830) 1) p).map fun p => (p, bit (wd (recWords rs 0x830) 2) p)
    else if delta then (heldRes s .port a).map fun p => (p, (getRes s .port p).exclusive) else []
  let regions := (recsOf rs 0x840).map regionPlan
  let kept := if delta then (currentRegions s a).filter fun c => !regions.any fun r => r.id == c.id else []
  -- pins of the channels that a delta gives up are released with them
  let gone := if delta then (heldRes s .channel a).filter fun i => !channels.contains i else []
  let pins0 := gone.foldl
    (fun ps i => let (lo, hi) := channelRange (i % 32); ps.flatMap fun p => if p.stack = i / 32 then cutPin p lo hi else [p])
    conf.pins
  let conf := { conf with
    peers := if has 0x838 then ((recWords rs 0x838).drop 2).map fun w => fld w 15 0 else conf.peers
    resv := overlay conf.resv (recsOf rs 0x850) (fun r => fld (wd r.words 2) 2 0) readResv
    sched := overlay conf.sched (recsOf rs 0x858) (fun r => fld (wd r.words 1) 2 0) (readSched delta)
    pins := readPins pins0 rs
    roots := overlay conf.roots (recsOf rs 0x870) (fun r => fld (wd r.words 1) 3 0) fun r =>
      some (BitVec.ofNat 52 ((wd r.words 2).toNat * 4096 + fld (wd r.words 3) 7 0 * 2 ^ 44)) }
  { delta := delta, accord := a, conf := conf, channels := channels, groups := groups, ports := ports, regions := regions
    kept := kept }

/-- A failed check: code and record offset. -/
abbrev ImgFail := Option (Nat × Nat)

/-- The first failure of a list of checks. -/
def firstFail (l : List ImgFail) : ImgFail := l.findSome? id

/-- A check that fails with `code` at `off` when `b` holds. -/
def failIf (b : Bool) (code off : Nat) : ImgFail := if b then some (code, off) else none

/-- Step 9, first part: resources of instances out of service (R39). -/
def checkService (s : State) (rs : List ImgRec) (p : Plan) : ImgFail :=
  let bad (t : Nat) (k : ResKind) (l : List Nat) : ImgFail :=
    failIf (!(recsOf rs t).isEmpty && l.any fun i => !unitInService s k i) imgUnit (recOff rs t)
  firstFail [bad 0x810 .channel p.channels, bad 0x820 .coreGroup (p.groups.map (·.1)), bad 0x830 .port (p.ports.map (·.1))]

/-- Whether a resource may not be bound to accord `a` (R44, R58, Table 2.7). A shared port may join other sharers. -/
def resBusy (s : State) (k : ResKind) (i a : Nat) (exclusive : Bool) : Bool :=
  let r := getRes s k i
  if r.pending.any fun p => p.accord == a then false
  else match r.state with
    | .free => false
    | .bound =>
      if r.owners == [a] then false
      else if r.owners.contains a then exclusive
      else !(k == .port && !exclusive && !r.exclusive)
    | _ => r.pending.isSome

/-- Step 9, second part. -/
def checkBusy (s : State) (rs : List ImgRec) (p : Plan) : ImgFail :=
  firstFail
    [ failIf (p.channels.any fun i => resBusy s .channel i p.accord true) imgResource (recOff rs 0x810)
    , failIf (p.groups.any fun g => resBusy s .coreGroup g.1 p.accord true) imgResource (recOff rs 0x820)
    , failIf (p.ports.any fun x => resBusy s .port x.1 p.accord x.2) imgResource (recOff rs 0x830) ]

/-- Whether a brick range lies inside the channels of the plan (R46). -/
def insideChannels (p : Plan) (stack base limit : Nat) : Bool :=
  base ≤ limit && limit ≤ maxBrick &&
    (List.range 32).all fun c => !(chanOf base ≤ c && c ≤ chanOf limit) || p.channels.contains (32 * stack + c)

/-- Whether two regions share a brick. -/
def regionsOverlap (a b : RegionPlan) : Bool := a.stack == b.stack && a.base ≤ b.limit && b.base ≤ a.limit

/-- Whether an entry of a stack leaves its table when the image is applied: a region of the accord that a record replaces or
removes, or one of a RETIRING accord under a new region. -/
def entryLeaves (s : State) (p : Plan) (n : Nat) (e : RtEntry) : Bool :=
  (p.delta && e.owner == p.accord && p.regions.any fun r => r.id == e.id)
  || (e.owner != p.accord && (getAccord s e.owner).state == .retiring &&
      p.regions.any fun r => r.stack == n && r.base ≤ e.limit && e.base ≤ r.limit)

/-- Step 10 for one REGION record; `earlier` are the records before it. -/
def checkRegion (s : State) (p : Plan) (earlier : List RegionPlan) (r : RegionPlan) : ImgFail :=
  let off := r.off.getD 0
  let placed := earlier.filter fun x => !isRemoval p.delta x
  let badId : Bool := (0x8000 ≤ r.id && r.id ≤ 0xFFFD) || earlier.any fun x => x.id == r.id
  if isRemoval p.delta r then failIf badId imgOverlap off
  else
    let used := ((getMpe s r.stack).rt.filter fun e => !entryLeaves s p r.stack e.2).length
    let count := (placed.filter fun x => x.stack == r.stack).length + 1
    let allowed : Bool := r.cls < 3 && bit p.conf.classes r.cls && (r.grants.isEmpty || r.cls == 2)
      && r.grants.all fun g => p.conf.grantees.contains g
    firstFail
      [ failIf (!insideChannels p r.stack r.base r.limit) imgOutside off
      , failIf (badId || (placed ++ p.kept).any (regionsOverlap r)) imgOverlap off
      , failIf (used + count > 256) imgTableFull off
      , failIf (!allowed) imgClass off ]

/-- REGION records in order, then the regions that stay: they must still lie in the accord's channels. -/
def checkRegions (s : State) (rs : List ImgRec) (p : Plan) : ImgFail :=
  let one (x : ImgFail × List RegionPlan) (r : RegionPlan) : ImgFail × List RegionPlan :=
    if x.1.isSome then x else (checkRegion s p x.2 r, x.2 ++ [r])
  firstFail
    [ (p.regions.foldl one (none, [])).1
    , failIf (p.kept.any fun r => !insideChannels p r.stack r.base r.limit) imgOutside (recOff rs 0x810) ]

/-- The regions the accord would have. -/
def finalRegions (p : Plan) : List RegionPlan := p.kept ++ p.regions.filter fun r => !isRemoval p.delta r

/-- Whether the root of OTU `o` breaks R302: a page of its table outside the regions the accord would have, or an OTU that none of its
core groups would name. -/
def badRoot (s : State) (p : Plan) (o : Nat) : Bool :=
  let root := (tgetD p.conf.roots o 0).toNat
  let mapped (i : Nat) : Bool :=
    match stage2Brick s p.conf.gid (root + 4096 * i) with
    | none => false
    | some (n, b) => (finalRegions p).any fun g =>
        g.stack == n && g.base ≤ b && b ≤ g.limit && !(0x8000 ≤ g.id && g.id ≤ 0xFFFD)
  let named : Bool := o == 8 || (o < 8 && p.groups.any fun g => fld g.2 18 16 == o)
  !named || !((List.range 512).all mapped)

/-- Where a record of a type and key that is not there would stand (R81). -/
def absentOff (rs : List ImgRec) (t key : Nat) (total : Nat) : Nat :=
  ((rs.find? fun r => typeRank r.type > typeRank t || (r.type == t && keyField r > key)).map (·.off)).getD total

/-- R302 for the TRANSLATION records in order, then for the roots that a delta leaves as they are (R85: the final state is checked). A
failure of such a root has no record; it is reported where its record would stand. -/
def checkTranslation (s : State) (rs : List ImgRec) (p : Plan) (total : Nat) : ImgFail :=
  let recs := recsOf rs 0x870
  let kept := (p.conf.roots.map (·.1)).filter fun o => !recs.any fun r => keyField r == o
  firstFail
    [ recs.findSome? fun r => if badRoot s p (keyField r) then some (imgTranslation, r.off) else none
    , kept.findSome? fun o => if badRoot s p o then some (imgTranslation, absentOff rs 0x870 o total) else none ]

/-- The stacks a plan binds a channel of. -/
def planStacks (p : Plan) : List Nat := (List.range 8).filter fun n => p.channels.any fun i => i / 32 == n

/-- Accords other than the plan's that are not FREE. -/
def otherAccords (s : State) (p : Plan) : List Accord :=
  (s.accords.filter fun e => e.1 != p.accord && e.1 ≥ 2 && e.2.state != .free).map (·.2)

/-- Step 11: scheduled mode (R53, R69). -/
def checkScheduled (s : State) (rs : List ImgRec) (p : Plan) (total : Nat) : ImgFail :=
  let sch := recsOf rs 0x858
  let needs : List ImgFail :=
    if p.conf.scheduled then
      [ (planStacks p).findSome? fun n =>
          if (tget p.conf.sched n).isSome then none
          else some (imgSchedule, ((sch.find? fun r => keyField r == n).map (·.off)).getD (absentOff rs 0x858 n total))
      , failIf (p.ports.any fun x => !x.2) imgSchedule (recOff rs 0x830) ]
    else
      [ failIf (p.groups.any fun g => fld g.2 30 29 == 2) imgSchedule (recOff rs 0x820)
      , p.regions.findSome? fun r => if r.sched && !isRemoval p.delta r then some (imgSchedule, r.off.getD 0) else none
      , sch.head?.map fun r => (imgSchedule, r.off) ]
  let conflict (r : ImgRec) : ImgFail :=
    let n := keyField r
    let mine := ((tget p.conf.sched n).map (·.slots)).getD 0
    failIf ((otherAccords s p).any fun a => (((tget a.sched n).map (·.slots)).getD 0 &&& mine) != 0) imgSlots r.off
  firstFail (
    [ failIf (p.groups.any fun g => fld g.2 30 29 == 3) imgSchedule (recOff rs 0x820)
    , sch.findSome? fun r => if fld (wd r.words 1) 5 4 = 3 then some (imgSchedule, r.off) else none ]
    ++ needs ++ sch.map conflict)

/-- MiB that may be pinned on one stack (R71): 6 MiB at 4,672 B each. -/
def pinLimit : Nat := 1346

/-- Whether a pinned range lies in class C regions of the plan. -/
def pinCovered (p : Plan) (q : Pin) : Bool :=
  let regs := (finalRegions p).filter fun r => r.stack == q.stack && r.cls == 1
  -- walk the range from its first brick, region by region
  let reach := (List.range regs.length).foldl
    (fun b _ => ((regs.find? fun r => r.base ≤ b && b ≤ r.limit).map (·.limit + 1)).getD b) (q.base * 256)
  reach ≥ (q.base + q.len) * 256

/-- Step 11: pins (R71), in the order they are listed. -/
def checkPins (s : State) (rs : List ImgRec) (p : Plan) : ImgFail :=
  let others (n : Nat) : Nat := ((otherAccords s p).flatMap fun a => a.pins.filter fun q => q.stack == n).foldl (fun t q => t + q.len) 0
  let offOf (q : Pin) : Nat :=
    (((recsOf rs 0x860).find? fun r => fld (wd r.words 1) 2 0 == q.stack && fld (wd r.words 1) 31 16 == q.base).map (·.off)).getD
      ((recOfType rs 0x840).map (·.off) |>.getD 0)
  (p.conf.pins.foldl
    (fun (x : ImgFail × List Pin) q =>
      if x.1.isSome then x
      else
        let total := others q.stack + ((x.2 ++ [q]).filter fun y => y.stack == q.stack).foldl (fun t y => t + y.len) 0
        (failIf (q.len == 0 || !pinCovered p q || total > pinLimit) imgPin (offOf q), x.2 ++ [q]))
    (none, [])).1

/-- Step 11: the 49th pinned accord (R61). -/
def checkHotSet (s : State) (rs : List ImgRec) (p : Plan) : ImgFail :=
  let pinned := (s.accords.filter fun e => e.1 ≥ 2 && e.2.scheduled && (e.2.state == .composing || e.2.state == .live)).length
  failIf (!p.delta && p.conf.scheduled && pinned ≥ 48) imgHotSet (recOff rs 0x010)

/-- The bits set in a slot mask. -/
def slotCount (m : BitVec 256) : Nat := ((List.range 256).filter fun i => m.getLsbD i).length

/-- Charge of a class, in thousandths (R66). -/
def classCharge : Cls → Nat
  | .s => 1000 | .c => 1040 | .r => 1032

/-- Uncharged reservation of an accord on a stack, in MB/s (R66). -/
def uncharged (a : Accord) (n : Nat) : Nat :=
  let v := tgetD a.resv n {}
  (v.c + v.r + v.s) * 1000 + slotCount (((tget a.sched n).map (·.slots)).getD 0) * 8075

/-- Charged load of an accord on a stack, in thousandths of a MB/s (R66). -/
def charged (a : Accord) (n : Nat) : Nat :=
  let v := tgetD a.resv n {}
  v.c * 1040000 + v.r * 1032000 + v.s * 1000000
    + ((tget a.sched n).map fun x => slotCount x.slots * 8075 * classCharge x.cls).getD 0

/-- Channels of stack `n` in a list of channel numbers. -/
def channelsOn (l : List Nat) (n : Nat) : Nat := (l.filter fun i => i / 32 == n).length

/-- Whether an accord's uncharged reservation on stack `n` is above 92 % of its channels there (R66). -/
def overChannels (conf : Accord) (channels : List Nat) (n : Nat) : Bool := uncharged conf n > 58880 * channelsOn channels n

/-- Step 12: admission, for every accord and stack (R66). The channel limit is tested for accords that are COMPOSING or LIVE: a RETIRING
one gives its channels up (DEDUCED, log entry 61). -/
def checkAdmission (s : State) (rs : List ImgRec) (p : Plan) : ImgFail :=
  (List.range 8).findSome? fun n =>
    let total := ((otherAccords s p).map fun a => charged a n).sum + charged p.conf n
    let others : Bool := s.accords.any fun e =>
      e.1 != p.accord && e.1 ≥ 2 && (e.2.state == .composing || e.2.state == .live)
        && overChannels e.2 (heldRes s .channel e.1) n
    let off := (((rs.find? fun r => r.type == 0x850 && keyField r == n).map (·.off)).orElse
      (fun _ => (rs.find? fun r => r.type == 0x858 && keyField r == n).map (·.off))).getD (recOff rs 0x810)
    failIf (overChannels p.conf p.channels n || others || total > 1884160000) imgAdmission off

/-- The accord on this chip, not FREE, that holds a global ID. -/
def accordOfGid (s : State) (gid : Word) : Option Nat :=
  (s.accords.find? fun e => e.1 ≥ 2 && e.2.state != .free && e.2.gid == gid).map (·.1)

/-- The lowest FREE tenant index. (DESIGN CHOICE, log entry 9) -/
def freeAccordIndex (s : State) : Option Nat :=
  ((List.range 1022).map (· + 2)).find? fun a => (getAccord s a).state == .free

/-- Step 8: the index the image is for, or its failure. -/
def checkIndex (s : State) (image : List Word) : Except (Nat × Nat) Nat :=
  if !imageState s then .error (imgLifeCycle, 0)
  else if isDelta image then
    match accordOfGid s (wd image 3) with
    | none => .error (imgBusy, 0)
    | some a =>
      let x := getAccord s a
      if x.state ≠ .live ∨ x.deltaPending then .error (imgBusy, 0)
      else if (wd image 4).toNat ≠ x.deltaSeq + 1 then .error (imgSequence, 0)
      else .ok a
  else if (accordOfGid s (wd image 3)).isSome then .error (imgGidInUse, 0)
  else match freeAccordIndex s with
    | none => .error (imgNoIndex, 0)
    | some a => .ok a

/-- Phase 2 of R81: the plan, or the first failure. -/
def phase2 (s : State) (image : List Word) : Except (Nat × Nat) Plan :=
  match checkIndex s image with
  | .error e => .error e
  | .ok a =>
    let rs := recordsOf image
    let p := planOf s image a (if isDelta image then getAccord s a else {})
    let fail := firstFail (
      [ checkService s rs p, checkBusy s rs p, checkRegions s rs p, checkTranslation s rs p image.length
      , checkScheduled s rs p image.length, checkPins s rs p, checkHotSet s rs p, checkAdmission s rs p ])
    match fail with
    | some e => .error e
    | none => .ok p

end Sys2Proof.Machine
end

