-- ==== Sys2Proof/Machine/OtuOps.lean ====
section
/-! DEFINITION. TLB entries, misses and invalidations of the OTUs (R305, R309, R312, R313). -/

namespace Sys2Proof.Machine

/-- The 4 KiB page of a DVA. -/
def dvaPage (a : BitVec 57) : Nat := a.toNat / 4096

/-- The miss tag of Table 11.5. -/
def missTag (s : State) (o slot : Nat) : Word := pack [((tgetD (getOtu s o).gens slot 0).toNat, 16), (o, 12), (slot % 256, 0)]

/-- Access kind of a miss descriptor: 0 read, 1 write, 2 atomic. -/
def accessKind : MemOp → Nat
  | .readLine | .readStretcher => 0
  | .atomic => 2
  | _ => 1

/-- A miss descriptor posted to hub firmware (R309). -/
def postMiss (s : State) (o slot : Nat) : State :=
  match tget (getOtu s o).misses slot with
  | none => s
  | some m =>
    let kind := (m.waiting.head?.map fun r => accessKind r.op).getD 0
    let tag := missTag s o slot
    updOtu s o fun t => { t with posted := t.posted ++ [(tag, m.accord, kind, m.page)], missCount := (t.missCount + 1) % 2 ^ 32 }

/-- The slot's generation advances. -/
def bumpMiss (s : State) (o slot : Nat) : State :=
  updOtu s o fun t => { t with gens := tset t.gens slot (tgetD t.gens slot 0 + 1) }

/-- A slot freed. -/
def freeMiss (s : State) (o slot : Nat) : State := updOtu (bumpMiss s o slot) o fun t => { t with misses := tdel t.misses slot }

/-- Misses of accord `a` at OTU `o` that `f` selects by page are retired and posted again (R312). -/
def repostMisses (s : State) (o a : Nat) (f : Nat → Bool) : State :=
  ((getOtu s o).misses.filter fun m => m.2.accord == a && f m.2.page).foldl
    (fun s m => postMiss (bumpMiss s o m.1) o m.1) s

/-- Whether a page of `size` bytes from `base` meets a byte range; `none` is the whole space. -/
def meetsRange (base size : Nat) : Option (Nat × Nat) → Bool
  | none => true
  | some (lo, len) => base < lo + len && lo < base + size

/-- The entries and misses that an invalidation of accord `a` over a range takes from OTU `o`. -/
def invalidateOtu (s : State) (o a : Nat) (range : Option (Nat × Nat)) : State :=
  let s := updOtu s o fun t => { t with tlb := t.tlb.filter fun e => !(e.accord == a && meetsRange e.base e.size range) }
  repostMisses s o a fun page => meetsRange (4096 * page) 4096 range

/-- OTUs that hold a root of accord `a`. -/
def rootOtus (s : State) (a : Nat) : List Nat := (getAccord s a).roots.map (·.1)

/-- An invalidation begun (R312): the OTUs change at once, and it stays until the requests translated before it are gone. -/
def startInvalidation (s : State) (a : Nat) (otus : List Nat) (range : Option (Nat × Nat)) (cmd fence : Option Nat)
    (counters : List Nat) : State × Nat :=
  let s := otus.foldl (fun s o => invalidateOtu s o a range) s
  let id := ((s.invalidations.map (·.1)).foldl Nat.max 0) + 1
  let x : Invalidation := { accord := a, otus := otus, seq := s.stamp, cmd := cmd, fence := fence, counters := counters }
  ({ s with invalidations := tset s.invalidations id x, stamp := s.stamp + 1 }, id)

/-- Every request that has left an OTU and is not answered yet. -/
def translatedReqs (s : State) : List Req :=
  s.mpes.flatMap (fun e => mpeReqs e.2) ++ s.ports.flatMap (fun e => portReqs e.2) ++ s.hpe.pages

/-- Whether every request translated before an invalidation has been answered, lost or discarded. -/
def drainedInvalidation (s : State) (x : Invalidation) : Bool :=
  !(translatedReqs s).any fun r => r.accord == x.accord && r.seq < x.seq && r.via.any fun o => x.otus.contains o

/-- Every entry of accord `a` leaves every OTU, and its waiting requests are answered ERROR without a fault (R313).
(DEDUCED, log entry 16) -/
def dropAccordOtus (s : State) (a : Nat) : State :=
  (List.range 9).foldl
    (fun s o =>
      let mine := (getOtu s o).misses.filter fun m => m.2.accord == a
      let here := (getOtu s o).ingress.filter fun r => r.accord == a
      let s := updOtu s o fun t =>
        { t with tlb := t.tlb.filter fun e => e.accord != a, ingress := t.ingress.filter fun r => r.accord != a }
      let s := mine.foldl (fun s m => freeMiss s o m.1) s
      (mine.flatMap (·.2.waiting) ++ here).foldl (fun s r => answer s r (some .unbound) []) s) s

/-- The accord's requests to host-resident pages answered ERROR without a fault. (DEDUCED, log entry 16) -/
def dropAccordPages (s : State) (a : Nat) : State :=
  let mine := s.hpe.pages.filter fun r => r.accord == a
  let s := { s with hpe := { s.hpe with pages := s.hpe.pages.filter fun r => r.accord != a } }
  mine.foldl (fun s r => answer s r (some .unbound) []) s

end Sys2Proof.Machine
end

