-- ==== Sys2Proof/Machine/Image.lean ====
section
/-! DEFINITION. Applying an image (R82 to R86), regions entering use (R157, R198), an accord becoming LIVE (R83, R96) and a
RETIRING accord becoming FREE (R50, R113). -/

namespace Sys2Proof.Machine

/-! ## Regions entering use -/

/-- The bricks of a region. -/
def regionBricks (e : RtEntry) : List Nat := (List.range (e.limit + 1 - e.base)).map (· + e.base)

/-- Whether every channel a region lies in is bound to its owner. -/
def regionBound (s : State) (n : Nat) (e : RtEntry) : Bool :=
  (List.range 32).all fun c => !(chanOf e.base ≤ c && c ≤ chanOf e.limit) || boundTo s .channel (32 * n + c) e.owner

/-- The region table entry `rt` of stack `n` changed by `f`. -/
def updEntry (s : State) (n rt : Nat) (f : RtEntry → RtEntry) : State := updMpe s n fun m => { m with rt := tupd m.rt rt f }

/-- R157 for one brick: scrambled zeros, unless it already is a class S brick of the owner. EPOCH is zero for class S and SCHED is the
region's (R155). -/
def fillBrickS (s : State) (n owner b : Nat) (sched : Bool) : State :=
  let s := ensureCourse s n b
  let r := heldRec (getMpe s n) b
  if r.init ∧ r.cls = .s ∧ r.owner = owner then
    (if r.sched = sched then s else putRec s n b { r with sched := sched })
  else
    let s := hbmWrite s n (dataAddr b 0) (mixLines (k5 s) false n b 0 (zeros 4096))
    putRec s n b { r with init := true, cls := .s, owner := owner, minor := [], epoch := 0, dirty := false, sched := sched }

/-- R157: the fill of a class S region. -/
def fillRegionS (s : State) (n rt : Nat) : State :=
  match tget (getMpe s n).rt rt with
  | none => s
  | some e =>
    updEntry ((regionBricks e).foldl (fun s b => fillBrickS s n e.owner b e.sched) s) n rt fun e => { e with busy := false }

/-- R198, on entry to SEALING: the next seal value and the current epoch enter the region table entry, and the rewrite of the
region's records begins. Seal buffer entries of the region are given up. -/
def startSealing (s : State) (n rt : Nat) : State :=
  match tget (getMpe s n).rt rt with
  | none => s
  | some e =>
    let v := (getAccord s e.owner).sealCounter
    let s := updAccord s e.owner fun x => { x with sealCounter := v + 1 }
    updMpe s n fun m =>
      { m with
        rt := tset m.rt rt
          { e with sealState := .sealing, sealVal := v, epoch := (epochOf s e.owner .r n).gen % 4, busy := true }
        sealBuf := m.sealBuf.filter fun x => !(e.base ≤ x.1 / 16 && x.1 / 16 ≤ e.limit) }

/-- R198: the record of one brick of a region that entered SEALING. -/
def sealRecord (s : State) (n b : Nat) (e : RtEntry) : State :=
  let s := ensureCourse s n b
  let r := heldRec (getMpe s n) b
  putRec s n b { r with init := false, cls := .r, owner := e.owner, epoch := e.epoch, minor := [], sched := e.sched }

/-- The rewrite of R198 done. -/
def rewriteRecords (s : State) (n rt : Nat) : State :=
  match tget (getMpe s n).rt rt with
  | none => s
  | some e => updEntry ((regionBricks e).foldl (fun s b => sealRecord s n b e) s) n rt fun e => { e with busy := false }

/-- Class S regions that wait for their fill and whose channels are bound, filled. -/
def fillWaiting (s : State) : State :=
  (List.range 8).foldl
    (fun s n => (getMpe s n).rt.foldl
      (fun s e => if e.2.busy ∧ e.2.cls = .s ∧ regionBound s n e.2 then fillRegionS s n e.1 else s) s) s

/-- A region of accord `a` made: its region table entry and its object. Class R enters SEALING and class S waits for its
fill; both are busy until then. `owner` is the session that allocated it, none for an image, whose reference ROOT holds. -/
def addRegion (s : State) (a : Nat) (r : RegionPlan) (owner : Option Nat) : State × Option ObjRef :=
  match clsOf r.cls, tfree (getMpe s r.stack).rt 0 256, freeIndex s .region with
  | some cls, some rt, some i =>
    let e : RtEntry :=
      { cls := cls, sched := r.sched, grants := r.grants, owner := a, id := r.id, f := r.f, base := r.base, limit := r.limit
        busy := cls == .s }
    let s := updMpe s r.stack fun m => { m with rt := tset m.rt rt e }
    let g : Region := { accord := a, stack := r.stack, rt := rt, owner := owner, dref := if owner.isNone then 1 else 0 }
    let s := { s with regions := tset s.regions i g }
    (if cls = .r then startSealing s r.stack rt else s, some { type := .region, index := i })
  | _, _, _ => (s, none)

/-- The region object of an entry of a stack's region table. -/
def regionObject (s : State) (n rt : Nat) : Option Nat :=
  (s.regions.find? fun e => e.2.stack == n && e.2.rt == rt).map (·.1)

/-- A region leaves with its object, whatever its counts. -/
def removeRegion (s : State) (n rt : Nat) : State :=
  match regionObject s n rt with
  | some i => tearRegion (dropRefs s { type := .region, index := i }) i
  | none => updMpe s n fun m => { m with rt := tdel m.rt rt }

/-- Entries of RETIRING accords that a new region covers, removed (R179). -/
def clearUnder (s : State) (p : Plan) (n : Nat) : State :=
  ((getMpe s n).rt.filter fun e => e.2.owner != p.accord && entryLeaves s p n e.2).foldl (fun s e => removeRegion s n e.1) s

/-- Store entries of a region's bricks written back and invalidated, before its table entry is written (Table 8.6). -/
def flushRegion (s : State) (n : Nat) (e : RtEntry) : State :=
  flushStore (markAccepted s n fun b => e.base ≤ b && b ≤ e.limit) n fun x _ => e.base ≤ x / 16 && x / 16 ≤ e.limit

/-- A region whose record changes its bricks, class, frame or stack: the object stays and its entry is written anew. -/
def rewriteRegion (s : State) (a n rt : Nat) (r : RegionPlan) (cls : Cls) : State :=
  let rt' := if n = r.stack then some rt else tfree (getMpe s r.stack).rt 0 256
  match rt', regionObject s n rt with
  | some rt', some i =>
    let e : RtEntry :=
      { cls := cls, sched := r.sched, grants := r.grants, owner := a, id := r.id, f := r.f, base := r.base, limit := r.limit
        busy := cls == .s }
    let s := updMpe s n fun m => { m with rt := tdel m.rt rt }
    let s := updMpe s r.stack fun m => { m with rt := tset m.rt rt' e }
    let s := { s with regions := tupd s.regions i fun g => { g with stack := r.stack, rt := rt' } }
    if cls = .r then startSealing s r.stack rt' else s
  | _, _ => s

/-- The records of a region's bricks given the region's SCHED flag, where it changed (Table 6.6). -/
def schedRecords (s : State) (n : Nat) (e : RtEntry) (sched : Bool) : State :=
  if e.sched = sched then s
  else (regionBricks e).foldl
    (fun s b => editRec s n b fun r => if r.owner = e.owner ∧ r.cls = e.cls then { r with sched := sched } else r) s

/-- A REGION record of a plan applied (Table 3.5, R201): a removal, a new grant list, a changed region, or a new one. Writing
an entry clears its cell flags (R230). -/
def applyRegion (s : State) (p : Plan) (r : RegionPlan) : State :=
  let a := p.accord
  let old : Option (Nat × Nat × RtEntry) := (List.range 8).findSome? fun n =>
    ((getMpe s n).rt.find? fun e => e.2.owner == a && e.2.id == r.id).map fun e => (n, e.1, e.2)
  match old, clsOf r.cls with
  | none, none => s
  | none, some _ => (addRegion s a r none).1
  | some (n, rt, _), none => removeRegion s n rt
  | some (n, rt, e), some cls =>
    let s := flushRegion s n e
    if n = r.stack ∧ e.base = r.base ∧ e.limit = r.limit ∧ e.cls = cls ∧ e.f = r.f then
      updEntry (schedRecords s n e r.sched) n rt fun e =>
        { e with grants := r.grants, sched := r.sched, overflow := false, invalid := false, loss := 0 }
    else rewriteRegion (schedRecords s n e r.sched) a n rt r cls

/-! ## Resources of a plan -/

/-- Resources that a delta gives up, into DRAIN. A shared port only loses this owner. -/
def releaseOf (s : State) (k : ResKind) (a : Nat) (final : List Nat) : State :=
  ((heldRes s k a).filter fun i => !final.contains i).foldl
    (fun s i =>
      let r := getRes s k i
      if r.pending.any fun p => p.accord == a then abortPending s k i
      else if r.owners.length > 1 then
        let s := drainPortStreams s i a
        updRes s k i fun r => { r with owners := r.owners.filter (· != a) }
      else startDrain s k i) s

/-- A resource of a plan bound, queued, or given its new fields where it is already held. -/
def bindPlanned (s : State) (k : ResKind) (a : Nat) (x : Nat × Word) : State :=
  let r := getRes s k x.1
  if r.pending.any fun p => p.accord == a then
    updRes s k x.1 fun r => { r with pending := r.pending.map fun p => { p with info := x.2 } }
  else if r.state = .bound ∧ r.owners.contains a then
    match k with
    | .channel => s
    | .port => updRes s k x.1 fun r => { r with exclusive := bit x.2 0 }
    | .coreGroup =>
      updCore s x.1 fun c => { c with entry := pack [(1, 31), (fld x.2 30 29, 29), (a, 19), (fld x.2 18 16, 16), (fld x.2 14 14, 14)] }
  else bindOrQueue s k x.1 a x.2 none

/-- Every resource of a plan bound or queued. -/
def bindPlan (s : State) (p : Plan) : State :=
  let s := p.channels.foldl (fun s i => bindPlanned s .channel p.accord (i, 0)) s
  let s := p.groups.foldl (fun s g => bindPlanned s .coreGroup p.accord g) s
  p.ports.foldl (fun s x => bindPlanned s .port p.accord (x.1, if x.2 then 1 else 0)) s

/-! ## The commit -/

/-- The context of a new accord put into the hot set (R60), or spilled at once where no entry can be freed. -/
def firstContext (s : State) (a : Nat) (c : KeyContext) : State :=
  let put (s : State) : State := updAccord s a fun x => { x with ctx := some c }
  if (residents s).length < hotSetSize then put s
  else match victim s with
    | some v => put (evict s v)
    | none => spillContext s a c

/-- A full image applied (R83): the accord is COMPOSING. -/
def applyFull (s : State) (p : Plan) (m d : BitVec 384) (hearts : Bytes × Bytes) : State :=
  let a := p.accord
  let s := { s with accords := tset s.accords a { p.conf with state := .composing, m := m, d := d, lastUse := s.stamp }
                    stamp := s.stamp + 1 }
  let s := firstContext s a { heartChip := hearts.1, heartShared := hearts.2 }
  let s := (List.range 8).foldl (fun s n => clearUnder s p n) s
  let s := p.regions.foldl (fun s r => applyRegion s p r) s
  bindPlan s p

/-- Store entries of the regions that a plan's records name, written back while their channels are still bound (Table 8.6). -/
def flushPlanned (s : State) (p : Plan) : State :=
  (List.range 8).foldl
    (fun s n => ((getMpe s n).rt.filter fun e => e.2.owner == p.accord && p.regions.any fun r => r.id == e.2.id).foldl
      (fun s e => flushRegion s n e.2) s) s

/-- A delta applied (R85, R86): releases before additions. -/
def applyDelta (s : State) (p : Plan) (rs : List ImgRec) (d : BitVec 384) : State :=
  let a := p.accord
  let old := getAccord s a
  let s := flushPlanned s p
  let s := releaseOf s .channel a p.channels
  let s := releaseOf s .coreGroup a (p.groups.map (·.1))
  let s := releaseOf s .port a (p.ports.map (·.1))
  let digest := sha384W (toBE old.d.toNat 48 ++ toBE d.toNat 48)
  let s := updAccord s a fun x =>
    { p.conf with
      d := digest, deltaSeq := x.deltaSeq + 1, deltaPending := true, ctx := x.ctx, flacon := x.flacon
      sealCounter := x.sealCounter, ownerEvents := x.ownerEvents, lastUse := x.lastUse }
  let s := (List.range 8).foldl (fun s n => clearUnder s p n) s
  let s := p.regions.foldl (fun s r => applyRegion s p r) s
  let s := bindPlan s p
  (recsOf rs 0x870).foldl (fun s r => (startInvalidation s a [fld (wd r.words 1) 3 0] none none none []).1) s

/-! ## Accords that become LIVE or FREE -/

/-- Resources bound to be of accord `a` but not yet: binds queued for it. -/
def bindsQueued (s : State) (a : Nat) : Bool :=
  [ResKind.channel, .port, .coreGroup].any fun k => (resTab s k).any fun e => e.2.pending.any fun p => p.accord == a

/-- Ports that accord `a` shared and gave up, where a stream of it is still to close. -/
def sharedLeaving (s : State) (a : Nat) : Bool :=
  !(streamsWhere s fun p x => x.accord == a && !(getRes s .port p).owners.contains a).isEmpty

/-- Resources of accord `a` on their way through DRAIN and ERASE; with `own`, only those that no unbind command waits for. -/
def leaving (s : State) (a : Nat) (own : Bool) : Bool :=
  sharedLeaving s a || [ResKind.channel, .port, .coreGroup].any fun k => (resTab s k).any fun e =>
    (e.2.state == .drain || e.2.state == .erase) && e.2.owners.contains a && !(own && !(unbindWaiters s k e.1).isEmpty)

/-- Regions of accord `a` still being filled or rewritten. -/
def regionsBusy (s : State) (a : Nat) : Bool :=
  (List.range 8).any fun n => (getMpe s n).rt.any fun e => e.2.owner == a && e.2.busy

/-- R71: the counter lines of the accord's pins brought into the counter cache. -/
def loadPins (s : State) (a : Nat) : State :=
  (getAccord s a).pins.foldl
    (fun s p => (List.range (64 * p.len)).foldl (fun s i => ensureCourse s p.stack (p.base * 256 + 4 * i)) s) s

/-- The image command of accord `a`. -/
def imageCommand (s : State) (a : Nat) : Option Nat :=
  (s.started.find? fun e => match e.2.wait with
    | .imageApply b => b == a
    | _ => false).map (·.1)

/-- The accord's gateway counters start at 1 and its applied maps are empty (R284, R290). -/
def clearGateways (s : State) (a : Nat) : State :=
  updAccord s a fun x => { x with farRoute := [], farSeq := [], farRsp := [], farPrev := [], farRx := [] }

/-- The primary session of accord `a` with its queue (R96); none when an index is short. -/
def makePrimary (s : State) (a : Nat) : Option (State × ObjRef) :=
  match freeIndex s .session, freeIndex s .queue with
  | some i, some q =>
    let x : Session := { world := .tenant, accord := a, primary := true, creator := i, dref := 1 }
    let y : Queue := { session := i }
    some (updAccord { s with sessions := tset s.sessions i x, queues := tset s.queues q y } a
      (fun z => { z with primary := some i }), { type := .session, index := i })
  | _, _ => none

/-- COMPOSING to LIVE (R83, R96); the accord key is drawn now (R391). (DEDUCED, log entry 62) -/
def goLive (s : State) (a : Nat) : State :=
  let s := loadPins s a
  let (s, key) := drawFresh s 88
  let s := updAccord s a fun x =>
    { x with state := .live, accordKey := some key, hostSeq := 1, bounceNext := 0 }
  let s := clearGateways s a
  let cmd := imageCommand s a
  match makePrimary s a with
  | some (s, r) => finishOpt s cmd .ok 0 (handle s r)
  | none => finishOpt s cmd .limit 0 0

/-- Whether a session of another accord or world holds a fence: in its reference list or in a fetched command, started or not (R113). -/
def fenceHeldOutside (s : State) (a i : Nat) : Bool :=
  let r : ObjRef := { type := .fence, index := i }
  s.sessions.any fun e =>
    !(e.2.world == .tenant && e.2.accord == a) &&
      (refsOf e.2 r != 0
        || (s.queues.any fun q => q.2.session == e.1 && q.2.fetched.any fun f => f.refs.contains r)
        || s.started.any fun c => c.2.session == e.1 && c.2.refs.contains r)

/-- The objects of accord `a` torn down, whatever their counts (R113). -/
def tearObjects (s : State) (a : Nat) : State :=
  let sessions := (s.sessions.filter fun e => e.2.world == .tenant && e.2.accord == a).map (·.1)
  let s := sessions.foldl (fun s i => tearSession (signalerLost (releaseRefs s i) i) i) s
  let regions := (s.regions.filter fun e => e.2.accord == a).map (·.1)
  let s := regions.foldl (fun s i => tearRegion (dropRefs s { type := .region, index := i }) i) s
  let keys := (s.keyObjs.filter fun e => objAccord s { type := .key, index := e.1 } == a).map (·.1)
  let s := keys.foldl (fun s i => tearKey (dropRefs s { type := .key, index := i }) i) s
  let fences := (s.fences.filter fun e => e.2.accord == a && !fenceHeldOutside s a e.1).map (·.1)
  let s := fences.foldl (fun s i => tearFence (dropRefs s { type := .fence, index := i }) i) s
  -- a fence that stays belongs to no accord any more
  { s with fences := tmap s.fences fun _ f => { f with accord := if f.accord = a then 0 else f.accord } }

/-- Commands that wait for accord `a` to be FREE. -/
def freeWaiters (s : State) (a : Nat) : List Nat :=
  (s.started.filter fun e => match e.2.wait with
    | .retire b => b == a
    | .rung2 b => b == a
    | _ => false).map (·.1)

/-- RETIRING to FREE (R50, R113): objects, extents (R302), and the index itself. The commands that waited complete first, so
that one of the accord's own writes its entry while its queue is there. -/
def freeAccord (s : State) (a : Nat) : State :=
  let s := (freeWaiters s a).foldl (fun s id => finish s id .ok 0 0) s
  let s := tearObjects s a
  let gid := (getAccord s a).gid
  let s := (List.range 8).foldl (fun s n => updMpe s n fun m => { m with rt := m.rt.filter fun e => e.2.owner != a }) s
  let s := clearGateways { s with extents := s.extents.filter fun x => x.gid != gid
                                  hpe := { s.hpe with counters := s.hpe.counters.filter fun c => c.2.gid != gid } } a
  { s with accords := tset s.accords a {}
           frs := { s.frs with active := s.frs.active.filter fun d => d != .rung2 a } }

/-- One accord moved on, if what it waits for has come about. -/
def advanceAccord (s : State) (a : Nat) : State :=
  let x := getAccord s a
  match x.state with
  | .composing =>
    if bindsQueued s a || regionsBusy s a then s
    else
      -- a context that was spilled while binds were queued comes back first (R62)
      let (s, resident) := makeResident s a
      -- and the accord key needs the DRBG (R145; DEDUCED, log entry 62)
      if resident && !noEntropy s then goLive s a else s
  | .live =>
    -- invalidations of a delta's new roots belong to no command and no fence (R313)
    let roots : Bool := s.invalidations.any fun v => v.2.accord == a && v.2.cmd.isNone && v.2.fence.isNone && s.hpe.moveInv != some v.1
    if x.deltaPending && !roots && !bindsQueued s a && !regionsBusy s a && !leaving s a true then
      let s := loadPins (updAccord s a fun x => { x with deltaPending := false }) a
      finishOpt s (imageCommand s a) .ok 0 0
    else s
  | .retiring => if leaving s a false then s else freeAccord s a
  | .free => s

/-- Every accord moved on. -/
def advanceAccords (s : State) : State :=
  let s := fillWaiting s
  (s.accords.map (·.1)).foldl (fun s a => if a < 2 then s else advanceAccord s a) s

/-- Phase 2 and the application of the image of started command `id` (R81, R82). -/
def commitImage (s : State) (id : Nat) (image : List Word) (m d : BitVec 384) (hearts : Bytes × Bytes) : State :=
  match phase2 s image with
  | .error (code, off) => finish s id .rejected (imgDetail off code) 0
  | .ok p =>
    if !p.delta && ((freeIndex s .session).isNone || (freeIndex s .queue).isNone) then finish s id .limit 0 0
    else
      let s := if p.delta then applyDelta s p (recordsOf image) d else applyFull s p m d hearts
      advanceAccords (setWait s id (.imageApply p.accord))

/-- IMAGE_COMMIT: the commit of an image that passed phase 1. (DESIGN CHOICE, log entry 61) -/
def execImageCommit (id : Nat) (s : State) : Host.Outcome State Fault Refusal :=
  match tget s.started id with
  | none => .next s
  | some c => match c.wait with
    | .imageChecked image m d hc hs => if live s then .next (settleAll (commitImage s id image m d (hc, hs))) else .next s
    | _ => .next s

/-- ERASE_COMPLETE: a resource has passed ERASE; a core group also needs its ST_CG_CLEAR_ACK (R57). -/
def execEraseComplete (k : ResKind) (i : Nat) (s : State) : Host.Outcome State Fault Refusal :=
  if running s ∧ (getRes s k i).state = .erase ∧ (k = .coreGroup → (getCore s i).clearReq = false) then
    .next (settleAll (advanceAccords (endErase s k i)))
  else .next s

/-! ## Seal rewrites -/

/-- What a class R retire of an accord on a stack, or a command on one region, still waits for when the rewrite of `rt`
ends (R196, R198). -/
def rewriteWaiters (s : State) (n rt : Nat) : List (Nat × Started) :=
  s.started.filter fun e => match e.2.wait with
    | .sealRewrite n' rt' => n' == n && rt' == rt
    | _ => false

/-- RESULT of a command that ends with a region's rewrite: ALLOCATE answers the region. -/
def rewriteResult (s : State) (n rt : Nat) (c : Started) : Word :=
  if opOf c.words = 0x18 then handleOpt s .region (regionObject s n rt) else 0

/-- Class R retires whose regions are all rewritten complete (R196). -/
def finishEpochR (s : State) : State :=
  s.started.foldl
    (fun s e => match e.2.wait with
      | .epochRetire a n .r =>
        if (getMpe s n).rt.any fun x => x.2.owner == a && x.2.cls == .r && x.2.busy then s
        else if (getMpe s n).reads.any fun r => r.2.gen != (epochOf s a .r n).gen
            && ((findRegion (getMpe s n) r.2.req.brick).any fun x => x.2.cls == .r && x.2.owner == a) then s
        else finish s e.1 .ok 0 0
      | _ => s) s

/-- The rewrite of region table entry `rt` of stack `n` ends. -/
def endRewrite (s : State) (n rt : Nat) : State :=
  let waiters := rewriteWaiters s n rt
  let s := rewriteRecords s n rt
  let s := waiters.foldl (fun s e => finish s e.1 .ok 0 (rewriteResult s n rt e.2)) s
  advanceAccords (finishEpochR s)

/-- SEAL_REWRITE_COMPLETE: the record rewrite of a region that entered SEALING is done (R198). -/
def execSealRewriteComplete (m rt : Nat) (s : State) : Host.Outcome State Fault Refusal :=
  match tget (getMpe s m).rt rt with
  | none => .next s
  | some e =>
    if live s ∧ e.busy ∧ e.cls = .r ∧ regionBound s m e then .next (settleAll (endRewrite s m rt)) else .next s

end Sys2Proof.Machine
end

