-- ==== Sys2Proof/Machine/Gce.lean ====
section
/-! DEFINITION. The general cipher engine and the check-value units (chapter 13), the timeout of commands (R102, R353) and
DRBG_READ (R145). -/

namespace Sys2Proof.Machine

/-! ## Descriptors (Tables 13.1 and 13.2) -/

/-- The modes of Table 13.1. -/
inductive GceMode
  | ecb | cbc | ctr | gcm | xts | cmac | kw | sha384 | sha512 | hmac384 | hmac512
deriving DecidableEq, Repr

/-- The mode of a MODE value. -/
def gceMode : Nat → Option GceMode
  | 0x01 => some .ecb | 0x02 => some .cbc | 0x03 => some .ctr | 0x04 => some .gcm | 0x05 => some .xts
  | 0x06 => some .cmac | 0x07 => some .kw | 0x10 => some .sha384 | 0x11 => some .sha512
  | 0x12 => some .hmac384 | 0x13 => some .hmac512 | _ => none

/-- A GCE descriptor (Table 13.2). -/
structure GceDesc where
  mode : Nat
  dec : Bool
  pad : Bool
  slot : Nat
  inSp : Nat
  outSp : Nat
  tagSp : Nat
  inLen : Nat
  aadLen : Nat
  tagLen : Nat
  inA : BitVec 64
  outA : BitVec 64
  aadA : BitVec 64
  iv : Bytes
  tagA : BitVec 64
  /-- a reserved bit or byte is set -/
  reserved : Bool

/-- A descriptor read from its 64 bytes. -/
def gceDesc (b : Bytes) : GceDesc :=
  let f := leField b 1 1
  let sp := leField b 3 1
  let a (i : Nat) : BitVec 64 := BitVec.ofNat 64 (leField b i 8)
  { mode := leField b 0 1, dec := f % 2 == 1, pad := f / 2 % 2 == 1, slot := leField b 2 1, inSp := sp % 4
    outSp := sp / 4 % 4, tagSp := sp / 16 % 4, inLen := leField b 4 4, aadLen := leField b 8 4, tagLen := leField b 12 1
    inA := a 16, outA := a 24, aadA := a 32, iv := bslice b 40 16, tagA := a 56
    reserved := f / 4 != 0 || sp / 64 != 0 || (bslice b 13 3).any (· != 0) }

/-- Whether a mode is a digest. -/
def isSha (m : GceMode) : Bool := m == .sha384 || m == .sha512
/-- Whether a mode makes or checks a MAC and nothing else. -/
def isMac (m : GceMode) : Bool := m == .cmac || m == .hmac384 || m == .hmac512
/-- Whether a mode has a tag. -/
def hasTag (m : GceMode) : Bool := m == .gcm || isMac m
/-- Modes that use the IV field. -/
def hasIv (m : GceMode) : Bool := m == .cbc || m == .ctr || m == .gcm || m == .xts

/-- Whether PAD and DIR mean something for a mode. -/
def flagsFit (m : GceMode) (d : GceDesc) : Bool :=
  (!d.pad || m == .ecb || m == .cbc || m == .kw) && (!d.dec || !isSha m)

/-- Fields that Table 13.2 wants zero for a mode, or a KEY_SLOT outside its range. -/
def fieldsUnfit (m : GceMode) (d : GceDesc) : Bool :=
  (m != .gcm && (d.aadLen != 0 || d.aadA != 0))
    || (!hasTag m && (d.tagLen != 0 || d.tagA != 0))
    || (isMac m && d.outA != 0)
    || (!hasIv m && d.iv.any (· != 0))
    || (m == .gcm && (d.iv.drop 12).any (· != 0))
    || (if isSha m then d.slot != 0 else d.slot < 16)

/-- Lengths that Table 13.1 allows. -/
def lengthFits (m : GceMode) (d : GceDesc) : Bool :=
  let n := d.inLen
  let tag (lo hi : Nat) : Bool := lo ≤ d.tagLen && d.tagLen ≤ hi
  n ≤ 16777216 &&
  match m with
  | .ecb | .cbc => if d.pad then (!d.dec || (n != 0 && n % 16 == 0)) else n % 16 == 0
  | .ctr => true
  | .gcm => d.aadLen ≤ 65536 && tag 12 16
  | .xts => n ≥ 16
  | .cmac => tag 8 16
  | .kw =>
    if d.pad then (if d.dec then n % 8 == 0 && n ≥ 16 else n ≥ 1)
    else n % 8 == 0 && (if d.dec then n ≥ 24 else n ≥ 16)
  | .sha384 | .sha512 => true
  | .hmac384 => tag 16 48
  | .hmac512 => tag 16 64

/-- OUT_LEN (R350): the output area of a job. -/
def outLen (m : GceMode) (d : GceDesc) : Nat :=
  match m with
  | .sha384 => 48
  | .sha512 => 64
  | .cmac | .hmac384 | .hmac512 => 0
  | .ecb | .cbc => if d.pad && !d.dec then d.inLen + 16 - d.inLen % 16 else d.inLen
  | .kw => if d.dec then d.inLen else if d.pad then (d.inLen + 7) / 8 * 8 + 8 else d.inLen + 8
  | _ => d.inLen

/-- Whether two areas of memory share a byte. (DEDUCED, log entry 26) -/
def areasMeet (sp1 : Nat) (a1 : BitVec 64) (n1 sp2 : Nat) (a2 : BitVec 64) (n2 : Nat) : Bool :=
  sp1 == sp2 && n1 != 0 && n2 != 0 && a1.toNat < a2.toNat + n2 && a2.toNat < a1.toNat + n1

/-- R350: an overlap that is not allowed. -/
def overlaps (m : GceMode) (d : GceDesc) : Bool :=
  let out := outLen m d
  let inPlace : Bool := d.outA == d.inA && (m == .ecb || m == .cbc || m == .ctr || m == .gcm || m == .xts)
  (!inPlace && areasMeet d.outSp d.outA out d.inSp d.inA d.inLen)
    || areasMeet d.outSp d.outA out d.tagSp d.aadA d.aadLen
    || areasMeet d.tagSp d.tagA d.tagLen d.inSp d.inA d.inLen
    || areasMeet d.tagSp d.tagA d.tagLen d.tagSp d.aadA d.aadLen
    || areasMeet d.tagSp d.tagA d.tagLen d.outSp d.outA out

/-- Spaces a job uses, with the areas in them. -/
def jobAreas (m : GceMode) (d : GceDesc) : List (Nat × BitVec 64 × Nat) :=
  [(d.inSp, d.inA, d.inLen)] ++ (if isMac m then [] else [(d.outSp, d.outA, outLen m d)])
    ++ (if m = .gcm then [(d.tagSp, d.aadA, d.aadLen)] else []) ++ (if hasTag m then [(d.tagSp, d.tagA, d.tagLen)] else [])

/-! ## The work of a job -/

/-- The rejection codes of Table 13.3 used below. -/
def gceAddress : Word := 0x08
/-- TAG_FAILED. -/
def gceTagFailed : Word := 0x09
/-- PAD_INVALID. -/
def gcePadInvalid : Word := 0x0A

/-- PKCS #7 padding added. -/
def padPkcs (d : Bytes) : Bytes :=
  let n := 16 - d.length % 16
  d ++ List.replicate n (BitVec.ofNat 8 n)

/-- PKCS #7 padding checked and removed. -/
def unpadPkcs (d : Bytes) : Option Bytes :=
  let n := leField d (d.length - 1) 1
  if 1 ≤ n ∧ n ≤ 16 ∧ n ≤ d.length ∧ (d.drop (d.length - n)).all (fun x => x.toNat == n)
  then some (d.take (d.length - n)) else none

/-- What a mode makes of its input: output bytes and tag, or a rejection code. `tag` is the tag read for a check. -/
def gceCompute (m : GceMode) (d : GceDesc) (key input aad tag : Bytes) : Except Word (Bytes × Bytes) :=
  let mac (t : Bytes) : Except Word (Bytes × Bytes) :=
    let t := t.take d.tagLen
    if d.dec then (if t = tag then .ok ([], []) else .error gceTagFailed) else .ok ([], t)
  let block (f : Bytes → Bytes) : Except Word (Bytes × Bytes) :=
    if d.pad then
      if d.dec then (match unpadPkcs (f input) with
        | some o => .ok (o, [])
        | none => .error gcePadInvalid)
      else .ok (f (padPkcs input), [])
    else .ok (f input, [])
  match m with
  | .ecb => block (ecbCrypt d.dec key)
  | .cbc => block (cbcCrypt d.dec key d.iv)
  | .ctr => .ok (ctrCrypt key (bytesBlock d.iv) input, [])
  | .gcm =>
    let iv := d.iv.take 12
    if d.dec then
      if (gcmTag key iv aad input).take d.tagLen = tag then .ok (gcmCrypt key iv input, []) else .error gceTagFailed
    else
      let c := gcmCrypt key iv input
      .ok (c, (gcmTag key iv aad c).take d.tagLen)
  | .xts => .ok (xtsCrypt d.dec key d.iv input, [])
  | .cmac => mac (cmac key input)
  | .kw =>
    if d.dec then (match (if d.pad then kwpUnwrap key input else kwUnwrap key input) with
      | some o => .ok (o, [])
      | none => .error gceTagFailed)
    else .ok (if d.pad then kwpWrap key input else kwWrap key input, [])
  | .sha384 => .ok (sha384 input, [])
  | .sha512 => .ok (sha512 input, [])
  | .hmac384 => mac (hmac sha384 key input)
  | .hmac512 => mac (hmac sha512 key input)

/-- The KSF checks of R346. -/
def gceKey (s : State) (x : Session) (m : GceMode) (d : GceDesc) : Except Word Bytes :=
  if isSha m then .ok []
  else
    let k := getSlot s d.slot
    let len := k.key.length
    let fits : Bool := match m with
      | .hmac384 | .hmac512 => 16 ≤ len && len ≤ 64
      | .xts => len == 64
      | _ => len == 32
    let use := if isMac m then useMac else if m = .kw then (if d.dec then useUnwrap else useWrap)
               else (if d.dec then useDecrypt else useEncrypt)
    if k.state = .empty then .error 0x06
    else if k.state ≠ .staged ∧ !fits then .error 0x06
    else if !mayServe s x k masterGce use then .error 0x07
    else .ok k.key

/-- Whether a failure overwrites the output area with zeros (R353): decrypt and unwrap jobs. -/
def zeroFills (m : GceMode) (d : GceDesc) : Bool := d.dec && !isMac m && !isSha m

/-- The output area of a failed decrypt or unwrap job overwritten with zeros. (DEDUCED, log entry 26) -/
def zeroOutput (s : State) (x : Session) (id : Nat) (d : GceDesc) : State :=
  match spaceOf d.outSp with
  | some sp => (writeSpace s x sp d.outA (zeros d.inLen) (.command id)).1
  | none => s

/-- Bytes of an area, none when the read was refused; an empty area is not read. -/
def readArea (s : State) (x : Session) (sp : Nat) (a : BitVec 64) (n : Nat) : State × Option Bytes :=
  if n = 0 then (s, some [])
  else match spaceOf sp with
    | some sp => readSpace s x sp a n
    | none => (s, none)

/-- Bytes written to an area; an empty area is not written. -/
def writeArea (s : State) (x : Session) (sp : Nat) (a : BitVec 64) (b : Bytes) (id : Nat) : State × Bool :=
  if b.isEmpty then (s, true)
  else match spaceOf sp with
    | some sp => writeSpace s x sp a b (.command id)
    | none => (s, false)

/-- The check of an area's space (R345, R400): SPACE, or NO_ACCESS outside the staging area. (DEDUCED, log entry 26) -/
def areaCheck (x : Session) (a : Nat × BitVec 64 × Nat) : Option (Status × Word) :=
  match spaceCheck x (spaceOf a.1) a.2.1.toNat a.2.2 with
  | some .noAccess => some (.noAccess, 0)
  | some _ => some (.rejected, 0x04)
  | none => none

/-- How a job ends: status, DETAIL and RESULT. -/
abbrev JobEnd := Status × Word × Word

/-- A job that ended REJECTED. -/
def jobReject (code : Word) : JobEnd := (.rejected, code, 0)

/-- The descriptor's own checks, in the order of Table 13.3. (DEDUCED, log entry 26) -/
def descCheck (x : Session) (d : GceDesc) : Except JobEnd GceMode :=
  if d.reserved then .error (jobReject 0x01)
  else match gceMode d.mode with
    | none => .error (jobReject 0x02)
    | some m =>
      if !flagsFit m d then .error (jobReject 0x02)
      else if fieldsUnfit m d then .error (jobReject 0x01)
      else if !lengthFits m d then .error (jobReject 0x03)
      else match (jobAreas m d).findSome? (areaCheck x) with
        | some (st, code) => .error (st, code, 0)
        | none => if overlaps m d then .error (jobReject 0x05) else .ok m

/-- The data of a job read, transformed and written. -/
def runData (s : State) (x : Session) (id : Nat) (m : GceMode) (d : GceDesc) (key : Bytes) : State × JobEnd :=
  let fail (s : State) (code : Word) : State × JobEnd :=
    (if zeroFills m d then zeroOutput s x id d else s, jobReject code)
  let (s, input) := readArea s x d.inSp d.inA d.inLen
  let (s, aad) := readArea s x d.tagSp d.aadA (if m = .gcm then d.aadLen else 0)
  let (s, tag) := readArea s x d.tagSp d.tagA (if hasTag m && d.dec then d.tagLen else 0)
  match input, aad, tag with
  | some input, some aad, some tag =>
    match gceCompute m d key input aad tag with
    | .error code => fail s code
    | .ok (out, t) =>
      match writeArea s x d.outSp d.outA out id with
      | (s, false) => fail s gceAddress
      | (s, true) =>
        match writeArea s x d.tagSp d.tagA t id with
        | (s, false) => fail s gceAddress
        | (s, true) => (s, (.ok, 0, BitVec.ofNat 32 out.length))
  | _, _, _ => fail s gceAddress

/-- The descriptor of a GCE_RUN: its reserved bits, its space, and its 64 bytes, read once (R345). -/
def readDesc (s : State) (x : Session) (w : List Word) : State × Except JobEnd Bytes :=
  let a : BitVec 64 := wd2 w 8 &&& ~~~(0x3F : BitVec 64)
  let sp := fld (wd w 8) 1 0
  if fld (wd w 8) 5 2 ≠ 0 then (s, .error (jobReject 0x01))
  else match areaCheck x (sp, a, 64) with
    | some (st, code) => (s, .error (st, code, 0))
    | none => match readArea s x sp a 64 with
      | (s, some b) => (s, .ok b)
      | (s, none) => (s, .error (jobReject gceAddress))

/-- The counters of Table 13.5. -/
def countJob (s : State) (st : Status) (detail : Word) : State :=
  let g := s.gce
  { s with gce :=
      if st = .ok then { g with done := (g.done + 1) % 2 ^ 32 }
      else if st = .rejected ∧ detail = gceTagFailed then { g with tagFailed := satAdd 16 g.tagFailed 1 }
      else { g with other := satAdd 16 g.other 1 } }

/-- GCE_RUN: the job joins the queue (R344). -/
def gceRunEff (id : Nat) (_c : Started) (s : State) : Eff :=
  .wait .gceQueued { s with gce := { s.gce with jobs := s.gce.jobs ++ [id] } }

/-- GCE_RUN. -/
def execGceRun (q : Nat) (s : State) : Host.Outcome State Fault Refusal := runCommand 0x30 q gceRunEff s

/-- What a job that is to run needs, or how it ends at once: its descriptor and its key, with the checks of Table 13.3 in the table's
order. (DEDUCED, log entry 26) -/
def prepareJob (s : State) (id : Nat) (c : Started) : State × Except JobEnd GceRun :=
  let x := sessionOf s c
  if noEntropy s then (s, .error (jobReject 0x0B))
  else match readDesc s x c.words with
    | (s, .error e) => (s, .error e)
    | (s, .ok b) =>
      let d := gceDesc b
      match descCheck x d with
      | .error e => (s, .error e)
      | .ok m => match gceKey s x m d with
        | .error code => (s, .error (jobReject code))
        | .ok key => (s, .ok { job := id, slot := d.slot, key := key, desc := b })

/-- A job whose GCE_RUN is started ends: counted, and completed. -/
def endsWith (s : State) (id : Nat) (e : JobEnd) : State := finish (countJob s e.1 e.2.1) id e.1 e.2.1 e.2.2

/-- The oldest queued job begins: it binds to the half of its slot that is active now (R130, R344), or ends at once. -/
def beginJob (s : State) : State :=
  match s.gce.jobs with
  | [] => s
  | id :: rest =>
    let s := { s with gce := { s.gce with jobs := rest } }
    match tget s.started id with
    | none => s
    | some c => match prepareJob s id c with
      | (s, .error e) => endsWith s id e
      | (s, .ok r) => bindSlot { s with gce := { s.gce with running := some r } } r.slot id

/-- The running job let go of: the GCE is free, and the slot's half is released (R130). -/
def dropRunning (s : State) : State :=
  match s.gce.running with
  | none => s
  | some r => releaseSlot { s with gce := { s.gce with running := none } } r.slot r.job

/-- The running job ends: its data is read, transformed and written, under the key it began with. -/
def endJob (s : State) : State :=
  match s.gce.running with
  | none => s
  | some r =>
    let d := gceDesc r.desc
    match tget s.started r.job, gceMode d.mode with
    | some c, some m =>
      let (s, e) := runData s (sessionOf s c) r.job m d r.key
      endsWith (dropRunning s) r.job e
    | _, _ => dropRunning s

/-- GCE_JOB_START: the running job, if any, ends first, since jobs run one at a time; then the oldest queued job begins (R344).
(DESIGN CHOICE, log entry 26) -/
def startJob (s : State) : State := beginJob (endJob s)

/-- GCE_JOB_START. -/
def execGceJobStart (s : State) : Host.Outcome State Fault Refusal :=
  if live s then .next (settleAll (startJob s)) else .next s

/-- Every job of the GCE, the running one first. -/
def allJobs (s : State) : List Nat := (s.gce.running.map (·.job)).toList ++ s.gce.jobs

/-- The output of a decrypt or unwrap job that fails becomes zeros (R353). -/
def zeroFailed (s : State) (id : Nat) (c : Started) (b : Bytes) : State :=
  match gceMode (gceDesc b).mode with
  | some m => if zeroFills m (gceDesc b) then zeroOutput s (sessionOf s c) id (gceDesc b) else s
  | none => s

/-- R353 for a job cut short by its timeout or by a partition reset: counted, and a decrypt or unwrap job's output becomes zeros. A
queued job reads its descriptor to know its output area. (DEDUCED, log entry 26) -/
def cutJob (s : State) (id : Nat) (c : Started) : State :=
  let s := countJob s .timeout 0
  match s.gce.running with
  | some r =>
    if r.job = id then dropRunning (zeroFailed s id c r.desc) else cutQueued s
  | none => cutQueued s
where
  /-- a job that has not begun -/
  cutQueued (s : State) : State :=
    let s := { s with gce := { s.gce with jobs := s.gce.jobs.filter (· != id) } }
    match readDesc s (sessionOf s c) c.words with
    | (s, .error _) => s
    | (s, .ok b) => match descCheck (sessionOf s c) (gceDesc b) with
      | .error _ => s
      | .ok _ => zeroFailed s id c b

/-- R352: with the DRBG stopped, the running job fails under R353, and every job that has not begun ends REJECTED with
ENTROPY_FAIL. -/
def failJobs (s : State) : State :=
  let ids := allJobs s
  let s := match s.gce.running with
    | none => s
    | some r => match tget s.started r.job with
      | some c => zeroFailed s r.job c r.desc
      | none => s
  let s := dropRunning { s with gce := { s.gce with jobs := [] } }
  ids.foldl (fun s id => if (tget s.started id).isSome then endsWith s id (jobReject 0x0B) else s) s

/-- R354: every job ends ABORTED, the running one too. -/
def abortJobs (s : State) : State :=
  let ids := allJobs s
  let s := dropRunning { s with gce := { s.gce with jobs := [] } }
  ids.foldl (fun s id => if (tget s.started id).isSome then endsWith s id (.aborted, 0, 0) else s) s

/-- COMMAND_TIMEOUT: the command of queue `q` started from ring slot `ring` reaches its queue's timeout (R102). A GCE job is
cut short, and so is not kept running. -/
def expire (s : State) (q ring : Nat) : State :=
  match s.started.find? fun e => e.2.queue == q && e.2.ring == ring && !e.2.timedOut with
  | none => s
  | some (id, c) =>
    -- the wait for the step does not count (R385)
    if c.wait = .watch ∧ s.dbg.holding = none then s
    else
    let job : Bool := (allJobs s).contains id
    let s := if job then cutJob s id c else s
    let s := timeoutCommand s id c
    if job then { s with started := tdel s.started id } else s

/-- COMMAND_TIMEOUT. (DESIGN CHOICE, log entry 13; DESIGN CHOICE, log entry 38) -/
def execCommandTimeout (q ring : Nat) (s : State) : Host.Outcome State Fault Refusal :=
  if running s then .next (settleAll (expire s q ring)) else .next s

/-- DRBG_READ (R145). -/
def execDrbgRead (q : Nat) (s : State) : Host.Outcome State Fault Refusal := runCommand 0x31 q drbgReadEff s

/-! ## Check-value units (R356 to R361) -/

/-- CVU `n`. -/
def getCvu (s : State) (n : Nat) : Cvu := tgetD s.cvus n {}
/-- CVU `n` replaced. -/
def setCvu (s : State) (n : Nat) (c : Cvu) : State := { s with cvus := tset s.cvus n c }

/-- R359: which worlds may write a unit. -/
def cvuMayWrite (w : World) (n : Nat) : Bool :=
  n < 4 && (w == .root || (n ≥ 2 && (w == .host || w == .debug)))

/-- A write of CVU_CTRL (R358); a reserved POLY has no effect. -/
def cvuControl (c : Cvu) (poly : Nat) (init : Bool) : Cvu :=
  match crcParams poly with
  | none => c
  | some (w, _, first, _, _) =>
    let c := { c with poly := BitVec.ofNat 3 poly }
    if init then { c with value := BitVec.ofNat 64 first, count := 0 }
    else { c with value := BitVec.ofNat 64 (c.value.toNat % 2 ^ w) }

/-- Bytes fed (R357), in order. -/
def cvuFeed (c : Cvu) (d : Bytes) : Cvu :=
  match crcParams c.poly.toNat with
  | none => c
  | some (w, poly, _, refl, _) =>
    { c with value := BitVec.ofNat 64 (d.foldl (crcByte w poly refl) c.value.toNat)
             count := c.count + BitVec.ofNat 32 d.length }

/-- RESULT (R356). -/
def cvuResult (c : Cvu) : Nat :=
  match crcParams c.poly.toNat with
  | none => 0
  | some (_, _, _, _, x) => c.value.toNat.xor x

/-- A write to unit `n` by world `w`, when it is admitted. -/
def cvuWrite (w : World) (n : Nat) (f : Cvu → Cvu) (s : State) : Host.Outcome State Fault Refusal :=
  if running s ∧ cvuMayWrite w n then .next (settle (setCvu s n (f (getCvu s n)))) else .next s

/-- CVU_INIT: a write of CVU_CTRL with INIT set. -/
def execCvuInit (w : World) (n : Nat) (value : BitVec 32) (s : State) : Host.Outcome State Fault Refusal :=
  cvuWrite w n (fun c => cvuControl c (fld value 2 0) true) s

/-- CVU_POLY_SWITCH: a write of CVU_CTRL with INIT clear. -/
def execCvuPolySwitch (w : World) (n : Nat) (value : BitVec 32) (s : State) : Host.Outcome State Fault Refusal :=
  cvuWrite w n (fun c => cvuControl c (fld value 2 0) false) s

/-- CVU_FEED8. -/
def execCvuFeed8 (w : World) (n : Nat) (value : BitVec 32) (s : State) : Host.Outcome State Fault Refusal :=
  cvuWrite w n (fun c => cvuFeed c (toLE value.toNat 1)) s

/-- CVU_FEED16. -/
def execCvuFeed16 (w : World) (n : Nat) (value : BitVec 32) (s : State) : Host.Outcome State Fault Refusal :=
  cvuWrite w n (fun c => cvuFeed c (toLE value.toNat 2)) s

/-- CVU_FEED32. -/
def execCvuFeed32 (w : World) (n : Nat) (value : BitVec 32) (s : State) : Host.Outcome State Fault Refusal :=
  cvuWrite w n (fun c => cvuFeed c (toLE value.toNat 4)) s

end Sys2Proof.Machine
end

