-- ==== Sys2Proof/Machine/Retire.lean ====
section
/-! DEFINITION. An accord leaving LIVE (R50, R51, R113, R413): ACCORD_RETIRE, PARTITION_RESET and rung 2 share it. -/

namespace Sys2Proof.Machine

/-- Whether a started command belongs to a session of accord `a`. -/
def ofAccord (s : State) (a : Nat) (c : Started) : Bool :=
  (tget s.sessions c.session).any fun x => x.world == .tenant && x.accord == a

/-- R113: every fence of the accord that is still ACTIVE goes to ERROR with PARTITION_RESET. -/
def failFences (s : State) (a : Nat) : State :=
  let s := applyFences s
  applyFences ((s.fences.filter fun e => e.2.accord == a && e.2.code.isNone).foldl (fun s e => frsFenceError s e.1 0x0D) s)

/-- The jobs of the accord that run or wait in the GCE, cut short (R353). (DEDUCED, log entry 16) -/
def cutJobs (s : State) (a : Nat) : State :=
  (allJobs s).foldl
    (fun s id => match tget s.started id with
      | some c => if ofAccord s a c then cutJob s id c else s
      | none => s) s

/-- R413 steps 1 and 2 on the accord's queues: nothing more is fetched, what is fetched is discarded, and its started
commands end ABORTED. `own` is an ACCORD_RETIRE of the accord itself, which goes on. -/
def haltQueues (s : State) (a : Nat) (own : Option Nat) : State :=
  let qs := (s.queues.filter fun e => (tget s.sessions e.2.session).any fun x => x.world == .tenant && x.accord == a).map (·.1)
  let s := { s with queues := tmap s.queues fun i q => if qs.contains i then { q with noFetch := true } else q }
  let ids := (s.started.filter fun e => some e.1 != own && ofAccord s a e.2).map (·.1)
  let s := ids.foldl (fun s id => finishWith s id .aborted 0 0 (some 0x0D)) s
  qs.foldl discardFetched s

/-- Commands of other sessions that wait for something of the accord which will not come: its image, a stream of it
that was opening, a harvest walk on its bricks. (DEDUCED, log entry 16) -/
def abortWaiters (s : State) (a : Nat) : State :=
  let ids := (s.started.filter fun e => match e.2.wait with
    | .imageApply b => b == a
    | .streamOpen n => (getStream s (n / 256) (n % 256)).accord == a
    | .harvest n => (getMpe s n).walk.any fun w => w.accord == a
    | _ => false).map (·.1)
  ids.foldl (fun s id => finish s id .aborted 0 0) s

/-- What the engines hold for the accord, given up: streams, store entries, translations, epoch passes, walks, bounce
sessions and VF bindings. -/
def dropEngines (s : State) (a : Nat) : State :=
  let s := closeAccordStreams s a
  let s := (List.range 8).foldl
    (fun s n =>
      let s := invalidateStore s n fun _ e => e.owner == a
      updMpe s n fun m =>
        { m with passes := m.passes.filter fun p => p.accord != a
                 walk := if m.walk.any fun w => w.accord == a then none else m.walk }) s
  let s := dropAccordPages (dropAccordOtus s a) a
  { s with hpe := { s.hpe with
      sessions := s.hpe.sessions.filter fun b => b.accord != a
      vfs := tmap s.hpe.vfs fun _ v => if v.bound = some a then { v with bound := none } else v } }

/-- R413 step 4: queued binds of the accord are given up, and every resource it holds goes into DRAIN. A port it shares only
loses this owner. -/
def drainAccord (s : State) (a : Nat) : State :=
  [ResKind.channel, .port, .coreGroup].foldl
    (fun s k => (resTab s k).foldl
      (fun s e =>
        let s := if (getRes s k e.1).pending.any fun p => p.accord == a then abortPending s k e.1 else s
        let r := getRes s k e.1
        if r.state = .bound ∧ r.owners.contains a then
          if r.owners.length > 1 then updRes s k e.1 fun r => { r with owners := r.owners.filter (· != a) }
          else startDrain s k e.1
        else s) s) s

/-- An accord that is COMPOSING or LIVE enters RETIRING (R51); ROOT and OPEN never do, and one that is RETIRING goes
on. (DEDUCED, log entry 16) -/
def retireAccord (s : State) (a : Nat) (own : Option Nat) : State :=
  let st := (getAccord s a).state
  if a < 2 ∨ st = .free ∨ st = .retiring then s
  else
    let s := cutJobs s a
    let s := updAccord s a fun x => { x with state := .retiring, ownerEvents := 0, accordKey := none, deltaPending := false }
    let s := failFences s a
    let s := haltQueues s a own
    let s := abortWaiters s a
    let s := retireKeys s a
    let s := dropEngines s a
    advanceAccords (drainAccord s a)

/-- The accord that ACCORD_RETIRE or PARTITION_RESET names, or the status it fails with. (DEDUCED, log entry 12) -/
def namedAccord (s : State) (c : Started) : Except Status Nat :=
  let x := sessionOf s c
  let a := fld (wd c.words 8) 9 0
  if a < 2 ∨ (getAccord s a).state = .free then .error .badOperand
  else if x.world = .tenant ∧ a ≠ x.accord then .error .noAccess
  else .ok a

/-- ACCORD_RETIRE: completes when the accord is FREE, which may be at once. -/
def accordRetireEff (id : Nat) (c : Started) (s : State) : Eff :=
  match namedAccord s c with
  | .error e => .fail e s
  | .ok a => .wait (.retire a) (retireAccord (setWait s id (.retire a)) a (some id))

/-- ACCORD_RETIRE (R50, R51). -/
def execAccordRetire (q : Nat) (s : State) : Host.Outcome State Fault Refusal := runCommand 0x13 q accordRetireEff s

/-- Rung 2 on an accord (R413), recorded as in progress until the accord is FREE. (DEDUCED, log entry 36) -/
def runRung2 (s : State) (a : Nat) : State :=
  if a < 2 ∨ (getAccord s a).state = .free ∨ (getAccord s a).state = .retiring then s
  else
    let s := { s with frs := { s.frs with active := s.frs.active ++ [.rung2 a], lastRung2 := a } }
    retireAccord s a none

/-- PARTITION_RESET: rung 2 asked for by a command; it completes when the accord is FREE. -/
def partitionResetEff (id : Nat) (c : Started) (s : State) : Eff :=
  match namedAccord s c with
  | .error e => .fail e s
  | .ok a => .wait (.rung2 a) (runRung2 (setWait s id (.rung2 a)) a)

/-- PARTITION_RESET (R413). -/
def execPartitionReset (q : Nat) (s : State) : Host.Outcome State Fault Refusal := runCommand 0x14 q partitionResetEff s

end Sys2Proof.Machine
end

