-- ==== Sys2Proof/Machine/Store.lean ====
section
/-! DEFINITION. Room in the coalescing store for a fill (R223). -/

namespace Sys2Proof.Machine

/-- Whether a fill found a way. -/
inductive Room
  | ok
  /-- every way is HELD or in use -/
  | wait
  /-- every way is HELD -/
  | held
deriving DecidableEq, Repr

/-- The entries of the set that stretcher `x` belongs to. -/
def setOf (m : Mpe) (x : Nat) : Tab StoreEntry := m.store.filter fun e => storeSet e.1 == storeSet x

/-- Whether an entry belongs to a region with SCHED set. -/
def schedEntry (m : Mpe) (e : StoreEntry) : Bool := (tget m.rt e.rt).any (·.sched)

/-- The least recently used VALID entry of a list. -/
def lruValid (l : Tab StoreEntry) : Option Nat :=
  ((l.filter fun e => e.2.state == .valid).foldl
    (fun (b : Option (Nat × Nat)) e => match b with
      | none => some (e.1, e.2.lastUse)
      | some (_, u) => if e.2.lastUse < u then some (e.1, e.2.lastUse) else b)
    none).map (·.1)

/-- The entry that a fill of stretcher `x` replaces, where the set or its SCHED share is full. -/
def storeVictim (m : Mpe) (x : Nat) (sched : Bool) : Option Nat :=
  let l := setOf m x
  let hot := l.filter fun e => schedEntry m e.2
  if sched && hot.length ≥ 6 then lruValid hot
  else match lruValid (l.filter fun e => !schedEntry m e.2) with
    | some v => some v
    | none => lruValid l

/-- Whether the set has a free way for a fill. -/
def freeWay (m : Mpe) (x : Nat) (sched : Bool) : Bool :=
  let l := setOf m x
  l.length < 8 && !(sched && (l.filter fun e => schedEntry m e.2).length ≥ 6)

/-- Room made for a fill of stretcher `x` in class `qos`; the victim is written back first, and one whose write-back is refused
stays HELD while the next is tried. Only a set whose ways are all HELD refuses the fill. -/
def makeRoom (s : State) (n x : Nat) (sched : Bool) (qos : Qos) : State × Room :=
  (List.range 9).foldl
    (fun (r : State × Room) _ =>
      let m := getMpe r.1 n
      if r.2 ≠ .wait ∨ freeWay m x sched then (r.1, if r.2 = .wait then .ok else r.2)
      else match storeVictim m x sched with
        | none =>
          let l := setOf m x
          (r.1, if l.length ≥ 8 && l.all fun e => e.2.state == .held then .held else .wait)
        | some v =>
          let s := writeBackEntry r.1 n v qos
          match storeEntry s n v with
          | some en => if en.state = .held ∨ en.dirty then (s, .wait) else (dropEntry s n v, .wait)
          | none => (s, .wait))
    (s, .wait)

end Sys2Proof.Machine
end

