-- ==== Sys2Proof/Machine/Regions.lean ====
section
/-! DEFINITION. Commands on regions (opcodes 0x18 to 0x1E), epoch passes, harvest walks, pinned write-backs and the
bandwidth window (R67, R68, R114, R115, R193, R195 to R205, R232 to R234). -/

namespace Sys2Proof.Machine

/-! ## ALLOCATE -/

/-- Whether the bricks from `b` on, `n` of them, are free bricks of accord `a` on stack `k` (R114). (DEDUCED, log entry 57) -/
def runFree (s : State) (a k b n : Nat) : Bool :=
  let hi := b + n - 1
  hi ≤ maxBrick
    && (List.range 32).all (fun c => !(chanOf b ≤ c && c ≤ chanOf hi) || boundTo s .channel (32 * k + c) a)
    && (getMpe s k).rt.all fun e => hi < e.2.base || e.2.limit < b

/-- The lowest run of `n` free bricks at or above `lo`: a lowest run starts at `lo`, at a channel's first brick, or
after a region. (DEDUCED, log entry 57) -/
def lowestRun (s : State) (a k n lo : Nat) : Option Nat :=
  let starts := lo :: ((List.range 32).map fun c => c * channelBricks) ++ (getMpe s k).rt.map fun e => e.2.limit + 1
  (starts.filter fun b => lo ≤ b && runFree s a k b n).foldl
    (fun (x : Option Nat) b => match x with
      | none => some b
      | some y => some (Nat.min y b))
    none

/-- The lowest free REGION_ID of ALLOCATE. (DESIGN CHOICE, log entry 9) -/
def freeRegionId (s : State) (a : Nat) : Option Nat :=
  let used (i : Nat) : Bool := (List.range 8).any fun n => (getMpe s n).rt.any fun e => e.2.owner == a && e.2.id == i
  ((List.range 0x7FFE).map (· + 0x8000)).find? fun i => !used i

/-- ALLOCATE (R114). (DEDUCED, log entry 57) -/
def allocateEff (_id : Nat) (c : Started) (s : State) : Eff :=
  let a := (sessionOf s c).accord
  let w := wd c.words 8
  let k := fld w 2 0
  let n := (wd c.words 9).toNat
  let hint := fld (wd c.words 10) 23 0
  let sched := bit w 6
  if n = 0 then .fail .badOperand s
  else match clsOf (fld w 5 4) with
    | none => .reject 0x17 s
    | some cls =>
      if !(getAccord s a).classes.getLsbD (clsNum cls) then .reject 0x17 s
      else if sched && !(getAccord s a).scheduled then .reject 0x18 s
      else if (tfree (getMpe s k).rt 0 256).isNone then .reject 0x16 s
      else
        let run := match if hint = 0xFFFFFF then none else lowestRun s a k n hint with
          | some b => some b
          | none => lowestRun s a k n 0
        match run, freeRegionId s a with
        | none, _ => .done .limit 1 0 s
        | _, none => .done .limit 2 0 s
        | some b, some rid =>
          if !refRoom s c.session then .fail .limit s
          else
            let p : RegionPlan := { off := none, id := rid, stack := k, cls := clsNum cls, sched := sched
                                    f := BitVec.ofNat 8 (fld w 15 8), base := b, limit := b + n - 1, grants := [] }
            match addRegion s a p (some c.session) with
            | (s, none) => .fail .limit s
            | (s, some r) =>
              let s := match holdRef s c.session r with
                | .ok s => s
                | .error _ => s
              let rt := ((tget s.regions r.index).map (·.rt)).getD 0
              match cls with
              | .s => .result (handle s r) (fillRegionS s k rt)
              | .c => .result (handle s r) s
              | .r => .wait (.sealRewrite k rt) s

/-- ALLOCATE. -/
def execAllocate (q : Nat) (s : State) : Host.Outcome State Fault Refusal := runCommand 0x18 q allocateEff s

/-! ## CARVE_POOL_SET -/

/-- The region that TARGET names, with its table entry. -/
def targetRegion (s : State) (c : Started) : Option (Nat × Region × RtEntry) :=
  (targetOf s c).bind fun r => (tget s.regions r.index).bind fun g =>
    (tget (getMpe s g.stack).rt g.rt).map fun e => (r.index, g, e)

/-- CARVE_POOL_SET (R115). -/
def carvePoolSetEff (_id : Nat) (c : Started) (s : State) : Eff :=
  let cg := fld (wd c.words 8) 7 0
  let first := (wd c.words 9).toNat
  let n := (wd c.words 10).toNat
  match targetRegion s c with
  | none => .fail .staleHandle s
  | some (i, g, e) =>
    if !coreBoundTo s cg g.accord then .fail .noAccess s
    else if n = 0 then .good (clearPool s cg)
    else if first + n > e.limit + 1 - e.base then .fail .badOperand s
    else match addRef s { type := .region, index := i } .device 1 with
      | none => .fail .refOverflow s
      | some s =>
        let s := clearPool s cg
        let p : Pool := { region := i, stack := g.stack, first := e.base + first, limit := e.base + first + n - 1
                          next := e.base + first }
        .good (updCore s cg fun x => { x with pool := some p })

/-- CARVE_POOL_SET. -/
def execCarvePoolSet (q : Nat) (s : State) : Host.Outcome State Fault Refusal := runCommand 0x19 q carvePoolSetEff s

/-! ## Sealing -/

/-- REGION_SEAL_BEGIN (R198, R208). -/
def regionSealBeginEff (_id : Nat) (c : Started) (s : State) : Eff :=
  match targetRegion s c with
  | none => .fail .staleHandle s
  | some (_, g, e) =>
    if e.cls ≠ .r then .reject 0x01 s
    else
      let s := updMpe s g.stack fun m => clearLost m fun b => e.base ≤ b && b ≤ e.limit
      .wait (.sealRewrite g.stack g.rt) (startSealing s g.stack g.rt)

/-- REGION_SEAL_BEGIN. -/
def execRegionSealBegin (q : Nat) (s : State) : Host.Outcome State Fault Refusal :=
  runCommand 0x1A q regionSealBeginEff s

/-- Whether a brick of the region carries the LOST mark. -/
def regionLost (s : State) (n : Nat) (e : RtEntry) : Bool :=
  (getMpe s n).stackLost || (regionBricks e).any fun b => isLost (getMpe s n) b

/-- Whether REGION_SEAL finds a region incomplete: a stretcher begun and not ended, or a LOST mark (R200, R208). -/
def sealIncomplete (s : State) (n : Nat) (e : RtEntry) : State × Bool :=
  let (s, begun) := (regionBricks e).foldl
    (fun (x : State × Bool) b =>
      let s := ensureCourse x.1 n b
      (s, x.2 || (heldRec (getMpe s n) b).minor.any fun m => 1 ≤ m.2 && m.2 ≤ 3)) (s, false)
  (s, begun || regionLost s n e)

/-- R200 steps 1 and 2 for one brick, with the sillage entry of the sealing write (R203). -/
def sealBrick (s : State) (n : Nat) (e : RtEntry) (b : Nat) (id : Nat) : State :=
  let s := ensureCourse s n b
  if isLost (getMpe s n) b then s
  else
  let r := heldRec (getMpe s n) b
  let todo := (List.range 16).filter fun st => tgetD r.minor st 0 == 0
  let s := todo.foldl
    (fun s st => match keyR s n b st e.owner (epochOf s e.owner .r n).gen e.sealVal with
      | some k => storeStretcher s n k (zeros 256)
      | none => s) s
  let s := putRec s n b { r with minor := (List.range 16).map fun i => (i, 4), init := true }
  if todo.isEmpty then s
  else logWrite s n b { origin := .command id, accord := e.owner, op := .writeStretcher, stack := n, brick := b }

/-- REGION_SEAL (R200, R202). -/
def regionSealEff (id : Nat) (c : Started) (s : State) : Eff :=
  match targetRegion s c with
  | none => .fail .staleHandle s
  | some (_, g, e) =>
    let n := g.stack
    if e.cls ≠ .r then .reject 0x01 s
    else if e.sealState ≠ .sealing ∨ e.busy then .reject 0x02 s
    else if (getMpe s n).capState = 2 then .reject 0x03 s
    else match sealIncomplete s n e with
    | (s, true) => .reject 0x03 s
    | (s, false) => match makeResident s e.owner with
      | (s, false) => .fail .aborted s
      | (s, true) =>
        let s := (regionBricks e).foldl (fun s b => sealBrick s n e b id) s
        if regionLost s n e then .reject 0x03 s
        else .good (updEntry s n g.rt fun e => { e with sealState := .sealed })

/-- REGION_SEAL. -/
def execRegionSeal (q : Nat) (s : State) : Host.Outcome State Fault Refusal := runCommand 0x1B q regionSealEff s

/-! ## EPOCH_RETIRE and the epoch pass -/

/-- The epoch of accord `a`'s class on stack `n` changed by `f`. -/
def updEpoch (s : State) (a n : Nat) (k : Cls) (f : Epoch → Epoch) : State :=
  updAccord s a fun x => match k with
    | .r => { x with epochR := tset x.epochR n (f (tgetD x.epochR n {})) }
    | _ => { x with epochC := tset x.epochC n (f (tgetD x.epochC n {})) }

/-- Local channels of stack `n` that accord `a` binds. -/
def channelsOf (s : State) (a n : Nat) : List Nat := (List.range 32).filter fun c => boundTo s .channel (32 * n + c) a

/-- An epoch pass begun over the channels the accord binds on the stack; with none it is over at once (R197). -/
def startPass (s : State) (a n : Nat) (k : Cls) (old : Nat) : State :=
  let next := (channelsOf s a n).map fun c => (c, c * channelBricks)
  if next.isEmpty then ownerEvent (updEpoch s a n k fun e => { e with prevLive := false }) a 1
  else updMpe s n fun m => { m with passes := m.passes ++ [{ accord := a, cls := k, epoch := old % 4, next := next }] }

/-- Whether a class C read bound to an earlier generation of accord `a` is still out on stack `n` (R195). -/
def oldReadsC (s : State) (a n : Nat) : Bool :=
  (getMpe s n).reads.any fun r => r.2.cls == .c && r.2.owner == a && r.2.gen != (epochOf s a .c n).gen

/-- Class C retires whose last old read has ended complete (R195). -/
def finishEpochC (s : State) : State :=
  s.started.foldl
    (fun s e => match e.2.wait with
      | .epochRetire a n .c => if oldReadsC s a n then s else finish s e.1 .ok 0 0
      | _ => s) s

/-- EPOCH_RETIRE (R195, R196, Table 5.11). -/
def epochRetireEff (id : Nat) (c : Started) (s : State) : Eff :=
  let a := (sessionOf s c).accord
  let n := fld (wd c.words 8) 2 0
  match clsOf (fld (wd c.words 8) 5 4) with
  | none => .fail .badOperand s
  | some .s => .fail .badOperand s
  | some k =>
    let e := epochOf s a k n
    if e.prevLive then .reject 0x0A s
    else if e.gen ≥ 32767 then .reject 0x0B s
    else
      let s := if k = .c then invalidateStore s n fun _ x => x.owner == a && x.cls == .c else s
      let s := updEpoch s a n k fun x => { x with gen := x.gen + 1, prevLive := true }
      let s := if k = .r then
          ((getMpe s n).rt.filter fun x => x.2.owner == a && x.2.cls == .r).foldl (fun s x => startSealing s n x.1) s
        else s
      let s := startPass s a n k e.gen
      let w : Wait := .epochRetire a n k
      .wait w (finishEpochC (finishEpochR (setWait s id w)))

/-- EPOCH_RETIRE. -/
def execEpochRetire (q : Nat) (s : State) : Host.Outcome State Fault Refusal := runCommand 0x1C q epochRetireEff s

/-- One brick of an epoch pass (R197). -/
def passBrick (s : State) (n b : Nat) (p : EpochPass) : State :=
  let s := ensureCourse s n b
  let r := heldRec (getMpe s n) b
  let retired : Bool := r.owner == p.accord && r.cls == p.cls && r.epoch == p.epoch
  let resealed : Bool := p.cls == .r && r.owner == p.accord && !r.init && r.minor.all (·.2 == 0)
    && (findRegion (getMpe s n) b).any fun e => e.2.cls == .r && e.2.owner == p.accord && e.2.sealState == .sealing
  if retired then putRec (zeroBrick s n b) n b { r with init := false, minor := [] }
  else if resealed then zeroBrick s n b else s

/-- EPOCH_PASS_STEP: the next brick of channel `chan` in the oldest pass that still has the channel. -/
def epochPassStep (s : State) (n chan : Nat) : State :=
  match (getMpe s n).passes.find? fun p => (tget p.next chan).isSome with
  | none => s
  | some p =>
    let b := tgetD p.next chan 0
    -- ordered with the brick's accesses (R197): a read still out ends first
    if (getMpe s n).reads.any fun r => r.2.req.brick == b then s
    else
    let s := passBrick s n b p
    let next := if b + 1 < (chan + 1) * channelBricks then tset p.next chan (b + 1) else tdel p.next chan
    let p' := { p with next := next }
    let s := updMpe s n fun m =>
      { m with passes := (m.passes.map fun q => if q = p then p' else q).filter fun q => !q.next.isEmpty }
    if next.isEmpty then
      ownerEvent (updEpoch s p.accord n p.cls fun e => { e with prevLive := false }) p.accord 1
    else s

/-- EPOCH_PASS_STEP. -/
def execEpochPassStep (m chan : Nat) (s : State) : Host.Outcome State Fault Refusal :=
  if live s then .next (settle (epochPassStep s m chan)) else .next s

/-! ## SILLAGE_HARVEST and its walk -/

/-- Whether a buffer of 2^`log2` entries from `base` lies in the memory of accord `a` on this chip (R202). -/
def bufferInside (s : State) (a base log2 : Nat) : Bool :=
  (List.range (8 * 2 ^ log2 / 4096)).all fun i => match stage2Brick s (gidOf s a) (base + 4096 * i) with
    | some (n, b) => (findRegion (getMpe s n) b).any fun e => e.2.owner == a
    | none => false

/-- The bricks that a buffer lists. -/
def listedBricks (s : State) (a base count : Nat) : State × List Nat :=
  (List.range count).foldl
    (fun (x : State × List Nat) i => match readDpa x.1 a (base + 8 * i) 8 with
      | (s, some d) => (s, x.2 ++ [leField d 0 3])
      | (s, none) => (s, x.2))
    (s, [])

/-- Bricks of every channel that accord `a` binds on stack `n`. -/
def boundBricks (s : State) (a n : Nat) : List Nat :=
  (channelsOf s a n).flatMap fun c => (List.range channelBricks).map (· + c * channelBricks)

/-- SILLAGE_HARVEST (R202 to R205). -/
def sillageHarvestEff (_id : Nat) (c : Started) (s : State) : Eff :=
  let x := sessionOf s c
  let n := fld (wd c.words 8) 2 0
  let a := if x.world = .root then fld (wd c.words 8) 25 16 else x.accord
  let w := wd2 c.words 9
  let log2 := fld w 4 0
  let base := fld w 63 12 * 4096
  let stop : Bool := w == 0
  let bad : Bool := fld w 11 5 != 0 || log2 < 9 || log2 > 21 || !bufferInside s a base log2
  if (getAccord s a).state = .free then .fail .badOperand s
  else if !stop && bad then .reject 0x04 s
  else if (getMpe s n).walk.isSome then .reject 0x05 s
  else
    let dirty := (getMpe s n).store.filter fun e => e.2.owner == a
    let s := dirty.foldl (fun s e => writeBackEntry s n e.1 .bestEffort) s
    let old := tget (getAccord s a).sillage n
    let s := updAccord s a fun y =>
      { y with sillage := if stop then tdel y.sillage n else tset y.sillage n (BitVec.ofNat 52 base, log2, 0, false) }
    match old with
    | none => .result 0 s
    | some (ob, _, count, spilt) =>
      let (s, bricks) := if spilt then (s, boundBricks s a n) else listedBricks s a ob.toNat count
      let result : Word := pack [(count, 0), (b2n spilt, 31)]
      if bricks.isEmpty then .result result s
      else .wait (.harvest n)
        (updMpe s n fun m => { m with walk := some { accord := a, bricks := bricks, result := result } })

/-- SILLAGE_HARVEST. -/
def execSillageHarvest (q : Nat) (s : State) : Host.Outcome State Fault Refusal := runCommand 0x1D q sillageHarvestEff s

/-- DIRTY of one brick cleared, whatever region it lies in now (R205). -/
def walkBrick (s : State) (n b : Nat) : State := editRec s n b fun r => { r with dirty := false }

/-- HARVEST_WALK_STEP: the walk visits its next brick; at its end the command completes (R205). -/
def harvestWalkStep (s : State) (n : Nat) : State :=
  match (getMpe s n).walk with
  | none => s
  | some w => match w.bricks with
    | [] => s
    | b :: rest =>
      let s := walkBrick s n b
      if rest.isEmpty then
        let s := updMpe s n fun m => { m with walk := none }
        let ids := (s.started.filter fun e => e.2.wait == .harvest n).map (·.1)
        ids.foldl (fun s id => finish s id .ok 0 w.result) s
      else updMpe s n fun m => { m with walk := some { w with bricks := rest } }

/-- HARVEST_WALK_STEP. -/
def execHarvestWalkStep (m : Nat) (s : State) : Host.Outcome State Fault Refusal :=
  if live s then .next (settleAll (harvestWalkStep s m)) else .next s

/-! ## FOLD -/

/-- A checked FOLD. -/
structure FoldJob where
  id : Nat
  accord : Nat
  stack : Nat
  zero : Bool
  x512 : Bool
  fmt : FloatFmt
  size : Nat
  /-- cell frame exponent -/
  f : Int
  /-- source table index and first source stretcher -/
  rt : Nat
  first : Nat
  count : Nat
  /-- destination class -/
  dcls : Cls

/-- Where a FOLD stands. -/
structure FoldRun where
  s : State
  /-- outputs made and not written -/
  buf : Bytes := []
  /-- next destination byte, from brick 0 of the stack -/
  pos : Nat
  changed : Nat := 0
  infs : Nat := 0
  failed : Bool := false
  stopped : Bool := false

/-- The class that a request of a FOLD is admitted in: RESERVED while the accord holds credit on the stack (R233). -/
def foldQos (s : State) (j : FoldJob) : Qos := if tgetD (getMpe s j.stack).credit j.accord 0 > 0 then .reserved else .bestEffort

/-- A request of a FOLD. -/
def foldReq (s : State) (j : FoldJob) (op : MemOp) (pos : Nat) (mask : BitVec 64) (d : Bytes) : Req :=
  { origin := .command j.id, accord := j.accord, qos := foldQos s j, op := op, stack := j.stack, brick := pos / 4096
    off := pos % 4096, mask := mask, data := d }

/-- One stretcher that a FOLD moves, admitted in its class. -/
def foldCharge (s : State) (j : FoldJob) : State := chargeStretcher s j.stack j.accord (foldQos s j)

/-- A source stretcher's condition `e` raised against the command's SIGNAL fence (R234). -/
def foldError (s : State) (j : FoldJob) (x : Nat) (e : MemErr) : State × Option Bytes :=
  (raiseMem s j.stack (foldReq s j .readStretcher (256 * x) 0 []) e, none)

/-- A source stretcher that has a store entry: an AXU operation under ZERO_SOURCE, else a read (R233). -/
def foldFromEntry (s : State) (j : FoldJob) (x : Nat) (en : StoreEntry) : State × Option Bytes :=
  let n := j.stack
  if j.zero ∧ en.state = .held then foldError s j x en.heldBy
  else match readNow s n (x / 16) (x % 16) j.accord with
    | (s, .error e) => foldError s j x e
    | (s, .ok d) =>
      if !j.zero then (s, some d)
      else (putEntry (countOp s n true) n x { en with data := zeros 256, dirty := en.dirty || d.any (· != 0) }, some d)

/-- A source stretcher without a store entry: read past the store, or under ZERO_SOURCE filled into it and set to zero (R233). -/
def foldFromHbm (s : State) (j : FoldJob) (x : Nat) : State × Option Bytes :=
  let n := j.stack
  let b := x / 16
  match readStretcherNow (foldCharge s j) n b (x % 16) j.accord none with
  | (s, .error e) => foldError s j x e
  | (s, .ok d) =>
    if !j.zero then (s, some d)
    else match findRegion (getMpe s n) b with
      | none => foldError s j x .unbound
      | some (rt, e) =>
        if e.cls = .c ∧ (heldRec (getMpe s n) b).frozen then foldError s j x .majorExhausted
        else match makeRoom s n x e.sched (foldQos s j) with
          | (s, .ok) =>
            let s := updMpe (countOp s n false) n fun m => { m with axuFills := (m.axuFills + 1) % 2 ^ 32 }
            (putEntry s n x { state := .valid, data := zeros 256, owner := j.accord, cls := e.cls, rt := rt
                              dirty := d.any (· != 0) }, some d)
          | (s, _) => foldError s j x .storeSetHeld

/-- What the checkers find on a source stretcher is free (DESIGN CHOICE, log entry 58): an uncorrectable store word, a lane that
disagrees with its spare in a class C stretcher, or nothing. -/
def foldUpset (s : State) : State × Upset :=
  let (s, k) := drawNat s
  (s, match k % 3 with | 1 => .lane (k / 3 % 80) | 2 => .storeWord | _ => .none)

/-- A source stretcher read, and set to zero under ZERO_SOURCE; none, with its fault raised, when it cannot be (R233, R234). -/
def foldSource (s : State) (j : FoldJob) (x : Nat) : State × Option Bytes :=
  let n := j.stack
  match foldUpset s, storeEntry s n x with
  | (s, .storeWord), some _ => foldError s j x .storeUe
  | (s, _), some en => foldFromEntry s j x en
  | (s, .lane i), none =>
    let cls := ((findRegion (getMpe s n) (x / 16)).map (·.2.cls)).getD .s
    if cls = .c ∧ laneChecked (getMpe s n) i then (laneMismatch s n i (foldReq s j .readStretcher (256 * x) 0 []), none)
    else foldFromHbm s j x
  | (s, _), none => foldFromHbm s j x

/-- The outputs of one source stretcher: bytes, outputs changed by rounding, outputs that became infinite. -/
def foldOutputs (j : FoldJob) (d : Bytes) : Bytes × Nat × Nat :=
  let w := if j.x512 then 64 else 8
  (List.range (256 / w)).foldl
    (fun (x : Bytes × Nat × Nat) k =>
      let (v, ch, inf) := foldOut j.fmt w (if j.x512 then -160 else j.f) (leField d (w * k) w)
      (x.1 ++ toLE v j.size, x.2.1 + b2n ch, x.2.2 + b2n inf))
    ([], 0, 0)

/-- One destination write. -/
def foldWrite (j : FoldJob) (r : FoldRun) (n : Nat) : FoldRun :=
  let d := r.buf.take n
  let whole : Bool := n == 256
  let mask := if n ≥ 64 ∨ j.dcls = .r then BitVec.allOnes 64 else BitVec.ofNat 64 (2 ^ n - 1)
  let s := foldCharge r.s j
  let q := foldReq s j (if whole then .writeStretcher else .writeLine) r.pos mask (if whole then d else bslice d 0 64)
  match writeNow s j.stack q with
  | (s, none) => { r with s := s, buf := r.buf.drop n, pos := r.pos + n }
  | (s, some e) => { r with s := raiseMem s j.stack q e, stopped := true }

/-- Outputs written in ascending order as far as they fill stretchers or lines; `last`: nothing more comes. -/
def foldFlush (j : FoldJob) (last : Bool) (r : FoldRun) : FoldRun :=
  (List.range (r.buf.length / 64 + 1)).foldl
    (fun r _ =>
      if r.stopped ∨ r.buf.isEmpty then r
      else if r.pos % 256 = 0 ∧ r.buf.length ≥ 256 then foldWrite j r 256
      else if r.pos % 256 = 0 ∧ !last then r
      else if r.buf.length ≥ 64 then foldWrite j r 64
      else if last then foldWrite j r r.buf.length else r) r

/-- One source stretcher of a FOLD. (DEDUCED, log entry 58) -/
def foldStep (j : FoldJob) (r : FoldRun) (i : Nat) : FoldRun :=
  if r.stopped then r
  else
    let x := j.first + i
    let outs := 256 / (if j.x512 then 64 else 8)
    match foldSource r.s j x with
    | (s, some d) =>
      let (o, ch, inf) := foldOutputs j d
      foldFlush j false { r with s := s, buf := r.buf ++ o, changed := r.changed + ch, infs := r.infs + inf }
    | (s, none) =>
      foldFlush j false { r with s := s, buf := r.buf ++ zeros (outs * j.size), failed := true }

/-- How a FOLD ends (R230, R234). -/
def foldEnd (j : FoldJob) (r : FoldRun) : Eff :=
  let e := tget (getMpe r.s j.stack).rt j.rt
  let detail : Word := pack
    [(b2n (e.any (·.overflow)), 31), (b2n (e.any (·.invalid)), 30), (satAdd 24 r.infs 0, 0)]
  let s := if j.zero then updEntry r.s j.stack j.rt fun e => { e with overflow := false, invalid := false, loss := 0 }
           else r.s
  if r.stopped then .reject 0x08 s
  else if r.failed then .reject 0x07 s
  else .done .ok detail (BitVec.ofNat 32 (satAdd 32 r.changed 0)) s

/-- The checks of R232 and Table 8.11. -/
def foldCheck (s : State) (id : Nat) (c : Started) : Except (Status × Word) (FoldJob × Nat) :=
  let x := sessionOf s c
  let w := c.words
  let n := fld (wd w 11) 23 0
  match targetRegion s c, checkHandle s c.session x (wd w 8) [.region] with
  | none, _ => .error (.staleHandle, 0)
  | _, .error e => .error (e, 0)
  | some (_, g, e), .ok dr =>
    match tget s.regions dr.index with
    | none => .error (.staleHandle, 0)
    | some dg => match tget (getMpe s dg.stack).rt dg.rt, foldFmt (fld (wd w 9) 2 0) with
      | none, _ => .error (.staleHandle, 0)
      | _, none => .error (.badOperand, 0)
      | some de, some fmt =>
        let size := (1 + fmt.ebits + fmt.fbits) / 8
        let out := n * (if bit (wd w 9) 3 then 64 else 512) * size
        let first := fld (wd w 10) 23 0
        let off := (wd w 12).toNat
        let src := (e.base + first) * 4096
        let dst := de.base * 4096 + off
        if g.accord ≠ x.accord ∨ dg.accord ≠ x.accord then .error (.noAccess, 0)
        else if n = 0 then .error (.badOperand, 0)
        else if e.cls = .r then .error (.rejected, 0x01)
        else if de.cls = .r ∧ de.sealState ≠ .sealing then .error (.rejected, 0x02)
        else if g.stack ≠ dg.stack then .error (.rejected, 0x03)
        else if first + n > e.limit + 1 - e.base ∨ off + out > (de.limit + 1 - de.base) * 4096 then .error (.rejected, 0x04)
        else if src < dst + out ∧ dst < src + 4096 * n then .error (.rejected, 0x05)
        else if off % (if de.cls = .r then 256 else 64) ≠ 0 then .error (.rejected, 0x06)
        else .ok ({ id := id, accord := x.accord, stack := g.stack, zero := bit (wd w 9) 4, x512 := bit (wd w 9) 3
                    fmt := fmt, size := size, f := e.f.toInt, rt := g.rt, first := 16 * (e.base + first)
                    count := 16 * n, dcls := de.cls }, dst)

/-- FOLD (R232 to R234). -/
def foldEff (id : Nat) (c : Started) (s : State) : Eff :=
  match foldCheck s id c with
  | .error (st, code) => .done st code 0 s
  | .ok (j, dst) =>
    let r := (List.range j.count).foldl (foldStep j) { s := s, pos := dst }
    foldEnd j (foldFlush j true r)

/-- Whether a FOLD can run now: its accord's keys are here, no source stretcher is being filled, and no fill is under way that its own
could have to wait for (R63, R222, R223). (DEDUCED, log entry 58) -/
def foldReady (s : State) (q : Nat) : State × Bool :=
  match startable s q 0x1E with
  | none => (s, false)
  | some (qu, f, _) =>
    let c : Started := { queue := q, ring := f.ring, session := qu.session, words := f.words, wait := .starting }
    match foldCheck s 0 c with
    | .error _ => (s, true)
    | .ok (j, _) =>
      let filling := (getMpe s j.stack).store.any fun e =>
        e.2.state == .filling && (j.zero || (j.first ≤ e.1 && e.1 < j.first + j.count))
      if filling then (s, false) else makeResident s j.accord

/-- FOLD. (DEDUCED, log entry 58) -/
def execFold (q : Nat) (s : State) : Host.Outcome State Fault Refusal :=
  match foldReady s q with
  | (s, true) => runCommand 0x1E q foldEff s
  | (s, false) => .next (settle s)

/-! ## Pinned write-backs and the bandwidth window -/

/-- PINNED_WRITEBACK: a queued pinned line is written back; its parent, now dirty, is queued in turn (R193). -/
def pinnedWriteback (s : State) (n level idx : Nat) : State :=
  if !(getMpe s n).wbQueue.contains (level, idx) then s
  else
    let s := updMpe s n fun m => { m with wbQueue := m.wbQueue.filter (· != (level, idx)) }
    if (heldLine (getMpe s n) level idx).any (·.dirty) then writeBackLine s n level idx else s

/-- PINNED_WRITEBACK. -/
def execPinnedWriteback (m level index : Nat) (s : State) : Host.Outcome State Fault Refusal :=
  if live s then .next (settle (pinnedWriteback s m level index)) else .next s

/-- Whether an accord that waited received less than its reservation in the window: stretchers of 256 B over 65,536 lane
cycles at 1.7 GHz (R67, R68). -/
def shortOf (s : State) (n a : Nat) : Bool :=
  let r := tgetD (getAccord s a).resv n {}
  (r.c + r.r + r.s) != 0 && (getMpe s n).waited.contains a
    && tgetD (getMpe s n).delivered a 0 * 17 < (r.c + r.r + r.s) * 2560

/-- The fraction of its reservation, in 1/256, that accord `a` received on stack `n` in the window (R68). -/
def deliveredPart (s : State) (n a : Nat) : Nat :=
  let r := tgetD (getAccord s a).resv n {}
  tgetD (getMpe s n).delivered a 0 * 17 * 256 / ((r.c + r.r + r.s) * 2560)

/-- The shortfall of accord `a` on stack `n` reported: the bit of its accord and the event with stack and fraction (R68). -/
def reportShort (s : State) (n a : Nat) : State :=
  let s := ownerEvent (updAccord s a fun x => { x with shortfall := true }) a 0
  { s with shortfalls := s.shortfalls ++ [(a, n, deliveredPart s n a)] }

/-- The end of a measurement window (R67, R68): shortfalls are reported. While one lasts BEST_EFFORT is reduced first, and once none
of it is left the RESERVED rates are cut by a common factor; by how much each window cuts is not said and free (DESIGN CHOICE, log
entry 18). -/
def windowEnd (s : State) (n : Nat) : State :=
  let short := (s.accords.map (·.1)).filter (shortOf s n)
  let s := short.foldl (fun s a => reportShort s n a) s
  let m := getMpe s n
  if short.isEmpty then updMpe s n fun m => { m with delivered := [], waited := [], scale := 256, beShare := 256 }
  else
    let (s, k) := drawNat s
    updMpe s n fun x =>
      { x with delivered := [], waited := [], beShare := if m.beShare = 0 then 0 else k % m.beShare
               scale := if m.beShare = 0 then k % 257 else 256 }

/-- BANDWIDTH_WINDOW_END. -/
def execBandwidthWindowEnd (m : Nat) (s : State) : Host.Outcome State Fault Refusal :=
  if live s then .next (settle (windowEnd s m)) else .next s

end Sys2Proof.Machine
end

