-- ==== Sys2Proof/Machine/Stamp.lean ====
section
/-! DEFINITION. The stamp units: sorting and stamping compute requests, the doorbell page, CARVE (R22, R29, R41 to R43, R99,
R110, R115, R295, R412). -/

namespace Sys2Proof.Machine

/-- The operation of an OP value (Table 7.1). -/
def memOpOf (op : BitVec 3) : MemOp :=
  match op.toNat with
  | 0 => .readLine | 1 => .readStretcher | 2 => .writeLine | 3 => .writeStretcher | 4 => .writeBrick | 5 => .atomic
  | _ => .reserved

/-- Bytes that an operation reads or writes, its alignment (Table 7.1). -/
def opSize : MemOp → Nat
  | .readLine | .writeLine => 64
  | .readStretcher | .writeStretcher => 256
  | .writeBrick => 4096
  | .atomic | .reserved => 1

/-- Bytes of data that a request carries (Table 1.17). -/
def dataSize : MemOp → Nat
  | .writeLine | .atomic => 64
  | .writeStretcher => 256
  | .writeBrick => 4096
  | _ => 0

/-- The QoS class of a QOS value (Table 2.5). -/
def qosOf : Nat → Qos
  | 1 => .reserved | 2 => .scheduled | _ => .bestEffort

/-- Whether an operation is a store or an atomic, which a doorbell waits for (R110). -/
def holdsDoorbell : MemOp → Bool
  | .writeLine | .writeStretcher | .writeBrick | .atomic => true
  | _ => false

/-- A request stamped from entry `e` that a stamp unit refuses: ERROR, with the fault. -/
def stampRefuse (s : State) (cg : Nat) (r : ComputeReq) (e : Word) (code fence : BitVec 8) (rung : Option Nat) : State :=
  let a := fld e 28 19
  let s := raise s { coreFault s code unitSt (cg / 16) cg a fence with rung := rung }
  if memOpOf r.op = .atomic ∧ bit r.control 20 then let (s, k) := drawNat s; respond s cg r.tag false (toLE k 64)
  else respond s cg r.tag false (match memOpOf r.op with
    | .readLine => zeros 64
    | .readStretcher => zeros 256
    | _ => [])

/-- A doorbell store (R43, R110): kept behind the stores and atomics of the core group that are not answered yet.
(DESIGN CHOICE, log entry 59) -/
def ringDoorbell (s : State) (cg : Nat) (w : Word) : State :=
  releaseDoorbells (updCore s cg fun c => { c with doorbells := c.doorbells ++ [(w, c.stores)] }) cg

/-- A CARVE of `n` bricks and its response (R115, Table 4.14). -/
def carveFrom (s : State) (cg n : Nat) : State × Nat :=
  match (getCore s cg).pool with
  | none => (s, 2 ^ 63)
  | some p =>
    let left := p.limit + 1 - p.next
    if n ≤ left then
      (updCore s cg fun c => { c with pool := some { p with next := p.next + n } }, p.stack * 2 ^ 24 + p.next)
    else (s, 2 ^ 63 + p.stack * 2 ^ 24 + left)

/-- A request to the doorbell page (R43, Table 4.13). R43 tells what becomes of writes and reads there; an ATOMIC and a reserved OP
count as writes that change nothing (DESIGN CHOICE, log entry 71). -/
def doorbellPage (s : State) (cg : Nat) (r : ComputeReq) (e : Word) : State :=
  let off := fld r.addr 12 0
  match memOpOf r.op with
  | .writeLine =>
    if off = 0 ∧ r.mask = 0xF then
      if bit e 14 then
        respond (ringDoorbell s cg (BitVec.ofNat 32 (leField r.data 0 4))) cg r.tag true []
      else stampRefuse s cg r e 0x02 0x07 none
    else respond s cg r.tag true []
  | .readLine =>
    if 0x1000 ≤ off ∧ off ≤ 0x1FF8 ∧ off % 8 = 0 then
      let (s, v) := carveFrom s cg ((off - 0x1000) / 8 + 1)
      respond s cg r.tag true (toLE v 8 ++ zeros 56)
    else respond s cg r.tag true (zeros 64)
  | .readStretcher => respond s cg r.tag true (zeros 256)
  | _ => respond s cg r.tag true []

/-- The request as it is stamped from entry `e` (R22). -/
def stamped (cg : Nat) (r : ComputeReq) (e : Word) : Req :=
  let op := memOpOf r.op
  { origin := .core cg r.tag, accord := fld e 28 19, qos := qosOf (fld e 30 29), op := op
    mask := if op = .writeLine ∨ op = .atomic then r.mask else 0, control := if op = .atomic then r.control else 0
    data := bslice r.data 0 (dataSize op) }

/-- A request remembered as a store or atomic that is not answered. -/
def noteStore (s : State) (cg : Nat) (r : ComputeReq) : State :=
  if holdsDoorbell (memOpOf r.op) then updCore s cg fun c => { c with stores := c.stores ++ [r.tag] } else s

/-- A request sorted by its address (R42) and, once stamped from entry `e`, sent on its way. Under the local mark of R412 a request
is refused before its alignment is looked at (DESIGN CHOICE, log entry 72). One for an instance that is out of service is not
forwarded (R39; DESIGN CHOICE, log entry 73). -/
def stampForward (s : State) (cg : Nat) (r : ComputeReq) (e : Word) : State :=
  let a := r.addr.toNat
  let op := memOpOf r.op
  if a < 0x8000000000 then
    let n := fld r.addr 38 36
    if (getCore s cg).localMark then stampRefuse s cg r e 0x03 0x0C none
    else if a % opSize op ≠ 0 then stampRefuse s cg r e 0x10 0x0B (some 2)
    else if !mpeOk s n then stampRefuse s cg r e 0x02 0x07 none
    else
      let q := { stamped cg r e with stack := n, brick := fld r.addr 35 12, off := fld r.addr 11 0 }
      reachMpe (noteStore s cg r) n q
  else if a < 0x8000002000 then doorbellPage s cg r e
  else if 2 ^ 57 ≤ a ∧ a < 2 ^ 58 then
    let o := fld e 18 16
    if a % opSize op ≠ 0 then stampRefuse s cg r e 0x10 0x0B (some 2)
    else if !lpeOk s o then stampRefuse s cg r e 0x02 0x07 none
    else
      let q := { stamped cg r e with dva := r.addr.setWidth 57, arrival := r.arrival }
      updOtu (noteStore s cg r) o fun t => { t with ingress := t.ingress ++ [q] }
  else stampRefuse s cg r e 0x10 0x0B (some 2)

/-- Requests that a tensor watch held at a core group, sent on their way (R385 step 4) as the entry of their arrival stamps
them (R52). -/
def releaseHold (s : State) (cg : Nat) : State :=
  (getCore s cg).watchHeld.foldl (fun s r => stampForward s cg r.1 r.2) (updCore s cg fun c => { c with watchHeld := [] })

/-- Every hold that no watch needs any more, released. -/
def releaseHolds (s : State) : State :=
  if s.dbg.holding.isSome then s
  else (s.cores.filter fun c => !c.2.watchHeld.isEmpty).foldl (fun s c => releaseHold s c.1) s

/-- Compute request `r` at the stamp unit of core group `cg`, stamped from the entry as it stands (R22, R52). In dry-down it is
answered ERROR (R426); a tensor watch that holds the accord's requests keeps it (R385). -/
def stamp (s : State) (cg : Nat) (r : ComputeReq) : State :=
  let e := (getCore s cg).entry
  if inDry s ∨ !bit e 31 then stampRefuse s cg r e 0x02 0x07 none
  else if s.dbg.holding = some (fld e 28 19) then updCore s cg fun c => { c with watchHeld := c.watchHeld ++ [(r, e)] }
  else stampForward (releaseHold s cg) cg r e

/-- A compute request that finds the islands asleep waits and wakes the block (R442); a block that is not up takes none, nor does
a stamp unit that is out of service (R39). -/
def stampOrHold (s : State) (cg : Nat) (r : ComputeReq) : State :=
  if !inDry s ∧ !stOk s (cg / 16) then s
  else if running s then stamp (takeWake s noSource) cg r
  else if s.up ∧ s.dbg.stop = .running then
    takeWake { s with pwr := { s.pwr with wokenReq := s.pwr.wokenReq ++ [(cg, r)] } } noSource
  else s

/-- STAMP_REQUEST: a request of core group SRC of die `st` (R41). -/
def execStampRequest (st : Nat) (r : ComputeReq) (s : State) : Host.Outcome State Fault Refusal :=
  .next (settle (stampOrHold s (16 * st + r.src.toNat) r))

/-- CARVE: the 64-bit load of a slot of the doorbell page (R43, R115). -/
def execCarve (cg : Nat) (tag : BitVec 16) (offset : BitVec 12) (s : State) : Host.Outcome State Fault Refusal :=
  let addr : BitVec 64 := 0x8000001000 ||| (offset.setWidth 64 &&& 0xFF8)
  .next (settle (stampOrHold s cg { (default : ComputeReq) with tag := tag, op := 0, addr := addr }))

/-- DOORBELL: a kernel's 32-bit store to its doorbell page (R43, R99). It carries no tag the model answers to. (DESIGN
CHOICE, log entry 59) -/
def doorbellNow (s : State) (cg : Nat) (w : Word) : State :=
  let e := (getCore s cg).entry
  if inDry s ∨ !bit e 31 ∨ !bit e 14 then
    raise s (coreFault s 0x02 unitSt (cg / 16) cg (fld e 28 19) 0x07)
  else ringDoorbell s cg w

/-- DOORBELL. (DESIGN CHOICE, log entry 59) -/
def execDoorbell (cg : Nat) (word : BitVec 32) (s : State) : Host.Outcome State Fault Refusal :=
  if !inDry s ∧ !stOk s (cg / 16) then .next s
  else if running s then .next (settle (doorbellNow (takeWake s noSource) cg word))
  else if s.up ∧ s.dbg.stop = .running then
    .next (settle (takeWake { s with pwr := { s.pwr with wokenDb := s.pwr.wokenDb ++ [(cg, word)] } } noSource))
  else .next s

end Sys2Proof.Machine
end

