-- ==== Sys2Proof/Machine/Admit.lean ====
section
/-! DEFINITION. Admission at an MPE: TDM slots, credits, the residency buffer (R54, R60 to R70, R214, R412, R451). -/

namespace Sys2Proof.Machine

/-- Stretchers of a slot's budget that a request takes, and whether it is an AXU operation (R64, R214): an atomic, or a plain
read of a stretcher with a VALID entry. -/
def admitCost (m : Mpe) (r : Req) : Nat × Bool :=
  let x := 16 * r.brick + r.off / 256
  let valid : Bool := (tget m.store x).any fun e => e.state == .valid
  match r.op with
  | .atomic => (if (tget m.store x).isSome then 0 else 1, true)
  | .readLine | .readStretcher => if valid then (0, true) else (1, false)
  | .writeBrick => (16, false)
  | _ => (1, false)

/-- What a slot has left: stretchers, AXU operations, and operations taken by bank. -/
structure Budget where
  stretchers : Nat
  ops : Nat := 64
  banks : Tab Nat := []
  /-- a throttled slot, narrower than a brick, of which no stretcher is taken yet -/
  narrow : Bool := false
  /-- stretchers of a request wider than the slot, which later slots give -/
  debt : Nat := 0

/-- Stretchers that a slot admits: 19; 14 while a lane group is held by rung 1 (R412); 10 above TEMP_THROTTLE (R451). -/
def slotStretchers (s : State) (n : Nat) : Nat :=
  if s.pwr.temp ≥ tempLimit s 1 then 10
  else if s.frs.active.any fun d => match d with
    | .rung1 (.laneGroup m _) => m == n
    | _ => false
  then 14 else 19

/-- Whether a request fits what a slot has left; a WRITE_BRICK begins in a throttled slot and takes from the next ones too. (DEDUCED,
log entry 17) -/
def fitsBudget (m : Mpe) (b : Budget) (r : Req) : Bool :=
  let (k, op) := admitCost m r
  let bank := (storeSet (16 * r.brick + r.off / 256)).1
  (k ≤ b.stretchers || (b.narrow && b.stretchers > 0)) && (!op || (b.ops > 0 && tgetD b.banks bank 0 < 2))

/-- The budget after a request. -/
def takeBudget (m : Mpe) (b : Budget) (r : Req) : Budget :=
  let (k, op) := admitCost m r
  let bank := (storeSet (16 * r.brick + r.off / 256)).1
  let b := { b with stretchers := b.stretchers - k, debt := b.debt + (k - b.stretchers), narrow := b.narrow && k == 0 }
  if op then { b with ops := b.ops - 1, banks := tset b.banks bank (tgetD b.banks bank 0 + 1) } else b

/-- Whether accord `a` owns slot `i` of stack `n`, and whether it owns any (R69, R70). -/
def ownsSlot (s : State) (n a i : Nat) : Bool := (tget (getAccord s a).sched n).any fun x => x.slots.getLsbD i
/-- Whether it owns any. -/
def ownsAnySlot (s : State) (n a : Nat) : Bool := (tget (getAccord s a).sched n).any fun x => x.slots != 0

/-- The step of R65 that a request belongs to in this slot; none when it waits for its owner's slot, or when it is BEST_EFFORT
and `be` says that this slot admits none (R67). -/
def admitStep (s : State) (n : Nat) (be : Bool) (r : Req) : Option Nat :=
  let m := getMpe s n
  match r.qos with
  | .scheduled => if ownsSlot s n r.accord m.slot then some 1 else if ownsAnySlot s n r.accord then none else some 3
  | .reserved => if tgetD m.credit r.accord 0 > 0 then some 2 else some 3
  | .bestEffort => if be then some 3 else none

/-- The owner whose keys a request needs and lacks (R62, R63). -/
def lacksKeys (s : State) (n : Nat) (r : Req) : Option Nat :=
  match findRegion (getMpe s n) r.brick with
  | some (_, e) => if e.cls != .s && !isResident s e.owner && (getAccord s e.owner).state == .live then some e.owner else none
  | none => none

/-- The first request of each accord and class in the ingress, oldest first. -/
def headsOf (l : List Req) : List Req :=
  (l.foldl
    (fun (x : List (Nat × Qos) × List Req) r =>
      if x.1.contains (r.accord, r.qos) then x else ((r.accord, r.qos) :: x.1, x.2 ++ [r]))
    ([], [])).2

/-- Distance of an accord from the rotation position. -/
def rotDist (pos a : Nat) : Nat := (a + 1024 - pos) % 1024

/-- The request admitted next: the lowest step of R65, within it the accord next in rotation; SCHEDULED keep their
order. (DEDUCED, log entry 17) -/
def pickRequest (s : State) (n : Nat) (be : Bool) (b : Budget) : Option Req :=
  let m := getMpe s n
  let full : Bool := m.residency.length ≥ 64
  let cand := (headsOf m.ingress).filter fun r => fitsBudget m b r && !(full && (lacksKeys s n r).isSome)
  let key (r : Req) : Option Nat := (admitStep s n be r).map fun k => k * 1024 + (if k = 1 then 0 else rotDist m.rotate r.accord)
  (cand.foldl
    (fun (x : Option (Nat × Req)) r => match key r, x with
      | none, _ => x
      | some k, none => some (k, r)
      | some k, some (j, q) => if k < j then some (k, r) else some (j, q))
    none).map (·.2)

/-- Request `r` let in: to the residency buffer when its keys are not on the die, or behind a request to its brick that waits
there (R183); else to the service list. Credit and delivered bandwidth are counted. (DEDUCED, log entry 17) -/
def admitOne (s : State) (n : Nat) (r : Req) : State :=
  let k := (admitCost (getMpe s n) r).1
  let reserved : Bool := admitStep s n true r == some 2
  let s := updMpe s n fun m =>
    { m with ingress := m.ingress.erase r, rotate := if r.qos = .scheduled then m.rotate else (r.accord + 1) % 1024
             credit := if reserved then tset m.credit r.accord (tgetD m.credit r.accord 0 - k * stretcherCredit) else m.credit
             delivered := tset m.delivered r.accord (tgetD m.delivered r.accord 0 + k) }
  if (lacksKeys s n r).isSome ∨ behindResidency (getMpe s n) r then updMpe s n fun m => holdResidency m r
  else
    let s := match findRegion (getMpe s n) r.brick with
      | some (_, e) => touchAccord s e.owner
      | none => s
    updMpe s n fun m => { m with ready := m.ready ++ [r] }

/-- The credits of a slot: every accord with a reservation on the stack gains at its rate, cut by the common factor of R67; what
was left of the frame before is discarded at slot 0, and what was overdrawn stays. (DEDUCED, log entry 17) -/
def gainCredits (s : State) (n : Nat) : Tab Int :=
  let m := getMpe s n
  s.accords.filterMap fun e =>
    let r := tgetD e.2.resv n {}
    let old := tgetD m.credit e.1 0
    let kept := if m.slot = 0 then min old 0 else old
    let c := kept + ((r.c + r.r + r.s) * 40 * m.scale : Nat)
    if c = 0 then none else some (e.1, c)

/-- Whether a slot admits BEST_EFFORT requests: as R67 has reduced them; which slots go to them in between is free (DESIGN
CHOICE, log entry 18). -/
def beSlot (s : State) (n : Nat) : State × Bool :=
  let k := (getMpe s n).beShare
  if k ≥ 256 then (s, true) else if k = 0 then (s, false) else let (s, f) := drawNat s; (s, f % 2 == 1)

/-- ADMISSION_SLOT: one TDM slot of 4 lane cycles. (DEDUCED, log entry 17) -/
def admissionSlot (s : State) (n : Nat) : State :=
  let s := updMpe s n fun m => capRepaired { m with credit := gainCredits s n }
  let (s, be) := beSlot s n
  let width := slotStretchers s n
  let (s, b) := (List.range ((getMpe s n).ingress.length)).foldl
    (fun (x : State × Budget) _ => match pickRequest x.1 n be x.2 with
      | none => x
      | some r => (admitOne x.1 n r, takeBudget (getMpe x.1 n) x.2 r))
    (s, { stretchers := width - (getMpe s n).slotUsed, narrow := width < 16 })
  updMpe s n fun m =>
    { m with slot := (m.slot + 1) % 256, cycle := m.cycle + 1, slotUsed := m.slotUsed - width + b.debt
             waited := (m.waited ++ (m.ingress.filter fun r => r.qos == .reserved).map (·.accord)).eraseDups }

/-- ADMISSION_SLOT. -/
def execAdmissionSlot (m : Nat) (s : State) : Host.Outcome State Fault Refusal :=
  if running s then .next (settle (admissionSlot s m)) else .next s

/-- Requests of every residency buffer that wait for the keys of accord `a` go on, and a buffer that has drained gives the
credits it withheld again (R63). -/
def releaseResidency (s : State) (a : Nat) : State :=
  (List.range 8).foldl
    (fun s n =>
      let mine (r : Req) : Bool := (findRegion (getMpe s n) r.brick).all fun e => e.2.owner == a || e.2.cls == .s
      updMpe s n fun m =>
        giveCredits { m with ready := m.ready ++ m.residency.filter mine, residency := m.residency.filter fun r => !mine r }) s

/-- ACCORD_RESIDENT: the hub makes accord `a` resident for what waits for it (R62, R63), be it LIVE or COMPOSING (R83). Requests of
an accord that is neither go on to be refused. -/
def accordResident (s : State) (a : Nat) : State :=
  let st := (getAccord s a).state
  if st ≠ .live ∧ st ≠ .composing then releaseResidency s a
  else match makeResident s a with
    | (s, true) => releaseResidency s a
    | (s, false) => s

end Sys2Proof.Machine
end

