-- ==== Sys2Proof/Machine/Attest.lean ====
section
/-! DEFINITION. The attestation identities (R390, R391): the two CDIs, their key pairs, and what the hub signs with. -/

namespace Sys2Proof.Machine

/-- HMAC-SHA-384. -/
def hmac384 (key d : Bytes) : Bytes := hmac sha384 key d

/-- LC_CLASS of the life-cycle state; no CDI in any other state (R390). -/
def lcClass (s : State) : Option Byte :=
  match s.lcc.state with
  | 6 => some 1 | 7 => some 2 | 8 => some 2 | 9 => some 3 | _ => none

/-- The ROM digest: a property of the silicon that the spec gives no value of (DESIGN CHOICE, log entry 8). -/
def romDigest : Bytes := (List.range 48).map Config.romByte

/-- Bytes 0 to 15 of LCC_SERIAL. -/
def serialBytes (s : State) : Bytes := toLE s.otp.serial.toNat 16

/-- CDI_0. -/
def cdi0 (s : State) (cls : Byte) : Bytes :=
  hmac384 (toLE s.otp.creator.toNat 32) (ascii "BLNL-DICE-L0" ++ romDigest ++ [cls] ++ serialBytes s)

/-- CDI_1. -/
def cdi1 (s : State) (c0 : Bytes) : Bytes :=
  hmac384 c0 (ascii "BLNL-DICE-L1" ++ toBE s.cfg.fwDigest.toNat 48 ++ toLE s.cfg.svn.toNat 1 ++ toLE s.otp.ownerDigest.toNat 48)

/-- The 56 bytes that a layer's ECDSA scalar is formed from (R391). -/
def ecSeed (cdi : Bytes) : Bytes :=
  (hmac384 cdi (ascii "BLNL-KEY-EC" ++ [1]) ++ hmac384 cdi (ascii "BLNL-KEY-EC" ++ [2])).take 56

/-- The ML-DSA-65 seed of a layer (R391). -/
def mlSeed (cdi : Bytes) : Bytes := (hmac384 cdi (ascii "BLNL-KEY-ML")).take 32

/-- The CDI that signs: Alias, or DeviceID in configuration recovery (R396). -/
def signingCdi (s : State) : Bytes := if s.cfg.recovery then (getSlot s 6).key else (getSlot s 7).key

/-- An ECDSA signature of the signing layer, 96 bytes. -/
def signEc (s : State) (m : Bytes) : Bytes := bslice (Config.ecdsaSign (ecSeed (signingCdi s)) m) 0 96
/-- An ML-DSA-65 signature of the signing layer, 3,309 bytes and 3 zero bytes. -/
def signMl (s : State) (m : Bytes) : Bytes := bslice ((Config.mldsaSign (mlSeed (signingCdi s)) m).getD []) 0 3309 ++ zeros 3

/-- Open bytes, each a free value. (DESIGN CHOICE, log entry 3) -/
def drawFree (s : State) (n : Nat) : State × Bytes :=
  ({ s with draws := s.draws + n }, (List.range n).map fun i => BitVec.ofNat 8 (Config.freeNat (s.draws + i)))

end Sys2Proof.Machine
end

