-- ==== Sys2Proof/Machine/Serve.lean ====
section
/-! DEFINITION. The MPE at work: reads and their HBM lines, writes, re-encryption, atomics and fills of the coalescing store
(R182 to R191, R206, R210, R213 to R223, R456, R457). Each request kind of Tables 7.1 and 8.2 is a row; it serves the
oldest admitted request when that request is of its kind. -/

namespace Sys2Proof.Machine

/-! ## What the engine's own checkers find -/

/-- A lane mismatch on a request (R33): it is refused. (DEDUCED, log entry 19) -/
def laneFault (s : State) (n i : Nat) (r : Req) : State := answer (laneMismatch s n i r) r (some .lane) []

/-- What the engine's checkers can find. (DEDUCED, log entry 19) -/
def checkedUpset (s : State) (n : Nat) (u : Upset) : Upset :=
  match u with
  | .lane i => if laneChecked (getMpe s n) i then u else .none
  | _ => u

/-- STORE_UE: a word of the entry that the request hits is uncorrectable (Table 8.13); rung 2 on the entry's owner. -/
def storeUe (s : State) (n x : Nat) (en : StoreEntry) (r : Req) : State :=
  let d := memDetail n (x / 16) (x % 16) en.rt
  answer (raise s { originFault s r.origin 0x21 unitMpe n en.owner 0x0D with rung := some 2, detail6 := d.1, detail7 := d.2 })
    r (some .storeUe) []

/-- Whether an upset is a capstone failure: both copies of one node have failed (R163, R209). -/
def isCapFailure (m : Mpe) : Upset → Bool
  | .capBoth _ => true
  | .capOne shadow off => m.repairing.contains (!shadow, off / 64 * 64)
  | _ => false

/-- Bit `i` of a 56-bit counter turned over. -/
def flipBit (c i : Nat) : Nat := c.xor (2 ^ (i % 56))

/-- Capstone upsets that are no failure: a word served from the other copy while the node's repair runs (R163), a bit of a second root
register turned over (R164). -/
def capUpset (s : State) (n : Nat) : Upset → State
  | .capOne shadow off => updMpe s n fun m =>
    let r := (shadow, off / 64 * 64)
    { m with shadowUses := satAdd 16 m.shadowUses 1, capState := if m.capState = 0 then 1 else m.capState
             repairing := if m.repairing.contains r then m.repairing else m.repairing ++ [r] }
  | .root k i => updMpe s n fun m =>
    { m with rootCopy := if k = 0 then (flipBit m.rootCopy.1 i, m.rootCopy.2) else (m.rootCopy.1, flipBit m.rootCopy.2 i) }
  | _ => s

/-! ## Reads -/

/-- The request put back at the head of the service list: it waits. -/
def putBack (s : State) (n : Nat) (r : Req) : State := updMpe s n fun m => { m with ready := r :: m.ready }

/-- The request moved to the residency buffer; with 64 held there it waits where it is (R63). -/
def toResidency (s : State) (n : Nat) (r : Req) : State :=
  if (getMpe s n).residency.length ≥ 64 then putBack s n r else updMpe s n fun m => holdResidency m r

/-- Every data line of a stretcher. -/
def allLines : List HbmPart := [.data 0, .data 1, .data 2, .data 3]

/-- The line of a READ_LINE. -/
def lineOf (r : Req) : HbmPart :=
  match r.off % 256 / 64 with
  | 0 => .data 0 | 1 => .data 1 | 2 => .data 2 | _ => .data 3

/-- The lines that an access needs from HBM: metadata that the counter cache misses, data, and the tag of classes C and R. -/
def neededLines (s : State) (n : Nat) (e : RtEntry) (r : Req) (fill : Bool) : List HbmPart :=
  match e.cls with
  | .s => if r.op = .readLine ∧ !fill then [lineOf r] else allLines
  | .r => .tag :: allLines
  | .c => missingLevels (getMpe s n) r.brick ++ .tag :: allLines

/-- Stack-physical address of a line that an access to stretcher `st` of brick `b` needs. -/
def partAddr (b st : Nat) : HbmPart → Nat
  | .data l => dataAddr b (256 * st + 64 * l.val)
  | .tag => tagAddr b (st / 8 * 8)
  | .node lv => lineAddr lv.val (courseOf b / 8 ^ lv.val)

/-- Read commands for lines, one a line, under read tag `rid` (R185, R211). -/
def askParts (m : Mpe) (b st rid : Nat) (l : List HbmPart) : Mpe := l.foldl (fun m p => hbmAsk m (partAddr b st p) 1 rid) m

/-- A read posted to the HBM controller, bound to the keys of this moment (R130). -/
def postRead (s : State) (n : Nat) (e : RtEntry) (r : Req) (fill : Option Nat) : State :=
  let p : PendingRead :=
    { req := r, fill := fill, need := neededLines s n e r fill.isSome, gen := (epochOf s e.owner e.cls n).gen
      sealVal := e.sealVal, cls := e.cls, owner := e.owner, heart := (heartOf s e.owner).getD [] }
  updMpe s n fun m =>
    { askParts m r.brick (r.off / 256) m.nextRead p.need with
      reads := tset m.reads m.nextRead p, nextRead := (m.nextRead + 1) % 2 ^ 19 }

/-- Whether every read number is out. -/
def readsFull (m : Mpe) : Bool := (tget m.reads m.nextRead).isSome

/-- Whether the plan of a read can be made without a line from HBM. -/
def planKnown (m : Mpe) (e : RtEntry) (b : Nat) : Bool := e.cls != .c || (missingLevels m b).isEmpty

/-- A class C lookup of request `r` counted, as the counter cache of `m` answers it. -/
def countFor (s : State) (n : Nat) (e : RtEntry) (r : Req) (m : Mpe) : State :=
  if e.cls = .c then countLookup s n r.brick m else s

/-- A read that no store entry serves (R185, R186). -/
def readHbm (s : State) (n : Nat) (u : Upset) (e : RtEntry) (r : Req) : State :=
  let m := getMpe s n
  if readsFull m then putBack s n r
  else if !planKnown m e r.brick then
    let s := countFor s n e r m
    (match u with
      | .lane i => laneFault s n i r
      | _ => postRead s n e r none)
  else match planRead (countFor s n e r m) n r.brick (r.off / 256) r.accord r.place with
    | (s, .err x) => refuse s n r x
    | (s, .zero) => answer s r none (readData r (zeros 256))
    | (s, .noKey) => toResidency s n r
    | (s, .mix) => postRead s n e r none
    | (s, .need _) => (match u with
      | .lane i => laneFault s n i r
      | _ => postRead s n e r none)

/-- The request put behind the fill of its stretcher. -/
def behindFill (s : State) (n x : Nat) (en : StoreEntry) (r : Req) : State :=
  updMpe s n fun m => { m with store := tset m.store x { en with waiting := en.waiting ++ [r] } }

/-- READ_LINE and READ_STRETCHER. -/
def serveRead (s : State) (n : Nat) (u : Upset) (r : Req) : State :=
  match checkPlace s n r.brick false r.place with
  | .error x => refuse s n r x
  | .ok (_, e) =>
    let x := 16 * r.brick + r.off / 256
    match storeEntry s n x with
    | none => readHbm s n u e r
    | some en =>
      if u = .storeWord then storeUe s n x en r
      else if en.state = .filling then behindFill s n x en r
      else readEntry (putEntry s n x en) n r en true

/-! ## Writes -/

/-- Whether a write must wait: a read of its brick is still out, or one of its stretchers is being filled (R183, R222). -/
def writeWaits (s : State) (n : Nat) (r : Req) : Bool :=
  ((getMpe s n).reads.any fun p => p.2.req.brick == r.brick && p.2.req.stack == n)
    || (stretchersOf r).any fun x => (storeEntry s n x).any fun e => e.state == .filling

/-- The store entries that a write meets, dealt with: an all-zero mask leaves them, but is refused by a HELD one. -/
def meetEntries (s : State) (n : Nat) (e : RtEntry) (r : Req) : State × Option MemErr :=
  if r.accord ≠ e.owner then (s, none)
  else if r.op = .writeLine ∧ r.mask = 0 then
    (s, (stretchersOf r).findSome? fun x => (storeEntry s n x).bind fun en =>
      if en.state = .held then some en.heldBy else none)
  else clearEntries s n r

/-- WRITE_LINE, WRITE_STRETCHER and WRITE_BRICK. A lane mismatch refuses a write of class C or R, one that starts a re-encryption
included (R33). -/
def serveWrite (s : State) (n : Nat) (u : Upset) (r : Req) : State :=
  match checkPlace s n r.brick false r.place with
  | .error x => refuse s n r x
  | .ok (_, e) =>
    if writeWaits s n r then putBack s n r
    else if e.cls ≠ .s ∧ r.accord = e.owner ∧ (heartOf s e.owner).isNone then toResidency s n r
    else match meetEntries s n e r with
      | (s, some x) => refuse s n r x
      | (s, none) =>
        match writeLogged s n r false, u with
        | (t, .err x), _ => refuse t n r x
        | (t, .done), .lane i => if e.cls = .s then answer t r none [] else laneFault s n i r
        | (t, .done), _ => answer t r none []
        | (_, .reenc), .lane i => laneFault s n i r
        | (t, .reenc), _ => updMpe t n fun m => { m with reenc := m.reenc ++ [{ brick := r.brick, req := r }] }

/-! ## Atomics -/

/-- The checks of steps 5 to 7 on an atomic without an entry, when the record is known: an error, or whether the stretcher
reads as zeros. -/
def atomicPlan (s : State) (n : Nat) (e : RtEntry) (r : Req) : State × Except MemErr Bool :=
  match e.cls with
  | .s => (s, if r.accord = e.owner then .ok false else .error .access)
  | .r => (s, if r.accord = e.owner then .error .sealed else .error .access)
  | .c => match loadCourse s n r.brick [] with
    | (s, .ok) =>
      let c := heldRec (getMpe s n) r.brick
      if r.accord ≠ ownerC s n c e then (s, .error .access)
      else if isLost (getMpe s n) r.brick then (s, .error .lost)
      else if c.frozen then (s, .error .majorExhausted)
      else (s, .ok (!recLive s n c))
    | (s, l) => let (s, x) := loadErr s n l; (s, .error x)

/-- A fill begun for request `r` (R223): the entry is FILLING until its lines are in, or until STORE_FILL_COMPLETE when the stretcher
reads as zeros. `m` answered the request's counter-cache lookup. -/
def startFill (s : State) (n rt : Nat) (e : RtEntry) (r : Req) (zero : Bool) (m : Mpe) : State :=
  let x := 16 * r.brick + r.off / 256
  if readsFull (getMpe s n) then putBack s n r
  else match makeRoom s n x e.sched r.qos with
    | (s, .held) => refuse (countFor s n e r m) n r .storeSetHeld
    | (s, .wait) => putBack s n r
    | (s, .ok) =>
      let s := updMpe (countFor s n e r m) n fun m => { m with axuFills := (m.axuFills + 1) % 2 ^ 32 }
      let en : StoreEntry :=
        { state := .filling, owner := fillOwner s n r.brick e.cls e.owner, cls := e.cls, rt := rt, waiting := [r] }
      if zero then putEntry s n x { en with fillResult := some (.data (zeros 256)) }
      else postRead (putEntry s n x { en with fillRead := some (getMpe s n).nextRead }) n e r (some x)

/-- An atomic whose stretcher has no entry. -/
def atomicFill (s : State) (n : Nat) (u : Upset) (rt : Nat) (e : RtEntry) (r : Req) : State :=
  let m := getMpe s n
  if !planKnown m e r.brick ∧ !emptyAtomic r then
    (match u with
      | .lane i => laneFault (countFor s n e r m) n i r
      | _ => if (heartOf s e.owner).isNone then toResidency s n r else startFill s n rt e r false m)
  else match atomicPlan s n e r with
    | (s, .error x) => refuse (countFor s n e r m) n r x
    | (s, .ok zero) =>
      if emptyAtomic r then answerEmpty (countFor s n e r m) r (if zero then some (zeros 256) else none)
      else if e.cls = .c ∧ (heartOf s e.owner).isNone then toResidency s n r
      else (match u with
        | .lane i => if e.cls = .c ∧ !zero then laneFault (countFor s n e r m) n i r else startFill s n rt e r zero m
        | _ => startFill s n rt e r zero m)

/-- ATOMIC (R215 to R223, Table 8.13). -/
def serveAtomic (s : State) (n : Nat) (u : Upset) (r : Req) : State :=
  match checkPlace s n r.brick (!atomicValid r.control r.mask (r.off % 64)) r.place with
  | .error x => refuse s n r x
  | .ok (rt, e) =>
    let x := 16 * r.brick + r.off / 256
    match storeEntry s n x with
    | none => atomicFill s n u rt e r
    | some en =>
      if u = .storeWord then storeUe s n x en r
      else if en.state = .filling then behindFill s n x en r
      else if emptyAtomic r ∧ r.accord = en.owner ∧ en.state = .valid then answerEmpty s r (some en.data)
      else opOnEntry s n x r en true

/-! ## The rows -/

/-- The oldest admitted request served, in the state `s` that no longer lists it. One to a brick whose older requests wait for keys, or
that is being re-encrypted, waits behind them (R183, R190, R220). -/
def serveReq (s : State) (n : Nat) (u : Upset) (r : Req) : State :=
  if inDry s then answer s r (some .stackHalted) []
  else if (getMpe s n).reenc.any (·.brick == r.brick) then
    updMpe s n fun m => { m with heldReqs := m.heldReqs ++ [(r.brick, r)] }
  else if behindResidency (getMpe s n) r then toResidency s n r
  else
    let u := checkedUpset s n u
    if isCapFailure (getMpe s n) u ∧ (getMpe s n).capState ≠ 2 then refuse (capstoneFail s n) n r .capstone
    else
      let s := capUpset s n u
      match r.op with
      | .readLine | .readStretcher => serveRead s n u r
      | .atomic => serveAtomic s n u r
      | .reserved => (match checkPlace s n r.brick true r.place with
        | .error x => refuse s n r x
        | .ok _ => refuse s n r .badRequest)
      | _ => serveWrite s n u r

/-- The oldest admitted request of MPE `n` served, if it is of the wanted kind. -/
def serveHead (want : Req → Bool) (n : Nat) (u : Upset) (s : State) : State :=
  match (getMpe s n).ready with
  | [] => s
  | r :: rest => if want r then serveReq (updMpe s n fun m => { m with ready := rest }) n u r else s

/-- A row of Table 7.1 or 8.2. -/
def serveRow (want : Req → Bool) (n : Nat) (u : Upset) (s : State) : Host.Outcome State Fault Refusal :=
  if running s then .next (settleAll (serveHead want n u s)) else .next s

/-- Whether a request is an atomic of AOP `k`. -/
def isAop (k : Nat) (r : Req) : Bool := r.op == .atomic && aopOf r.control == k

/-- READ_LINE (a reserved operation is refused here too, R182). -/
def execReadLine (m : Nat) (u : Upset) (s : State) : Host.Outcome State Fault Refusal :=
  serveRow (fun r => r.op == .readLine || r.op == .reserved) m u s
/-- READ_STRETCHER. -/
def execReadStretcher (m : Nat) (u : Upset) (s : State) : Host.Outcome State Fault Refusal :=
  serveRow (fun r => r.op == .readStretcher) m u s
/-- WRITE_LINE. -/
def execWriteLine (m : Nat) (u : Upset) (s : State) : Host.Outcome State Fault Refusal :=
  serveRow (fun r => r.op == .writeLine) m u s
/-- WRITE_STRETCHER. -/
def execWriteStretcher (m : Nat) (u : Upset) (s : State) : Host.Outcome State Fault Refusal :=
  serveRow (fun r => r.op == .writeStretcher) m u s
/-- WRITE_BRICK. -/
def execWriteBrick (m : Nat) (u : Upset) (s : State) : Host.Outcome State Fault Refusal :=
  serveRow (fun r => r.op == .writeBrick) m u s
/-- ADD (a reserved AOP is refused here too, R216). -/
def execAdd (m : Nat) (u : Upset) (s : State) : Host.Outcome State Fault Refusal :=
  serveRow (fun r => isAop 0 r || (r.op == .atomic && aopOf r.control ≥ 8)) m u s
/-- MIN. -/
def execMin (m : Nat) (u : Upset) (s : State) : Host.Outcome State Fault Refusal := serveRow (isAop 1) m u s
/-- MAX. -/
def execMax (m : Nat) (u : Upset) (s : State) : Host.Outcome State Fault Refusal := serveRow (isAop 2) m u s
/-- CAS. -/
def execCas (m : Nat) (u : Upset) (s : State) : Host.Outcome State Fault Refusal := serveRow (isAop 3) m u s
/-- SWAP. -/
def execSwap (m : Nat) (u : Upset) (s : State) : Host.Outcome State Fault Refusal := serveRow (isAop 4) m u s
/-- CELL_W64. -/
def execCellW64 (m : Nat) (u : Upset) (s : State) : Host.Outcome State Fault Refusal := serveRow (isAop 5) m u s
/-- CELL_X512. -/
def execCellX512 (m : Nat) (u : Upset) (s : State) : Host.Outcome State Fault Refusal := serveRow (isAop 6) m u s
/-- TOUCH. -/
def execTouch (m : Nat) (u : Upset) (s : State) : Host.Outcome State Fault Refusal := serveRow (isAop 7) m u s

/-! ## Lines that return -/

/-- How a posted read ends once its lines are in. -/
inductive ReadEnd
  | data (d : Bytes) | err (e : MemErr)
  /-- the repeat of R187 and R206; whether a line was uncorrectable -/
  | again (ue : Bool)

/-- The line of a posted read: what its holder made of it, or as the stack holds it, with RERR. -/
def gotPart (s : State) (n : Nat) (p : PendingRead) (h : HbmPart) : Line × BitVec 2 :=
  (suppliedPart p.got h).getD (storedPart s n p.req.brick (p.req.off / 256) h, 0)

/-- The bytes of the stretcher's data lines and the 8-byte tag, and whether one of them was uncorrectable. -/
def gotStretcher (s : State) (n : Nat) (p : PendingRead) (tagged : Bool) : Bytes × Bytes × Bool :=
  let parts := allLines.map fun h => (h, gotPart s n p h)
  let tag := gotPart s n p .tag
  let st := p.req.off / 256
  let want (h : HbmPart) : Bool := p.cls != .s || p.fill.isSome || p.req.op != .readLine || h == lineOf p.req
  (parts.flatMap fun x => lineBytes x.2.1, bslice (lineBytes tag.1) (8 * (st % 8)) 8
  , (parts.any fun x => want x.1 && x.2.2 == 2) || (tagged && tag.2 == 2))

/-- The end of a read whose stretcher key is known (R185, R187, R206): RETRY_OK counts only mismatches that the repeat cures, and a
read whose first attempt met an uncorrectable line ends in MEM_UE. (DEDUCED, log entry 19) -/
def authenticate (s : State) (n : Nat) (p : PendingRead) (k : StretcherKey) : State × ReadEnd :=
  let (ct, tag, ue) := gotStretcher s n p true
  match if ue then none else openStretcher k ct tag with
  | some d =>
    (if p.retried ∧ !p.firstUe then updMpe s n fun m => { m with retryOk := satAdd 16 m.retryOk 1 } else s, .data d)
  | none =>
    if !p.retried then (s, .again ue)
    else if ue ∨ p.firstUe then (s, .err .memUe)
    else (if p.cls = .c then editRec s n p.req.brick fun r => { r with suspect := true } else s, .err .integrity)

/-- The key of a class C stretcher under the heart note and generation that the read is bound to. (DEDUCED, log entry 19) -/
def boundKeyC (s : State) (n : Nat) (p : PendingRead) (r : Rec) : StretcherKey :=
  let l (u : Nat) : Label :=
    { purpose := u, epoch := p.gen % 4, stack := n, cls := 1, index := p.gen, gid := gidOf s r.owner }
  let st := p.req.off / 256
  { enc := derive p.heart (l 0x10), tag := derive p.heart (l 0x11), stack := n, brick := p.req.brick, st := st
    major := r.major, minor := tgetD r.minor st 0, epoch := p.gen % 4, boot := bootOf (k5 s) }

/-- The key of a class R stretcher that the read is bound to. -/
def boundKeyR (s : State) (n : Nat) (p : PendingRead) : StretcherKey :=
  let l (u : Nat) : Label :=
    { purpose := u, epoch := p.gen % 4, stack := n, cls := 2, index := p.gen, gid := gidOf s p.owner }
  { enc := derive p.heart { l 0x12 with sealVal := p.sealVal }, tag := derive p.heart (l 0x13), stack := n
    brick := p.req.brick, st := p.req.off / 256, epoch := p.gen % 4, boot := bootOf (k5 s), sealVal := some p.sealVal }

/-- How a posted class C read ends: the record decides first (R24, R186, R208), and FROZEN for a fill (Table 8.13). A fill's waiting
requests pass the owner comparison each by itself, against the entry. -/
def endReadC (s : State) (n : Nat) (p : PendingRead) : State × ReadEnd :=
  match loadCourse s n p.req.brick p.got with
  | (s, .ok) =>
    let r := heldRec (getMpe s n) p.req.brick
    let liveRec := r.init && r.cls == .c && r.epoch == p.gen % 4
    if p.fill.isNone ∧ p.req.accord ≠ (if liveRec then r.owner else p.owner) then (s, .err .access)
    else if isLost (getMpe s n) p.req.brick then (s, .err .lost)
    else if p.fill.isSome ∧ r.frozen then (s, .err .majorExhausted)
    else if !liveRec then (s, .data (zeros 256))
    else authenticate s n p (boundKeyC s n p r)
  | (s, l) => let (s, e) := loadErr s n l; (s, .err e)

/-- How a posted read ends. -/
def endRead (s : State) (n : Nat) (p : PendingRead) : State × ReadEnd :=
  if (getMpe s n).capState = 2 then (s, .err .stackHalted)
  else match p.cls with
    | .c => endReadC s n p
    | .r => authenticate s n p (boundKeyR s n p)
    | .s =>
      let (ct, _, ue) := gotStretcher s n p false
      if ue then (if p.retried then (s, .err .memUe) else (s, .again true))
      else (s, .data (mixLines (k5 s) true n p.req.brick (4 * (p.req.off / 256)) ct))

/-- The result of the fill that read `rid` makes kept in its entry, if that entry still waits for this read (R457), with the owner
that the record gives (R223). -/
def keepFill (s : State) (n x rid : Nat) (res : FillResult) : State :=
  match storeEntry s n x with
  | some en =>
    if en.state = .filling ∧ en.fillRead = some rid then
      let en := { en with fillResult := some res, owner := fillOwner s n (x / 16) en.cls en.owner }
      updMpe s n fun m => { m with store := tset m.store x en }
    else s
  | none => s

/-- Posted read `rid`, all of whose lines are in, ended. (DEDUCED, log entry 56) -/
def completeRead (s : State) (n rid : Nat) (p : PendingRead) : State :=
  let drop (s : State) : State := updMpe s n fun m => { m with reads := tdel m.reads rid }
  if inDry s then
    match p.fill with
    | none => answer (drop s) p.req (some .stackHalted) []
    | some x => keepFill (drop s) n x rid (.failed .stackHalted)
  else match endRead s n p with
    | (s, .again ue) =>
      let lines : List HbmPart := p.need ++ (if p.cls = .s then
        (if p.req.op = .readLine ∧ p.fill.isNone then [lineOf p.req] else allLines) else .tag :: allLines)
      let keep := p.got.filter fun g => match g.1 with
        | .node _ => true
        | _ => false
      updMpe s n fun m =>
        { askParts m p.req.brick (p.req.off / 256) rid lines with
          reads := tset m.reads rid { p with need := lines, got := keep, retried := true, firstUe := ue } }
    | (s, .data d) => match p.fill with
      | none => answer (drop s) p.req none (readData p.req d)
      | some x => keepFill (drop s) n x rid (.data d)
    | (s, .err e) => match p.fill with
      | none => refuse (drop s) n p.req e
      | some x => keepFill (drop s) n x rid (.failed e)

/-- A line of posted read `rid` arrives. A line left as the stack holds it is read when the last one is in. -/
def lineArrives (s : State) (n rid : Nat) (part : HbmPart) (line : Option Line) (rerr : BitVec 2) : State :=
  match tget (getMpe s n).reads rid with
  | none => s
  | some p =>
    if !p.need.contains part then s
    else
      let l := line.getD (storedPart s n p.req.brick (p.req.off / 256) part)
      let p := { p with need := p.need.erase part
                        got := if line.isSome ∨ rerr ≠ 0 then p.got ++ [(part, l, rerr)] else p.got }
      if p.need.isEmpty then finishEpochC (finishEpochR (completeRead s n rid p))
      else updMpe s n fun m => { m with reads := tset m.reads rid p }

/-- HBM_READ_RETURN (R184, R185, R187, R206, R211). -/
def execHbmReadReturn (m rid : Nat) (part : HbmPart) (line : Option Line) (rerr : BitVec 2) (s : State) :
    Host.Outcome State Fault Refusal :=
  if running s then .next (settleAll (lineArrives s m rid part line rerr)) else .next s

/-- STORE_FILL_COMPLETE. -/
def execStoreFillComplete (m stretcher : Nat) (s : State) : Host.Outcome State Fault Refusal :=
  if running s then .next (settle (fillComplete s m stretcher)) else .next s

/-! ## Re-encryption -/

/-- REENCRYPTION_COMPLETE: the re-encryption of a brick ends, once the brick's reads are in (R190, R191). -/
def reencComplete (s : State) (n b : Nat) : State :=
  match (getMpe s n).reenc.find? fun x => x.brick == b with
  | none => s
  | some x => if (getMpe s n).reads.any fun p => p.2.req.brick == b then s else finishReenc s n x

/-- REENCRYPTION_COMPLETE. -/
def execReencryptionComplete (m brick : Nat) (s : State) : Host.Outcome State Fault Refusal :=
  if running s then .next (settleAll (reencComplete s m brick)) else .next s

end Sys2Proof.Machine
end

