-- ==== Sys2Proof/Machine/Flip.lean ====
section
/-! DEFINITION. Key phases on the sending side of a bond (R262 to R264): starting a flip, what PHASE_READY and PHASE_DONE do, and
the commands that wait for flips. -/

namespace Sys2Proof.Machine

/-- Streams of a bond that a flip concerns: OPEN, and DRAINING since they still acknowledge. -/
def flipStreams (s : State) (b : Nat) : List Nat :=
  ((bondStreams s b).filter fun pe =>
    (getStream s pe.1 pe.2).state == .opened || (getStream s pe.1 pe.2).state == .draining).map fun pe => streamNo pe.1 pe.2

/-- Whether the next flip of the sending direction carries ROOT_CHANGE. -/
def rootChange (x : Bond) : Bool := x.nextRoot.any fun r => r != x.root

/-- Whether a stream of a bond is OPENING. -/
def openingStream (s : State) (b : Nat) : Bool := !(streamsWhere s fun _ x => x.bond == b && x.state == .opening).isEmpty

/-- A flip of the sending direction starts: PHASE_PREPARE, with new salts when the root changes (R263 step 1, R264). One that changes
the root waits for streams that are OPENING, whose salts belong to the old root. (DEDUCED, log entry 64) -/
def startFlip (s : State) (b : Nat) : State :=
  let x := getBond s b
  let change := rootChange x
  if x.state ≠ .live ∨ x.flipping ∨ (rootWornOut x ∧ !change) then s
  else if change && openingStream s b then updBond s b fun x => { x with flipDue := true }
  else
    let g := (x.txGen + 1) % 65536
    let ns := if change then flipStreams s b else []
    let salts : Tab Word := (List.range ns.length).foldl (fun t i => tset t ((ns[i]?).getD 0) (BitVec.ofNat 32 i)) []
    let body := toLE g 2 ++ toLE (b2n change) 1 ++ [0] ++ toLE ns.length 2
      ++ (List.range ns.length).flatMap fun i => toLE (getS s ((ns[i]?).getD 0)).peerStream 2 ++ toLE i 4
    let s := updBond s b fun x =>
      { x with flipping := true, flipDue := false, flipRoot := if change then x.nextRoot else none, newSalts := salts
               salt := if change then ns.length else x.salt }
    controlMessage s b 0x0105 body

/-- Flips that waited for an OPENING stream, started once there is none. -/
def startDueFlips (s : State) : State :=
  (s.bonds.filter fun b => b.2.flipDue && b.2.state == .live).foldl (fun s b => startFlip s b.1) s

/-- The re-agreed root is forgotten once both directions use it. -/
def clearRoot (s : State) (b : Nat) : State :=
  let x := getBond s b
  if x.nextRoot = some x.root ∧ x.rxRoot = x.root then updBond s b fun x => { x with nextRoot := none } else s

/-- Every stream of a bond that has still to move to the current generation, moved where its window boundary allows. -/
def moveStreams (s : State) (b : Nat) : State :=
  (ctlNo b :: (bondStreams s b).map fun pe => streamNo pe.1 pe.2).foldl moveStream s

/-- PHASE_READY: the new generation is in force, and every stream of the bond goes on under it at its next window boundary, with an
empty window (R263 step 2). -/
def readyFlip (s : State) (b g : Nat) : State :=
  let x := getBond s b
  if !x.flipping ∨ g ≠ (x.txGen + 1) % 65536 then s
  else
    let s := updBond s b fun x =>
      { x with oldTx := some x.root, root := x.flipRoot.getD x.root, txGen := g
               rootGens := if x.flipRoot.isSome then 1 else x.rootGens + 1, flipRoot := none
               ctl := { x.ctl with moveDue := true } }
    let s := { s with ports := tmap s.ports fun _ p =>
                 { p with genWindows := tdel p.genWindows b
                          streams := tmap p.streams fun _ y => if y.bond = b then { y with moveDue := true } else y } }
    let s := clearRoot (moveStreams s b) b
    if rootWornOut (getBond s b) ∧ (getBond s b).nextRoot.isNone then
      raise s { code := 0x34, unit := unitPort, inst := (controlPort s b).getD 0 }
    else s

/-- Whether a stream still has a window, open or held, of a generation other than `g`. -/
def holdsOld (g : Nat) (y : Stream) : Bool := y.sent.any (fun w => w.gen != g) || y.win.any fun w => w.gen != g

/-- The sender's old key zeroized once no window under it is held (R263 step 4). -/
def dropOldTx (s : State) (b : Nat) : State :=
  let x := getBond s b
  let held : Bool := holdsOld x.txGen x.ctl || (bondStreams s b).any fun pe => holdsOld x.txGen (getStream s pe.1 pe.2)
  if !x.flipping && !held then updBond s b fun y => { y with oldTx := none } else s

/-- Commands that wait for a flip of bond `b` to end; `rx`: the peer's direction is done. BOND_REKEY completes when both are. -/
def rekeyDone (s : State) (b : Nat) (rx : Bool) : State :=
  (s.started.filter fun e => match e.2.wait with
    | .bondRekey b' _ _ => b' == b
    | _ => false).foldl
    (fun s e => match e.2.wait with
      | .bondRekey _ t r =>
        -- a command queued behind a flip has not begun
        if (getBond s b).rekeyQueued = some e.1 then s
        else
          let t' := t || !rx
          let r' := r || rx
          if t' && r' then finish s e.1 .ok 0 0 else setWait s e.1 (.bondRekey b t' r')
      | _ => s) s

/-- PHASE_DONE: the flip of the sending direction is over (R263 step 4). -/
def doneFlip (s : State) (b g : Nat) : State :=
  let x := getBond s b
  if !x.flipping ∨ g ≠ x.txGen then s
  else rekeyDone (dropOldTx (updBond s b fun x => { x with flipping := false, newSalts := [] }) b) b false

/-- BOND_REKEY's flip and request (R262). -/
def beginRekey (s : State) (b : Nat) : State := controlMessage (startFlip s b) b 0x010C []

/-- Whether a BOND_REKEY of bond `b` that is not the queued one is still running. -/
def rekeyRunning (s : State) (b : Nat) : Bool :=
  s.started.any fun e => match e.2.wait with
    | .bondRekey b' _ _ => b' == b && (getBond s b).rekeyQueued != some e.1
    | _ => false

/-- Queued BOND_REKEY commands begun where the flips before them are over (R263). -/
def startQueuedRekeys (s : State) : State :=
  (s.bonds.filter fun b => b.2.rekeyQueued.isSome && !b.2.flipping && b.2.state == .live).foldl
    (fun s b => if rekeyRunning s b.1 then s else beginRekey (updBond s b.1 fun x => { x with rekeyQueued := none }) b.1) s

end Sys2Proof.Machine
end

