-- ==== Sys2Proof/Machine/Routes.lean ====
section
/-! DEFINITION. The routes of remote requests (R272, R273, R277, R278, R281, R286): which path a translated request takes, and
when it is held. -/

namespace Sys2Proof.Machine

/-! ## Routes (R272, R273, R277, R278) -/

/-- The LIVE bond to chip `d`. -/
def bondTo (s : State) (d : Nat) : Option Nat := (s.bonds.find? fun b => b.2.state == .live && b.2.peer == d).map (·.1)

/-- OPEN streams of accord `a` on bond `b`, in ascending stream number. -/
def openStreams (s : State) (a b : Nat) : List Nat :=
  (streamsWhere s fun _ x => x.state == .opened && x.accord == a && x.bond == b).map fun x => streamNo x.1 x.2

/-- GATEWAY-mode ports that accord `a` binds and that are UP (R272; R39: and whose LPE is in service). -/
def gatewayPorts (s : State) (a : Nat) : List Nat :=
  (List.range 32).filter fun p => (getPort s p).gateway && (getPort s p).state == .up && portServes s p && boundTo s .port p a

/-- A set of ports as a mask. -/
def portMask (ps : List Nat) : Nat := ps.foldl (fun m p => m + 2 ^ p) 0

/-- Whether the gateway route of an accord to a chip is another one than its operations were sent on: the set of gateway ports has
changed (R273). -/
def gatewayMoved (s : State) (a d : Nat) : Bool :=
  (tget (getAccord s a).farRoute d).any fun m => m != portMask (gatewayPorts s a)

/-- The routes of R272. -/
inductive Route
  | bond (b : Nat) | gateway (p : Nat) | none
deriving DecidableEq, Repr

/-- The route of an accord to a chip (R272, R273). (DEDUCED, log entry 63) -/
def routeTo (s : State) (a d : Nat) : Route :=
  let byBond : Option Nat := (bondTo s d).filter fun b => !(openStreams s a b).isEmpty
  match byBond with
  | some b => .bond b
  | Option.none =>
    let g := gatewayPorts s a
    if (getAccord s a).far ∧ !g.isEmpty then .gateway ((g[d % g.length]?).getD 0) else .none

/-- CRC-32C with a preset in place of all ones (R277). -/
def hashBucket (seed : Word) (t b st : Nat) : Nat :=
  let v := t * 2 ^ 28 + 16 * b + st
  (((toLE v 4).foldl (crcByte 32 0x1EDC6F41 true) seed.toNat).xor 0xFFFFFFFF) % 64

/-- The bucket of a request on a bond. (DEDUCED, log entry 63) -/
def bucketOf (s : State) (b : Nat) (r : Req) : Nat := hashBucket (getBond s b).hashSeed r.stack r.brick (r.off / 256)

/-- Requests on streams not answered yet, with their stream: awaiting a response, or waiting at the transmit stage. -/
def streamReqs (s : State) : List (Nat × Req) :=
  s.ports.flatMap fun p =>
    (p.2.streams.flatMap fun e => e.2.outstanding.map fun o => (streamNo p.1 e.1, o.2))
      ++ p.2.tx.map fun t => (streamNo p.1 t.1, t.2)

/-- Requests on gateway ports not answered yet, with their port. -/
def gatewayReqs (s : State) : List (Nat × Req) :=
  s.ports.flatMap fun p =>
    (p.2.gwIn ++ p.2.gwOpen.flatMap (·.reqs) ++ p.2.gwSent.flatMap (·.reqs)).map fun r => (p.1, r)

/-- Whether a request belongs to an accord and a target chip. -/
def isFor (a d : Nat) (r : Req) : Bool := r.accord == a && r.chip == d

/-- Whether operations of the accord to the chip are still out on a route other than `rt` (R272). (DEDUCED, log entry 63) -/
def oldRouteBusy (s : State) (a d : Nat) (rt : Route) : Bool :=
  match rt with
  | .bond _ => (gatewayReqs s).any fun x => isFor a d x.2
  | .gateway p =>
    ((streamReqs s).any fun x => isFor a d x.2)
      || (gatewayReqs s).any fun x => (x.1 != p || gatewayMoved s a d) && isFor a d x.2
  | .none => ((streamReqs s).any fun x => isFor a d x.2) || (gatewayReqs s).any fun x => isFor a d x.2

/-- A request kept at the port of the cluster that translated it, until its path is free (R272, R278). (DEDUCED, log entry 63) -/
def holdRemote (s : State) (r : Req) : State :=
  updPort s (4 * (r.via.getD 0 % 8)) fun p => { p with heldReqs := p.heldReqs ++ [r] }

/-- A request that is not sent: ERROR, with a fault (Table 10.7). (DEDUCED, log entry 20) -/
def remoteRefuse (s : State) (r : Req) (code fence : BitVec 8) (rung : Option Nat) : State :=
  let p := 4 * (r.via.getD 0 % 8)
  let s := raise s
    { originFault s r.origin code unitPort p r.accord fence with
      rung := rung, detail6 := 0, detail7 := BitVec.ofNat 32 (r.chip % 65536) }
  answer s r (some .lost) []

/-- Whether a request is under the LOST mark of its core group for its chip (R281). -/
def underMark (s : State) (r : Req) : Bool :=
  match r.origin with
  | .core cg _ => (getCore s cg).lostChips.contains r.chip
  | _ => false

/-- Whether a request may travel as a stream entry (Table 10.1). -/
def streamOp : MemOp → Bool
  | .writeBrick | .reserved => false
  | _ => true

/-- Whether a request may travel as a far operation (R286). -/
def farOp (r : Req) : Bool :=
  match r.op with
  | .readLine | .readStretcher | .writeStretcher => true
  | .writeLine => r.mask == BitVec.allOnes 64
  | _ => false

/-- A translated request to another chip routed (R272 to R278, R281, R286). `ahead` are requests held before it.
(DEDUCED, log entry 20) -/
def sendRemote (s : State) (ahead : List Req) (r : Req) : State :=
  if inDry s then answer s r (some .lost) []
  else if underMark s r then remoteRefuse s r 0x42 0x04 none
  else
    let rt := routeTo s r.accord r.chip
    if oldRouteBusy s r.accord r.chip rt then holdRemote s r
    else match rt with
      | .none => remoteRefuse s r 0x40 0x07 none
      | .gateway p =>
        if !farOp r then remoteRefuse s r 0x10 0x0B (some 2)
        else
          let s := updAccord s r.accord fun x => { x with farRoute := tset x.farRoute r.chip (portMask (gatewayPorts s r.accord)) }
          updPort s p fun x => { x with gwIn := x.gwIn ++ [r] }
      | .bond b =>
        if !streamOp r.op then remoteRefuse s r 0x10 0x0B (some 2)
        else
          let k := bucketOf s b r
          let l := openStreams s r.accord b
          let n := (l[k % l.length]?).getD 0
          let moving := (streamReqs s).any fun x => x.1 != n && isFor r.accord r.chip x.2 && bucketOf s b x.2 == k
          let behind := ahead.any fun q => isFor r.accord r.chip q && bucketOf s b q == k
          if moving || behind then holdRemote s r
          else updPort s (n / 256) fun p => { p with tx := p.tx ++ [(n % 256, r)] }

/-- Requests under a mark that wait at a transmit stage are not sent: they are answered ERROR (R281). -/
def refuseMarked (s : State) : State :=
  if s.cores.all fun c => c.2.lostChips.isEmpty then s
  else
    let gone := s.ports.flatMap fun p => (p.2.tx.filter fun t => underMark s t.2).map (·.2)
    let s := { s with ports := tmap s.ports fun _ p => { p with tx := p.tx.filter fun t => !underMark s t.2 } }
    gone.foldl (fun s r => remoteRefuse s r 0x42 0x04 none) s

/-- Every held request tried again, in its order (R272, R278, R281). -/
def releaseHeld (s : State) : State :=
  let held := s.ports.flatMap fun p => p.2.heldReqs
  if held.isEmpty then s
  else
    let s := { s with ports := tmap s.ports fun _ p => { p with heldReqs := [] } }
    held.foldl (fun s r => sendRemote s (s.ports.flatMap fun p => p.2.heldReqs) r) s

end Sys2Proof.Machine
end

