-- ==== Sys2Proof/Machine/Records.lean ====
section
/-! DEFINITION. Gateway records on the sending side: their bytes (R282, R283, R285), closing one (R284, R286) and keeping at most
64 of a port outstanding (R287). -/

namespace Sys2Proof.Machine

/-! ## Bytes -/

/-- The far key of an accord with FAR set, generation 0 (R138, R283); none while its key context is off the die. -/
def farKey (s : State) (a : Nat) : Option Bytes :=
  ((getAccord s a).ctx.filter fun _ => (getAccord s a).far).map fun c => derive c.heartShared { purpose := 0x30, gid := gidOf s a }

/-- OP values of Table 10.4. -/
def opWrite : Nat := 1
/-- READ_REQ. -/
def opReadReq : Nat := 2
/-- READ_DATA. -/
def opReadData : Nat := 3
/-- ACK. -/
def opAck : Nat := 4

/-- A run (Table 10.5): stack, brick, line, lines. -/
def runWord (r : Nat × Nat × Nat × Nat) : Nat :=
  r.1 % 8 * 2 ^ 61 + r.2.1 % 2 ^ 24 * 2 ^ 37 + r.2.2.1 % 64 * 2 ^ 31 + (r.2.2.2 - 1) % 2 ^ 14 * 2 ^ 16

/-- A run from its 8 bytes. -/
def runOf (w : Nat) : Nat × Nat × Nat × Nat := (w / 2 ^ 61, w / 2 ^ 37 % 2 ^ 24, w / 2 ^ 31 % 64, w / 2 ^ 16 % 2 ^ 14 + 1)

/-- A record header (Table 10.4); `runs` are the run words. -/
def recordHeader (src dest gid rseq ref len op arrival : Nat) (count : Nat) (runs : List Nat) : Bytes :=
  bslice (toLE src 2 ++ toLE dest 2 ++ toLE gid 4 ++ toLE rseq 8 ++ toLE ref 8 ++ toLE len 4 ++ toLE op 1
    ++ toLE (count + 0x10) 1 ++ toLE arrival 2 ++ runs.flatMap fun r => toLE r 8) 0 64

/-- IV of a record (R283). -/
def recordIv (src dest rseq : Nat) : Bytes := toBE src 2 ++ toBE dest 2 ++ toBE rseq 8

/-- A record of header `h` and payload `d` under a far key, as it travels. -/
def sealFarRecord (key h d : Bytes) : Bytes :=
  let iv := recordIv (leField h 0 2) (leField h 2 2) (leField h 8 8)
  let ct := gcmCrypt key iv d
  h ++ ct ++ gcmTag key iv h ct

/-- The GATEWAY flits of a record's bytes (R285). -/
def recordFlits (src dest : Nat) (b : Bytes) : List Bytes :=
  let cs := chunks 240 b
  (List.range cs.length).map fun i => flitHeader dest src 5 0 i 0 ++ bslice ((cs[i]?).getD []) 0 240

/-- A record put on the wire of port `p`; a port that is not UP transmits nothing. (DEDUCED, log entry 21) -/
def sendRecord (s : State) (p : Nat) (key h d : Bytes) : State :=
  if (getPort s p).state ≠ .up then s
  else updPort s p fun x => { x with egress := x.egress ++ recordFlits (leField h 0 2) (leField h 2 2) (sealFarRecord key h d) }

/-- The header of a request record. -/
def requestHeader (s : State) (r : Record) : Bytes :=
  recordHeader s.chipId r.chip.toNat (gidOf s r.accord).toNat r.rseq r.prev (if r.read then 0 else r.data.length)
    (if r.read then opReadReq else opWrite) r.arrival.toNat r.runs.length (r.runs.map runWord)

/-! ## Sending (R286, R287) -/

/-- Whether two records are the same. -/
def sameRecord (r q : Record) : Bool := r.accord == q.accord && r.chip == q.chip && r.rseq == q.rseq

/-- The first record of port `p` that waits sent, when fewer than 64 await a response. -/
def pumpRecord (s : State) (p : Nat) : State :=
  let l := (getPort s p).gwSent
  if (l.filter (·.sent)).length ≥ 64 then s
  else match l.find? fun r => !r.sent with
    | none => s
    | some r =>
      let s := (makeResident s r.accord).1
      match farKey s r.accord with
      | none => s
      | some key =>
        let s := sendRecord s p key (requestHeader s r) (if r.read then [] else r.data)
        updPort s p fun x =>
          { x with gwSent := x.gwSent.map fun q => if sameRecord r q then { q with sent := true } else q, txRec := x.txRec + 1 }

/-- Every record that may be sent, sent. -/
def pumpRecords (s : State) (p : Nat) : State := (getPort s p).gwSent.foldl (fun s _ => pumpRecord s p) s

/-- Record `r` closed at port `p`: it takes the next request RSEQ of its pair, and PREV (R284, R286, R287). -/
def closeRecord (s : State) (p : Nat) (r : Record) : State :=
  let x := getAccord s r.accord
  let d := r.chip.toNat
  let n := tgetD x.farSeq d 0 + 1
  let r := { r with rseq := n, prev := tgetD x.farPrev d 0 }
  let s := updAccord s r.accord fun x => { x with farSeq := tset x.farSeq d n, farPrev := tset x.farPrev d n }
  updPort s p fun y => { y with gwSent := y.gwSent ++ [r] }

/-- The open record of an accord and chip at a port. -/
def openRecord (s : State) (p a d : Nat) : Option Record :=
  (getPort s p).gwOpen.find? fun r => r.accord == a && r.chip.toNat == d

/-- The open record of a pair taken from a port. -/
def dropOpen (s : State) (p a d : Nat) : State :=
  updPort s p fun x => { x with gwOpen := x.gwOpen.filter fun r => !(r.accord == a && r.chip.toNat == d) }

/-- The open record of a pair closed, if there is one. -/
def closeOpen (s : State) (p a d : Nat) : State :=
  match openRecord s p a d with
  | some r => closeRecord (dropOpen s p a d) p r
  | none => s

/-- Open records whose route is no longer this port closed (R286), and every port's waiting records sent as far as they may. -/
def settleRecords (s : State) : State :=
  let stale := s.ports.flatMap fun p =>
    (p.2.gwOpen.filter fun r =>
      routeTo s r.accord r.chip.toNat != .gateway p.1 || gatewayMoved s r.accord r.chip.toNat).map fun r => (p.1, r.accord, r.chip.toNat)
  let s := stale.foldl (fun s x => closeOpen s x.1 x.2.1 x.2.2) s
  (s.ports.map (·.1)).foldl pumpRecords s

/-- Streams that are still to move to their bond's generation, moved where they can be (R263). -/
def moveAll (s : State) : State := (s.bonds.map (·.1)).foldl moveStreams s

/-- What follows any change of streams or answers: finished streams, bonds and ports close, flips and queued re-keyings go on, records
whose route changed close, requests under a mark are answered, and held requests go on. -/
def fabricSettle (s : State) : State :=
  settleAll (releaseHeld (refuseMarked (settleRecords (startQueuedRekeys (startDueFlips (moveAll (closeFinished s)))))))

end Sys2Proof.Machine
end

