-- ==== Sys2Proof/Machine/Fabric.lean ====
section
/-! DEFINITION. Remote requests (chapter 10, R272 to R281, R291): entries, responses, arrival counters, and the receiving and
resending sides of a port's streams (R253 to R261, R266). -/

namespace Sys2Proof.Machine

/-! ## Entries (R274 to R276) -/

/-- TYPE of a request entry. -/
def entryType : MemOp → Nat
  | .readLine => 1 | .readStretcher => 2 | .writeLine => 3 | .writeStretcher => 4 | _ => 5

/-- A request as an entry. (DEDUCED, log entry 20) -/
def requestEntry (r : Req) (oseq : Nat) : Bytes :=
  let arr : Bool := r.arrival.getLsbD 10
  toLE (entryType r.op) 1 ++ toLE (b2n arr) 1 ++ toLE (if arr then fld r.arrival 9 0 else 0) 2 ++ toLE oseq 4
    ++ toLE (r.stack * 2 ^ 36 + r.brick * 2 ^ 12 + r.off) 8
    ++ match r.op with
      | .writeLine => toLE r.mask.toNat 8 ++ bslice r.data 0 64
      | .writeStretcher => bslice r.data 0 256
      | .atomic => toLE r.control.toNat 4 ++ zeros 4 ++ toLE r.mask.toNat 8 ++ bslice r.data 0 64
      | _ => []

/-- A response entry. (DEDUCED, log entry 20) -/
def responseEntry (x : Answered) : Bytes :=
  let type := if x.code ≠ 0 ∨ x.data.isEmpty then 0x81 else if x.data.length ≤ 64 then 0x82 else 0x83
  toLE type 1 ++ toLE x.code.toNat 1 ++ zeros 2 ++ toLE x.oseq.toNat 4 ++ zeros 8
    ++ if type = 0x81 then [] else if type = 0x82 then bslice x.data 0 64 else bslice x.data 0 256

/-- An entry of a verified window. -/
inductive Entry
  | request (oseq : BitVec 32) (r : Req)
  | response (oseq : BitVec 32) (status : BitVec 8) (data : Bytes)
  /-- a reserved type: the rest of the window is discarded -/
  | reserved

/-- The entry at the front of a window's plaintext, with its length; none at its end. -/
def entryAt (b : Bytes) : Option (Entry × Nat) :=
  let t := leField b 0 1
  let w := leField b 8 8
  let oseq := BitVec.ofNat 32 (leField b 4 4)
  let arr : BitVec 11 := if leField b 1 1 % 2 = 1 then BitVec.ofNat 11 (1024 + leField b 2 2 % 1024) else 0
  let req (op : MemOp) (mask : BitVec 64) (control : BitVec 32) (data : Bytes) : Entry :=
    .request oseq { origin := .block, accord := 0, op := op, stack := w / 2 ^ 36 % 8, brick := w / 2 ^ 12 % 2 ^ 24
                    off := w % 4096, mask := mask, control := control, data := data, arrival := arr }
  let status := BitVec.ofNat 8 (leField b 1 1)
  if b.isEmpty ∨ t = 0 then none
  else match t with
    | 1 => some (req .readLine 0 0 [], 16)
    | 2 => some (req .readStretcher 0 0 [], 16)
    | 3 => some (req .writeLine (BitVec.ofNat 64 (leField b 16 8)) 0 (bslice b 24 64), 88)
    | 4 => some (req .writeStretcher 0 0 (bslice b 16 256), 272)
    | 5 => some (req .atomic (BitVec.ofNat 64 (leField b 24 8)) (BitVec.ofNat 32 (leField b 16 4)) (bslice b 32 64), 96)
    | 0x81 => some (.response oseq status [], 16)
    | 0x82 => some (.response oseq status (bslice b 16 64), 80)
    | 0x83 => some (.response oseq status (bslice b 16 256), 272)
    | _ => some (.reserved, b.length)

/-- The entries of a window, in order. -/
def entriesOf (fuel : Nat) (b : Bytes) : List Entry :=
  match fuel with
  | 0 => []
  | k + 1 => match entryAt b with
    | none => []
    | some (.reserved, _) => [.reserved]
    | some (e, n) => e :: entriesOf k (b.drop n)

/-! ## Sending -/

/-- Whether one more request of stream `n` may await a response (R275). -/
def outstandingRoom (s : State) (p e : Nat) : Bool :=
  (getStream s p e).outstanding.length < 4096
    && (getPort s p).streams.foldl (fun k x => k + x.2.outstanding.length) 0 < 16384

/-- Whether an entry that waits for stream `n` would join its open window: the next request of the transmit stage, or the next response. -/
def entryFollows (s : State) (n : Nat) : Bool :=
  let x := getS s n
  let next := ((getPort s (n / 256)).tx.find? fun t => t.1 == n % 256).map fun t => requestEntry t.2 x.oseq.toNat
  x.win.any fun w => next.any (takesEntry w) || (x.responses.head?).any fun a => takesEntry w (responseEntry a)

/-- The DATA flit that stream `n` is filling sent, unless an entry follows for it at once (R256). -/
def endFlit (s : State) (n : Nat) : State := if entryFollows s n then s else flushFlit s n

/-- The first request of the transmit stage that can be packed now, with the state that packs it: each stream's requests in their order,
and streams that must wait passed by the others (R275). -/
def sendable (s : State) (p : Nat) : List (Nat × Req) → List Nat → Option (State × Nat × Req)
  | [], _ => none
  | (e, r) :: rest, waiting =>
    if waiting.contains e then sendable s p rest waiting
    else if !outstandingRoom s p e then sendable s p rest (e :: waiting)
    else match packEntry s (streamNo p e) (requestEntry r (getStream s p e).oseq.toNat) with
      | some s => some (s, e, r)
      | none => sendable s p rest (e :: waiting)

/-- One request of the transmit stage packed as an entry, which then awaits its response (R257, R274, R275). -/
def transmitRequest (s : State) (p : Nat) : State :=
  match sendable s p (getPort s p).tx [] with
  | none => s
  | some (s, e, r) =>
    let s := updPort s p fun y => { y with tx := y.tx.erase (e, r) }
    let s := updStream s p e fun x => { x with oseq := x.oseq + 1, outstanding := x.outstanding ++ [(x.oseq, r)] }
    endFlit s (streamNo p e)

/-- Number of a port's lane in direction `dir` (0 transmit, 1 receive): working lanes 0 to 7, and the spare 8 (R237). -/
def portLane (dir lane : Nat) : Nat := 9 * dir + lane

/-- The mismatches that the spare of a direction of port `p` finds on one flit, by lane (R33, R267): the lanes are marked, and a second one
on a transmitted flit takes the port to rung 1. A spare that works in a lane's place finds none (R448). -/
def portMismatch (s : State) (p dir : Nat) (lanes : List Nat) : State :=
  let u : UnitRef := .lpePort p
  (List.range lanes.length).foldl
    (fun s i =>
      let l := portLane dir ((lanes[i]?).getD 0)
      let s := raise s { code := 0x15, unit := unitPort, inst := p, rung := if dir = 0 ∧ i = 1 then some 1 else none, ref := some u }
      updPort s p fun x => { x with marked := if x.marked.contains l then x.marked else x.marked ++ [l] }) s

/-- The mismatches that count: none where the spare of the direction checks nothing. -/
def seenLanes (s : State) (p dir : Nat) (lanes : List Nat) : List Nat := if (getPort s p).unchecked.contains dir then [] else lanes

/-- Bonds whose control messages wait for port `p`. -/
def controlWaits (s : State) (p : Nat) : List Nat :=
  (s.bonds.filter fun b => !b.2.outbox.isEmpty && controlPort s b.1 == some p).map (·.1)

/-- Whether a port has something to encrypt. -/
def portSends (s : State) (p : Nat) : Bool :=
  let x := getPort s p
  !x.tx.isEmpty || !x.gwSent.isEmpty || !(controlWaits s p).isEmpty || x.streams.any fun e => e.2.win.isSome || !e.2.responses.isEmpty

/-- PORT_TRANSMIT: the port sends what waits: control messages of the bonds whose control stream it carries, then one request.
`lanes` are the working lanes that disagreed with the spare, one for each attempt at a flit. After one it is encrypted again; the second
discards what every stream of the port holds (Table 9.10). -/
def portTransmit (s : State) (p : Nat) (lanes : List Nat) : State :=
  let st := (getPort s p).state
  if (st ≠ .up ∧ st ≠ .draining) ∨ !portServes s p ∨ !portSends s p then s
  else
    let seen := (seenLanes s p 0 lanes).take 2
    let s := portMismatch s p 0 seen
    if seen.length ≥ 2 then (streamsWhere s fun q _ => q == p).foldl (fun s pe => failStream s pe.1 pe.2) s
    else transmitRequest ((controlWaits s p).foldl flushControl s) p

/-- PORT_TRANSMIT. -/
def execPortTransmit (p : Nat) (lanes : List Nat) (s : State) : Host.Outcome State Fault Refusal :=
  if live s then .next (fabricSettle (portTransmit s p lanes)) else .next s

/-- WINDOW_IDLE_CLOSE: the idle time of a stream's open window is over (R256). -/
def execWindowIdleClose (stream : Nat) (s : State) : Host.Outcome State Fault Refusal :=
  if live s then .next (fabricSettle (closeWindow s stream)) else .next s

/-- ACK_OWED_TIMEOUT: an acknowledgement or NAK has been owed for 64 lane cycles (R260). -/
def execAckOwedTimeout (stream : Nat) (s : State) : Host.Outcome State Fault Refusal :=
  if live s ∧ ((getS s stream).ackOwed ∨ (getS s stream).nakOwed) then .next (fabricSettle (sendEmpty s stream))
  else .next s

/-- A stream that gives up, with the fault of its cause (R267). -/
def failWith (s : State) (n : Nat) (code : BitVec 8) : State :=
  let x := getS s n
  let s := raise s { code := code, unit := unitPort, inst := (portOf s n).getD 0, accord := x.accord
                     detail6 := BitVec.ofNat 32 (n % 16384), detail7 := BitVec.ofNat 32 (getBond s (bondOf s n)).peer }
  if isCtl n then s else failStream s (n / 256) (n % 256)

/-- A resend of stream `n` from sequence `from_`; the eighth in a row of the oldest window was the last (R261). -/
def resendOrFail (s : State) (n from_ : Nat) : State :=
  match (getS s n).sent.head? with
  | none => s
  | some w =>
    let oldest : Bool := from_ ≤ w.seq
    if oldest ∧ (getS s n).resends ≥ 8 then failWith s n 0x30
    else resendWindows (updS s n fun x => { x with resends := if oldest then x.resends + 1 else x.resends }) n from_

/-- RETRANSMIT_TIMEOUT: ACK_SEQ has not advanced for 10 µs while windows are held (R261). -/
def execRetransmitTimeout (stream : Nat) (s : State) : Host.Outcome State Fault Refusal :=
  if live s then .next (fabricSettle (resendOrFail s stream 0)) else .next s

/-- STREAM_DRAIN_TIMEOUT: 20 µs in DRAINING (Table 9.6). -/
def execStreamDrainTimeout (stream : Nat) (s : State) : Host.Outcome State Fault Refusal :=
  if live s then .next (fabricSettle (drainExpired s (stream / 256) (stream % 256))) else .next s

/-! ## Receiving (R258 to R261, R266) -/

/-- The stream that a received flit belongs to, by its STREAM field alone: it may arrive on any port (R279). -/
def flitStream (s : State) (f : Bytes) : Option Nat :=
  let no := leField f 6 2 % 2 ^ 14
  let src := leField f 2 2
  if no = 0x2000 then
    (s.bonds.find? fun b => b.2.peer == src && (b.2.state == .live || b.2.state == .stale || b.2.state == .closing)).map
      fun b => ctlNo b.1
  else if no < 8192 then
    let x := getStream s (no / 256) (no % 256)
    if x.state = .opened ∨ x.state = .draining then some no else none
  else none

/-- Whether a port takes windows. -/
def portCarries (s : State) (p : Nat) : Bool :=
  !(getPort s p).gateway && ((getPort s p).state == .up || (getPort s p).state == .draining) && portServes s p

/-- Flits held for the windows of port `p` that are being assembled, one number for each window. -/
def assembling (s : State) (p : Nat) : List Nat :=
  (((getPort s p).streams.map fun e => e.2.held.length) ++
    (s.bonds.filter fun b => controlPort s b.1 == some p).map fun b => b.2.ctl.held.length).filter (· ≠ 0)

/-- LPE_RX_CREDIT: flits that the assembly buffer of 64 windows of 16 flits can accept (R269). -/
def rxCredit (s : State) (p : Nat) : BitVec 8 := BitVec.ofNat 8 (Nat.min 255 (1024 - (assembling s p).foldl (· + ·) 0))

/-- A flit that its receive lanes withheld is as flawed as one with an error (R33). -/
def flawedFlit (s : State) (p : Nat) (rxErr : Bool) (lanes : List Nat) : Bool := rxErr || !(seenLanes s p 1 lanes).isEmpty

/-- DATA_FLIT_RECEIVE: a DATA flit held in its window assembly (R258); one out of its place or flawed spoils the window, and so does one
that finds no room in the buffer (R269). -/
def dataFlit (s : State) (p : Nat) (f : Bytes) (rxErr : Bool) (lanes : List Nat) : State :=
  match flitStream s f with
  | none => s
  | some n =>
    let bad := flawedFlit s p rxErr lanes
    let room : Bool := !(getS s n).held.isEmpty || (assembling s p).length < 64
    let pos := leField f 5 1 % 16
    updS (portMismatch s p 1 (seenLanes s p 1 lanes)) n fun x =>
      { x with flawed := x.flawed || bad || !room || pos != x.held.length || leField f 4 1 != 1
               held := if room then tset x.held pos f else x.held }

/-- DATA_FLIT_RECEIVE. -/
def execDataFlitReceive (p : Nat) (flit : Bytes) (rxErr : Bool) (lanes : List Nat) (s : State) : Host.Outcome State Fault Refusal :=
  if live s ∧ portCarries s p then .next (settle (dataFlit s p flit rxErr lanes)) else .next s

/-- The receive key and generation that a PHASE selects (R263): the current generation, or the one before it while it is held
and the stream has not left it. -/
def rxKey (s : State) (n phase : Nat) : Option (Bytes × Nat) :=
  let b := getBond s (bondOf s n)
  let x := getS s n
  if phase = b.rxGen % 2 then some (linkKey s b false b.rxRoot b.rxGen, b.rxGen)
  else match b.oldRx with
    | some r => if x.rxGen = b.rxGen ∧ b.rxFlipping then none else some (linkKey s b false r ((b.rxGen + 65535) % 65536), (b.rxGen + 65535) % 65536)
    | none => none

/-- The plaintext of the window that a TAG flit ends, with its generation; none when it fails verification (R255, R259). -/
def openWindow (s : State) (n : Nat) (f : Bytes) (rxErr : Bool) : Option (Bytes × Nat) :=
  let x := getS s n
  let held := x.held.map (·.2)
  let cnt := leField f 37 1
  if x.flawed || rxErr || cnt != held.length then none
  else match rxKey s n (leField f 36 1 % 2) with
    | none => none
    | some (key, gen) =>
      let salt := if gen = x.rxGen then x.rxSalt else x.rxSaltNext.getD x.rxSalt
      let iv := windowIv salt x.rxSeq
      let aad := held.flatMap (bslice · 0 8) ++ bslice f 0 8 ++ bslice f 28 36
      let ct := held.flatMap fun h => bslice h 16 240
      if (gcmTag key iv aad ct).take 12 = bslice f 16 12 then some (gcmCrypt key iv ct, gen) else none

/-- What a verified window's ACK fields do on the reverse direction (R260, R261). -/
def takeAck (s : State) (n ack : Nat) (nak : Bool) : State :=
  let x := getS s n
  let keep := x.sent.filter fun w => w.seq ≥ ack
  let s := updS s n fun x => { x with sent := keep, resends := if keep.length < x.sent.length then 0 else x.resends }
  let s := dropOldTx s (bondOf s n)
  if nak then resendOrFail s n ack else s

/-- A response matched to its request (R279). -/
def takeResponse (s : State) (p e : Nat) (oseq : BitVec 32) (status : BitVec 8) (data : Bytes) : State :=
  match (getStream s p e).outstanding.find? fun o => o.1 == oseq with
  | none => s
  | some (_, r) =>
    let s := updStream s p e fun x => { x with outstanding := x.outstanding.filter fun o => o.1 != oseq }
    if status = 0 then answer s r none data
    else
      let s := updPort s p fun x => { x with refused := satAdd 32 x.refused 1 }
      let s := raise s { originFault s r.origin 0x41 unitPort p r.accord status with
                         detail6 := BitVec.ofNat 32 oseq.toNat, detail7 := BitVec.ofNat 32 (r.chip % 65536) }
      answer s r (some .lost) []

/-- The entries of an accord window of stream `n` released in order (R27, R276); `p` is the port it arrived on. -/
def releaseEntries (s : State) (p n : Nat) (pt : Bytes) : State :=
  (entriesOf 241 pt).foldl
    (fun s en =>
      let x := getS s n
      match en with
      | .request oseq r => deliver s r.stack { r with origin := .remote n x.inst oseq.toNat, accord := x.accord }
      | .response oseq status data => takeResponse s (n / 256) (n % 256) oseq status data
      | .reserved => raise s { code := 0x10, unit := unitPort, inst := p, accord := x.accord, rung := some 2 }) s

/-- The complete messages at the front of received control bytes, and what is left of them. A zero type is padding to the end
of the window. -/
def splitMessages (fuel : Nat) (b : Bytes) : List (BitVec 16 × Bytes) × Bytes :=
  match fuel with
  | 0 => ([], b)
  | k + 1 =>
    if b.length < 4 then ([], if b.all (· == 0) then [] else b)
    else if leField b 0 2 = 0 then ([], [])
    else
      let len := leField b 2 2
      if b.length < 4 + len then ([], b)
      else
        let (ms, rest) := splitMessages k (b.drop (4 + len))
        ((BitVec.ofNat 16 (leField b 0 2), bslice b 4 len) :: ms, rest)

/-- A verified control window: its messages of the types of Table 9.5 join the inbox, and the first one confirms the
keys, which completes BOND_OPEN
(R247, R250). -/
def controlWindow (s : State) (b : Nat) (pt : Bytes) : State :=
  let (ms, rest) := splitMessages 4096 ((getBond s b).partialMsg ++ pt)
  let s := updBond s b fun x => { x with inbox := x.inbox ++ ms.filter fun m => 0x0101 ≤ m.1.toNat && m.1.toNat ≤ 0x010C, partialMsg := rest }
  match (getBond s b).openCmd with
  | some id =>
    if (getBond s b).state = .live ∧ !(getBond s b).reagreeing then
      finish (updBond s b fun x => { x with openCmd := none }) id .ok 0 (handle s { type := .bond, index := b })
    else s
  | none => s

/-- Whether every open stream of a bond, the control stream included, has verified a window of the new generation. -/
def allMoved (s : State) (b : Nat) : Bool :=
  let x := getBond s b
  x.ctl.rxGen == x.rxGen && (bondStreams s b).all fun pe =>
    let y := getStream s pe.1 pe.2
    y.state != .opened || y.rxGen == x.rxGen

/-- The receiver's part of a flip ends when every stream has moved (R263 step 3). -/
def finishRxFlip (s : State) (b : Nat) : State :=
  let x := getBond s b
  if x.rxFlipping && allMoved s b then
    let s := updBond s b fun x => { x with rxFlipping := false, oldRx := none }
    rekeyDone (controlMessage (clearRoot s b) b 0x0107 (toLE x.rxGen 2)) b true
  else s

/-- Whether GID names a VALID membership entry whose local index is `a` (R265, R266). -/
def memberOk (s : State) (gid a : Nat) : Bool :=
  a ≥ 2 && (getAccord s a).state == .live && (getAccord s a).gid.toNat == gid

/-- TAG_FLIT_RECEIVE on stream `n`, by port `p` (R259, R260, R263, R266). -/
def tagFlit (s : State) (p n : Nat) (f : Bytes) (rxErr : Bool) : State :=
  let x := getS s n
  let seq := leField f 28 8
  let clear (s : State) : State := updS s n fun x => { x with held := [], flawed := false }
  let gid := leField f 40 4
  if !rxErr && seq < x.rxSeq then
    updS (updPort (clear s) p fun y => { y with dup := satAdd 16 y.dup 1 }) n fun x => { x with ackOwed := true }
  else if !rxErr && seq > x.rxSeq then
    updS (updPort (clear s) p fun y => { y with gap := satAdd 16 y.gap 1 }) n fun x => { x with nakOwed := true }
  else match openWindow s n f rxErr with
    | none =>
      updS (updPort (clear s) p fun y => { y with tagFail := satAdd 16 y.tagFail 1 }) n fun x => { x with nakOwed := true }
    | some (pt, gen) =>
      if isCtl n ∧ gid ≠ 0 then
        updS (updPort (clear s) p fun y => { y with tagFail := satAdd 16 y.tagFail 1 }) n fun x => { x with nakOwed := true }
      else if !isCtl n ∧ !memberOk s gid x.accord then failWith (clear s) n 0x32
      else
        let s := updS (clear s) n fun x =>
          { x with rxSeq := x.rxSeq + 1, ackOwed := true
                   rxSalt := if gen = x.rxGen then x.rxSalt else x.rxSaltNext.getD x.rxSalt
                   rxSaltNext := if gen = x.rxGen then x.rxSaltNext else none, rxGen := gen }
        let s := updPort s p fun y => { y with rxWin := y.rxWin + 1 }
        let s := takeAck s n (leField f 44 8) (leField f 52 1 / 2 % 2 == 1)
        let s := finishRxFlip s (bondOf s n)
        if isCtl n then controlWindow s (n - 8192) pt
        else if (getS s n).state = .closed then s
        else releaseEntries s p n pt

/-- TAG_FLIT_RECEIVE. -/
def execTagFlitReceive (p : Nat) (flit : Bytes) (rxErr : Bool) (lanes : List Nat) (s : State) : Host.Outcome State Fault Refusal :=
  if live s ∧ portCarries s p then
    match flitStream s flit with
    | some n =>
      let bad := flawedFlit s p rxErr lanes
      .next (fabricSettle (tagFlit (portMismatch s p 1 (seenLanes s p 1 lanes)) p n flit bad))
    | none => .next s
  else .next s

/-! ## Links -/

/-- LINK_UP: LPE_LINK_UP of a port rises (R238). -/
def execLinkUp (p : Nat) (s : State) : Host.Outcome State Fault Refusal :=
  if s.up then
    let s := updPort s p fun x => { x with linkUp := true }
    .next (settleAll (if (getPort s p).state = .noLink then setPortState s p .unidentified else s))
  else .next s

/-- LPE_LINK_UP of port `p` falls: open streams fail with LINK_DOWN, and the port forgets its module (R239, R267). -/
def linkDown (s : State) (p : Nat) : State :=
  let had := (streamsWhere s fun q x => q == p && (x.state == .opened || x.state == .draining))
  let s := updPort s p fun x => { x with linkUp := false, moduleId := 0 }
  let s := had.foldl
    (fun s pe => raise s { code := 0x31, unit := unitPort, inst := p, accord := (getStream s pe.1 pe.2).accord
                           detail6 := BitVec.ofNat 32 (streamNo pe.1 pe.2)
                           detail7 := BitVec.ofNat 32 (getBond s (getStream s pe.1 pe.2).bond).peer }) s
  let s := had.foldl (fun s pe => failStream s pe.1 pe.2) s
  let st := (getPort s p).state
  if st = .up ∨ st = .unidentified then setPortState s p .noLink else s

/-- LINK_DOWN. -/
def execLinkDown (p : Nat) (s : State) : Host.Outcome State Fault Refusal :=
  if s.up then .next (fabricSettle (linkDown s p)) else .next s

/-- PORT_UP_HOUR: one more whole hour with the port UP (R241). -/
def execPortUpHour (p : Nat) (s : State) : Host.Outcome State Fault Refusal :=
  if (getPort s p).state = .up then
    .next (settle (updPort s p fun x => { x with upHours := satAdd 32 x.upHours 1 }))
  else .next s

/-! ## Responses to remote requests (R276, R291) -/

/-- What a request with ARRIVAL_VALID adds to its counter. -/
def arrivalAmount (r : Req) : Nat :=
  match r.op with
  | .writeLine => ((List.range 64).filter fun i => r.mask.getLsbD i).length
  | .writeStretcher => 256
  | _ => 0

/-- The arrival-counter region of an accord: stack, index and entry. -/
def arrivalRegion (s : State) (a : Nat) : Option (Nat × Nat × RtEntry) :=
  (List.range 8).findSome? fun n => ((getMpe s n).rt.find? fun e => e.2.owner == a && e.2.id == 0xFFFF).map fun e => (n, e.1, e.2)

/-- `amount` added to counter `k` of accord `a`, as an ADD INT64 of the accord (R291). -/
def addArrival (s : State) (a k amount : Nat) (unit : BitVec 4) (inst : Nat) : State :=
  let unmapped (s : State) : State := raise s { code := 0x44, unit := unit, inst := inst, accord := a }
  match arrivalRegion s a with
  | none => unmapped s
  | some (n, rt, e) =>
    let b := e.base + 8 * k / 4096
    let off := 8 * k % 4096
    if e.cls = .r ∨ b > e.limit then unmapped s
    else
      let s := (makeResident s a).1
      let x := 16 * b + off / 256
      let q : Req := { origin := .block, accord := a, op := .atomic, stack := n, brick := b, off := off }
      let s := forceFill s n x
      match storeEntry s n x with
      | some en =>
        if a ≠ en.owner then raiseMem s n q .access
        else if en.state = .held then raiseMem s n q en.heldBy
        else
          let v := (leField en.data (off % 256) 8 + amount) % 2 ^ 64
          putEntry (countOp s n true) n x { en with data := bput en.data (off % 256) (toLE v 8), dirty := true }
      | none =>
        match readStretcherNow s n b (off / 256) a none with
        | (s, .error err) => raiseMem s n q err
        | (s, .ok d) =>
          let v := (leField d (off % 256) 8 + amount) % 2 ^ 64
          match makeRoom s n x e.sched .bestEffort with
          | (s, .ok) =>
            let s := updMpe (countOp s n false) n fun m => { m with axuFills := (m.axuFills + 1) % 2 ^ 32 }
            putEntry s n x { state := .valid, data := bput d (off % 256) (toLE v 8), owner := a, cls := e.cls, rt := rt, dirty := true }
          | (s, .held) => raiseMem s n q .storeSetHeld
          | (s, .wait) =>
            match writeNow s n { q with op := .writeLine, off := off / 64 * 64, mask := BitVec.ofNat 64 (0xFF * 2 ^ (off % 64))
                                        data := bput (zeros 64) (off % 64) (toLE v 8) } with
            | (s, none) => s
            | (s, some err) => raiseMem s n q err

/-- What the answer `x` adds to its arrival counter, once (R276, R291). -/
def arriveOnce (s : State) (n : Nat) (x : Answered) : State :=
  if (getS s n).arrived then s
  else
    let s := updS s n fun y => { y with arrived := true }
    if x.code = 0 ∧ x.req.arrival.getLsbD 10 ∧ arrivalAmount x.req ≠ 0 then
      addArrival s (getS s n).accord (fld x.req.arrival 9 0) (arrivalAmount x.req) unitPort (n / 256)
    else s

/-- REMOTE_RESPONSE: the oldest answer kept for a stream: its arrival addition, applied first, then its response entry (R276, R291).
(DEDUCED, log entry 20) -/
def remoteResponse (s : State) (n : Nat) : State :=
  match (getS s n).responses with
  | [] => s
  | x :: _ =>
    let s := arriveOnce s n x
    match packEntry s n (responseEntry x) with
    | none => s
    | some s => endFlit (updS s n fun y => { y with responses := y.responses.drop 1, arrived := false }) n

/-- REMOTE_RESPONSE. -/
def execRemoteResponse (stream : Nat) (s : State) : Host.Outcome State Fault Refusal :=
  if live s ∧ !isCtl stream then .next (fabricSettle (remoteResponse s stream)) else .next s

end Sys2Proof.Machine
end

