-- ==== Sys2Proof/Machine/Gateway.lean ====
section
/-! DEFINITION. Gateway ports (R284 to R291): gathering stores into records, resending, receiving, applying and answering. -/

namespace Sys2Proof.Machine

/-! ## Gathering (R286, R288) -/

/-- First line of a request, counted over the bricks of its stack, and its lines. -/
def reqLines (r : Req) : Nat × Nat :=
  (64 * r.brick + r.off / 64, if r.op = .readStretcher ∨ r.op = .writeStretcher then 4 else 1)

/-- The runs after a store of `n` lines from `x` on stack `t`: the last one goes on, or a new one starts. -/
def joinRuns (runs : List (Nat × Nat × Nat × Nat)) (t x n : Nat) : Option (List (Nat × Nat × Nat × Nat)) :=
  let go : Bool := runs.getLast?.any fun l => l.1 == t && 64 * l.2.1 + l.2.2.1 + l.2.2.2 == x && l.2.2.2 + n ≤ 16384
  if go then some (runs.dropLast ++ (runs.getLast?.map fun l => (l.1, l.2.1, l.2.2.1, l.2.2.2 + n)).toList)
  else if runs.length < 4 then some (runs ++ [(t, x / 64, x % 64, n)]) else none

/-- The data of a store as it lies in a record. -/
def storeData (r : Req) : Bytes := bslice r.data 0 (64 * (reqLines r).2)

/-- A record with one more store, if it may join. -/
def joinRecord (q : Record) (r : Req) : Option Record :=
  if q.arrival ≠ r.arrival ∨ q.data.length + 64 * (reqLines r).2 > 1048576 then none
  else (joinRuns q.runs r.stack (reqLines r).1 (reqLines r).2).map fun runs =>
    { q with runs := runs, data := q.data ++ storeData r, reqs := q.reqs ++ [r] }

/-- A record of one request. -/
def newRecord (r : Req) (read : Bool) : Record :=
  { accord := r.accord, chip := BitVec.ofNat 16 r.chip, read := read, arrival := if read then 0 else r.arrival
    runs := [(r.stack, (reqLines r).1 / 64, (reqLines r).1 % 64, (reqLines r).2)]
    data := if read then [] else storeData r, reqs := [r] }

/-- A store gathered: into the open record of its pair, or into a new one after that closes. A full record closes.
(DEDUCED, log entry 21) -/
def gatherStore (s : State) (p : Nat) (r : Req) : State :=
  let add (s : State) (q : Record) : State :=
    let s := updPort (dropOpen s p r.accord r.chip) p fun x => { x with gwOpen := x.gwOpen ++ [q] }
    if q.data.length ≥ 1048576 then closeOpen s p r.accord r.chip else s
  match openRecord s p r.accord r.chip with
  | none => add s (newRecord r false)
  | some q => match joinRecord q r with
    | some q => add s q
    | none => add (closeOpen s p r.accord r.chip) (newRecord r false)

/-- GATEWAY_REQUEST: the oldest request at the port is gathered; a read closes the open record of its pair and goes as a record
of its own (R286, R288). -/
def gatewayRequest (s : State) (p : Nat) : State :=
  match (getPort s p).gwIn with
  | [] => s
  | r :: rest =>
    let s := updPort s p fun x => { x with gwIn := rest }
    if underMark s r then remoteRefuse s r 0x42 0x04 none
    else match r.op with
      | .readLine | .readStretcher => closeRecord (closeOpen s p r.accord r.chip) p (newRecord r true)
      | _ => gatherStore s p r

/-- GATEWAY_REQUEST. -/
def execGatewayRequest (p : Nat) (s : State) : Host.Outcome State Fault Refusal :=
  if live s then .next (fabricSettle (gatewayRequest s p)) else .next s

/-- GATEWAY_RECORD_IDLE_CLOSE: no store has joined the open record for 1,024 lane cycles (R286). -/
def execGatewayRecordIdleClose (p a : Nat) (chip : BitVec 16) (s : State) : Host.Outcome State Fault Refusal :=
  if live s then .next (fabricSettle (closeOpen s p a chip.toNat)) else .next s

/-! ## Resending and loss (R287) -/

/-- An operation of a lost record: answered ERROR, FAR_RECORD_LOST, and the mark of R281. -/
def loseFar (s : State) (p : Nat) (rseq : Nat) (r : Req) : State :=
  let n := (getPort s p).lost
  updPort (declareLost s p r 0x43 0x04 (BitVec.ofNat 32 rseq)) p fun x => { x with lost := n }

/-- The open record of a pair gathered anew without the stores that a mark covers, which are answered ERROR (R281). -/
def sift (s : State) (p a d : Nat) : State :=
  match openRecord s p a d with
  | none => s
  | some q =>
    if q.reqs.any (underMark s) then
      q.reqs.foldl (fun s r => if underMark s r then remoteRefuse s r 0x42 0x04 none else gatherStore s p r) (dropOpen s p a d)
    else s

/-- Record `r` and every later one of its pair declared lost. What the port still gathers for the pair is not outstanding: only the marks
reach into it. (DEDUCED, log entry 21) -/
def loseRecords (s : State) (p : Nat) (r : Record) : State :=
  let d := r.chip.toNat
  let mine (q : Record) : Bool := q.accord == r.accord && q.chip == r.chip && q.rseq ≥ r.rseq
  let later := (getPort s p).gwSent.filter mine
  let s := updPort s p fun x =>
    { x with gwSent := x.gwSent.filter fun q => !mine q, gwLost := satAdd 32 x.gwLost later.length }
  let s := updAccord s r.accord fun x => { x with farPrev := tset x.farPrev d r.prev }
  sift (later.foldl (fun s q => q.reqs.foldl (fun s x => loseFar s p q.rseq x) s) s) p r.accord d

/-- No response 100 µs after the record was last sent: it is sent again, and lost after the eighth time. (DEDUCED, log
entry 21) -/
def resendRecord (s : State) (p a d rseq : Nat) : State :=
  match (getPort s p).gwSent.find? fun r => r.accord == a && r.chip.toNat == d && r.rseq == rseq && r.sent with
  | none => s
  | some r =>
    if r.resends ≥ 8 then loseRecords s p r
    else
      let s := (makeResident s a).1
      match farKey s a with
      | none => s
      | some key =>
        let s := sendRecord s p key (requestHeader s r) (if r.read then [] else r.data)
        updPort s p fun x =>
          { x with gwSent := x.gwSent.map fun q => if sameRecord r q then { q with resends := q.resends + 1 } else q
                   gwResent := satAdd 16 x.gwResent 1 }

/-- GATEWAY_RESEND_TIMEOUT. -/
def execGatewayResendTimeout (p a : Nat) (chip : BitVec 16) (rseq : Nat) (s : State) : Host.Outcome State Fault Refusal :=
  if live s then .next (fabricSettle (resendRecord s p a chip.toNat rseq)) else .next s

/-! ## Applying (R290, R291) -/

/-- The lines of a record's runs, in order: stack, brick, line. -/
def recordLines (runs : List (Nat × Nat × Nat × Nat)) : List (Nat × Nat × Nat) :=
  runs.flatMap fun r => (List.range r.2.2.2).map fun i => (r.1, r.2.1 + (r.2.2.1 + i) / 64, (r.2.2.1 + i) % 64)

/-- A WRITE record applied line by line; it stops at the first refusal, with its fence code. -/
def applyWrite (s : State) (p : Nat) (src : BitVec 16) (r : Record) : State × BitVec 8 :=
  let ls := recordLines r.runs
  (List.range ls.length).foldl
    (fun (x : State × BitVec 8) i =>
      if x.2 ≠ 0 then x
      else match ls[i]? with
        | none => x
        | some (n, b, l) =>
          let q : Req := { origin := .gateway p src (BitVec.ofNat 64 r.rseq), accord := r.accord, op := .writeLine, stack := n
                           brick := b, off := 64 * l, mask := BitVec.allOnes 64, data := bslice r.data (64 * i) 64 }
          match writeNow x.1 n q with
          | (s, none) => (s, 0)
          | (s, some e) => (raiseMem s n q e, (memErrInfo e).2.1))
    (s, 0)

/-- A READ_REQ record read. -/
def applyRead (s : State) (p : Nat) (src : BitVec 16) (r : Record) : State × BitVec 8 × Bytes :=
  (recordLines r.runs).foldl
    (fun (x : State × BitVec 8 × Bytes) (l : Nat × Nat × Nat) =>
      if x.2.1 ≠ 0 then x
      else match readNow x.1 l.1 l.2.1 (l.2.2 / 4) r.accord with
        | (s, .ok d) => (s, 0, x.2.2 ++ bslice d (64 * (l.2.2 % 4)) 64)
        | (s, .error e) =>
          let q : Req := { origin := .gateway p src (BitVec.ofNat 64 r.rseq), accord := r.accord, op := .readLine, stack := l.1
                           brick := l.2.1, off := 64 * l.2.2 }
          (raiseMem s l.1 q e, (memErrInfo e).2.1, []))
    (s, 0, [])

/-- A response record sent through port `p` under the next response RSEQ of the pair (Table 10.4). -/
def sendResponse (s : State) (p : Nat) (src : BitVec 16) (r : Record) (op : Nat) (code : BitVec 8) (d : Bytes) : State :=
  match farKey s r.accord with
  | none => s
  | some key =>
    let n := tgetD (getAccord s r.accord).farRsp src.toNat 0 + 1
    let s := updAccord s r.accord fun x => { x with farRsp := tset x.farRsp src.toNat n }
    let h := recordHeader s.chipId src.toNat (gidOf s r.accord).toNat (2 ^ 63 + n) r.rseq d.length op 0 0
      (if op = opAck then [code.toNat] else [])
    updPort (sendRecord s p key h d) p fun x => { x with txRec := x.txRec + 1 }

/-- A READ_REQ answered: its data, or an ACK with the fence code of the first refusal. -/
def answerRead (s : State) (p : Nat) (src : BitVec 16) (r : Record) : State :=
  match applyRead s p src r with
  | (s, code, d) => if code = 0 then sendResponse s p src r opReadData 0 d else sendResponse s p src r opAck code []

/-- A and its map after record `n` was applied. -/
def advanceMap (x : Nat × BitVec 64) (n : Nat) : Nat × BitVec 64 := (n, (x.2 <<< (n - x.1)) ||| 1)

/-- A record applied and answered (Table 10.6, third row). (DEDUCED, log entry 21) -/
def applyRecord (s : State) (p : Nat) (src : BitVec 16) (r : Record) : State :=
  let done (s : State) : State :=
    updAccord s r.accord fun x => { x with farRx := tset x.farRx src.toNat (advanceMap (tgetD x.farRx src.toNat (0, 0)) r.rseq) }
  if r.read then answerRead (done s) p src r
  else
    let (s, code) := applyWrite s p src r
    let s := done s
    let s := if code = 0 ∧ r.arrival.getLsbD 10 then addArrival s r.accord (fld r.arrival 9 0) r.data.length unitPort p else s
    sendResponse s p src r opAck code []

/-- What Table 10.6 says of a request record. -/
inductive Verdict
  | duplicate | stale | apply | wait
deriving DecidableEq, Repr

/-- The row of Table 10.6 that a record falls under. (DEDUCED, log entry 21) -/
def verdict (s : State) (src : BitVec 16) (r : Record) : Verdict :=
  let x := tgetD (getAccord s r.accord).farRx src.toNat (0, 0)
  if r.rseq ≤ x.1 then (if x.1 - r.rseq < 64 ∧ x.2.getLsbD (x.1 - r.rseq) then .duplicate else .stale)
  else if r.prev ≤ x.1 then .apply else .wait

/-- STALE counts one more. -/
def countStale (s : State) (p : Nat) : State := updPort s p fun x => { x with gwStale := satAdd 16 x.gwStale 1 }

/-- A record that does not wait, handled. (DEDUCED, log entry 21) -/
def handleRecord (s : State) (p : Nat) (src : BitVec 16) (r : Record) : State :=
  match verdict s src r with
  | .duplicate =>
    let s := updPort s p fun x => { x with gwDup := satAdd 16 x.gwDup 1 }
    if r.read then answerRead s p src r else sendResponse s p src r opAck 0 []
  | .stale => countStale s p
  | .apply => applyRecord s p src r
  | .wait => s

/-- The waiting records of a pair: port, source and record. -/
def waitingOf (s : State) (a : Nat) (src : BitVec 16) : List (Nat × Record) :=
  s.ports.flatMap fun p => (p.2.landing.filter fun x => x.1 == src && x.2.accord == a).map fun x => (p.1, x.2)

/-- Waiting records of a pair handled again as far as A lets them. -/
def wakeLanding (fuel : Nat) (s : State) (a : Nat) (src : BitVec 16) : State :=
  match fuel with
  | 0 => s
  | k + 1 => match (waitingOf s a src).find? fun x => verdict s src x.2 != .wait with
    | none => s
    | some (p, r) =>
      let s := updPort s p fun x => { x with landing := x.landing.erase (src, r) }
      wakeLanding k (handleRecord s p src r) a src

/-- The waiting record with the highest RSEQ at a port. -/
def highestWaiting (x : Port) : Option (BitVec 16 × Record) :=
  x.landing.foldl
    (fun (b : Option (BitVec 16 × Record)) e => match b with
      | none => some e
      | some y => if e.2.rseq > y.2.rseq then some e else b) none

/-- A verified request record (R290). With every landing slot full only one that can be applied at once is taken. -/
def takeRequest (s : State) (p : Nat) (src : BitVec 16) (r : Record) : State :=
  let full : Bool := (getPort s p).landing.length ≥ 64
  match verdict s src r with
  | .wait => if full then s else updPort s p fun x => { x with landing := x.landing ++ [(src, r)] }
  | .apply =>
    let s := if full then
        match highestWaiting (getPort s p) with
        | some e => countStale (updPort s p fun x => { x with landing := x.landing.erase e }) p
        | none => s
      else s
    wakeLanding 2048 (applyRecord s p src r) r.accord src
  | _ => if full then s else handleRecord s p src r

/-- A verified response record: it answers the pending request record that REF names (R287, R288). -/
def takeResponseRecord (s : State) (a : Nat) (src : BitVec 16) (ref op : Nat) (code : BitVec 8) (d : Bytes) : State :=
  let found := s.ports.findSome? fun p =>
    (p.2.gwSent.find? fun r => r.accord == a && r.chip == src && r.rseq == ref && r.sent).map fun r => (p.1, r)
  match found with
  | none => s
  | some (p, r) =>
    let gone (s : State) : State := updPort s p fun x => { x with gwSent := x.gwSent.filter fun q => !sameRecord r q }
    let lines := (r.reqs.map fun q => (reqLines q).2).foldl (· + ·) 0
    if op = opReadData ∧ r.read ∧ d.length = 64 * lines then
      r.reqs.foldl (fun s q => answer s q none d) (gone s)
    else if op = opAck ∧ code ≠ 0 then
      let s := updPort (gone s) p fun x => { x with refused := satAdd 32 x.refused 1 }
      r.reqs.foldl
        (fun s q =>
          let s := raise s { originFault s q.origin 0x41 unitPort p q.accord code with
                             detail6 := BitVec.ofNat 32 r.rseq, detail7 := BitVec.ofNat 32 (q.chip % 65536) }
          answer s q (some .lost) [])
        s
    else if op = opAck ∧ !r.read then r.reqs.foldl (fun s q => answer s q none []) (gone s)
    else s

/-! ## Receiving (R285, R289) -/

/-- TAG_FAIL counts one more discarded record. -/
def countTagFail (s : State) (p : Nat) : State := updPort s p fun x => { x with gwTagFail := satAdd 16 x.gwTagFail 1 }

/-- The LIVE accord of a global ID (R265). -/
def memberOf (s : State) (gid : Nat) : Option Nat := (s.accords.find? fun e => memberOk s gid e.1).map (·.1)

/-- A whole record's bytes (R289): checked, verified and handled. A request record whose VERSION is not 0x1 is dropped, and VERSION of a
response record is not looked at: chapter 10 gives neither a treatment (DESIGN CHOICE, log entry 89). -/
def takeRecord (s : State) (p : Nat) (b : Bytes) : State :=
  let h := bslice b 0 64
  let len := leField h 24 4
  match memberOf s (leField h 4 4) with
  | none => countTagFail s p
  | some a =>
    let s := (makeResident s a).1
    match farKey s a with
    | none => countTagFail s p
    | some key =>
      let src := leField h 0 2
      let iv := recordIv src (leField h 2 2) (leField h 8 8)
      let ct := bslice b 64 len
      if leField h 2 2 ≠ s.chipId ∨ gcmTag key iv h ct ≠ bslice b (64 + len) 16 then countTagFail s p
      else
        let s := updPort s p fun x => { x with rxRec := x.rxRec + 1 }
        let d := gcmCrypt key iv ct
        let op := leField h 28 1
        let n := leField h 29 1 % 8
        let sender := BitVec.ofNat 16 src
        if leField h 8 8 ≥ 2 ^ 63 then
          takeResponseRecord s a sender (leField h 16 8) op (BitVec.ofNat 8 (leField h 32 1)) d
        else if (op = opWrite ∨ op = opReadReq) ∧ leField h 29 1 / 16 = 1 ∧ n ≤ 4 then
          takeRequest s p sender
            { accord := a, chip := sender, rseq := leField h 8 8, prev := leField h 16 8, read := op == opReadReq
              arrival := BitVec.ofNat 11 (leField h 30 2)
              runs := (List.range n).map fun i => runOf (leField h (32 + 8 * i) 8), data := d }
        else s

/-- GATEWAY_FLIT_RECEIVE: one flit of a record joins those of its source; the last one ends the record (R285, R289). -/
def gatewayFlit (s : State) (p : Nat) (f : Bytes) (rxErr : Bool) : State :=
  let src := leField f 2 2
  let i := leField f 6 2 % 8192
  let had := tgetD (getPort s p).gwRx src ([], false)
  let put (s : State) (x : List Bytes × Bool) : State := updPort s p fun y => { y with gwRx := tset y.gwRx src x }
  let drop (s : State) : State := updPort s p fun y => { y with gwRx := tdel y.gwRx src }
  if i ≠ 0 ∧ had.1.isEmpty then (if had.2 then s else put (countTagFail s p) ([], true))
  else
    let s := if i = 0 ∧ !had.1.isEmpty then countTagFail s p else s
    let got := if i = 0 then [f] else had.1 ++ [f]
    let flawed : Bool := (if i = 0 then false else had.2) || rxErr || i + 1 != got.length
    let bytes := got.flatMap fun g => bslice g 16 240
    let len := leField bytes 24 4
    let bad : Bool := flawed || decide (len > 1048576) || len % 64 != 0
    if 240 * (i + 1) ≥ 80 + len ∨ len > 1048576 then
      if len > 1048576 then put (countTagFail s p) ([], true)
      else if bad then countTagFail (drop s) p else takeRecord (drop s) p bytes
    else put s (got, flawed)

/-- GATEWAY_FLIT_RECEIVE. -/
def execGatewayFlitReceive (p : Nat) (flit : Bytes) (rxErr : Bool) (lanes : List Nat) (s : State) : Host.Outcome State Fault Refusal :=
  if live s ∧ (getPort s p).gateway ∧ (getPort s p).state = .up ∧ portServes s p ∧ leField flit 4 1 = 5 then
    let bad := flawedFlit s p rxErr lanes
    .next (fabricSettle (gatewayFlit (portMismatch s p 1 (seenLanes s p 1 lanes)) p flit bad))
  else .next s

/-- LANDING_WAIT_TIMEOUT: the record in landing slot `slot` has waited 1 ms (Table 10.6, last row). -/
def execLandingWaitTimeout (p slot : Nat) (s : State) : Host.Outcome State Fault Refusal :=
  match (getPort s p).landing[slot]? with
  | some e => if live s then .next (fabricSettle (countStale (updPort s p fun x => { x with landing := x.landing.erase e }) p)) else .next s
  | none => .next s

end Sys2Proof.Machine
end

