-- ==== Sys2Proof/Machine/Handshake.lean ====
section
/-! DEFINITION. The handshake of a bond up to HELLO_I (R242 to R246): rejection codes, CTRL flits, and this side's attestation of the peer
as SPDM requester. -/

namespace Sys2Proof.Machine

/-- A link command started, with everything it lets finish. -/
def runLink (op q : Nat) (eff : Nat → Started → State → Eff) (s : State) : Host.Outcome State Fault Refusal :=
  .next (fabricSettle (startCommand op q eff s))

/-- A message's effect, with everything it lets finish; nothing where the block does not run. -/
def onFabric (s : State) (f : State → State) : Host.Outcome State Fault Refusal :=
  if live s then .next (fabricSettle (f s)) else .next s

/-! ## Rejection codes (Table 9.9) -/

/-- NO_POLICY. -/
def linkNoPolicy : Word := 0x01
/-- PEER_NOT_ALLOWED. -/
def linkPeerNotAllowed : Word := 0x02
/-- ATTESTATION_FAILED. -/
def linkAttestationFailed : Word := 0x03
/-- VERSION. -/
def linkVersion : Word := 0x04
/-- AGREEMENT_FAILED. -/
def linkAgreementFailed : Word := 0x05
/-- MODULE_UNKNOWN. -/
def linkModuleUnknown : Word := 0x06
/-- HANDSHAKE_TIMEOUT. -/
def linkHandshakeTimeout : Word := 0x07
/-- NOT_EXPECTED. -/
def linkNotExpected : Word := 0x08
/-- BOND_STATE. -/
def linkBondState : Word := 0x09
/-- PORT_STATE. -/
def linkPortState : Word := 0x0A
/-- NOT_PEER. -/
def linkNotPeer : Word := 0x0B
/-- PORT_NOT_BOUND. -/
def linkPortNotBound : Word := 0x0C
/-- ACCORD_REFUSED. -/
def linkAccordRefused : Word := 0x0D
/-- NO_PEER_PORT. -/
def linkNoPeerPort : Word := 0x0E
/-- PEER_NO_RESPONSE. -/
def linkPeerNoResponse : Word := 0x0F

/-! ## Handshake messages (R244) -/

/-- A handshake message as CTRL flits. -/
def ctrlFlits (dest src type : Nat) (d : Bytes) : List Bytes :=
  let cs := if d.isEmpty then [[]] else chunks 232 d
  (List.range cs.length).map fun i =>
    let c := (cs[i]?).getD []
    flitHeader dest src 3 0 0 0 ++ toLE type 2 ++ toLE i 2 ++ toLE cs.length 2 ++ toLE c.length 2 ++ bslice c 0 232

/-- A handshake message to the peer of bond `b`, on the lowest-numbered UP port of its mask. -/
def sendHandshake (s : State) (b type : Nat) (d : Bytes) : State :=
  match controlPort s b with
  | none => s
  | some p => updPort s p fun x => { x with egress := x.egress ++ ctrlFlits (getBond s b).peer s.chipId type d }

/-- ABORT to a chip on a port. -/
def sendAbort (s : State) (p dest : Nat) (code : Word) : State :=
  updPort s p fun x => { x with egress := x.egress ++ ctrlFlits dest s.chipId 5 (toLE code.toNat 1) }

/-- A message added to the transcript (R246). -/
def record (s : State) (b type : Nat) (d : Bytes) : State :=
  updBond s b fun x => { x with transcript := x.transcript ++ toLE type 2 ++ d }

/-- The bond with a chip whose handshake runs. -/
def handshakeWith (s : State) (src : BitVec 16) : Option Nat :=
  (s.bonds.find? fun b => b.2.peer == src.toNat && (b.2.state == .attesting || b.2.state == .agreeing)).map (·.1)

/-- The bond with a chip, in any state but FREE and the CLOSED that is no object. -/
def bondWith (s : State) (d : Nat) : Option Nat := (s.bonds.find? fun b => b.2.peer == d && bondExists b.2).map (·.1)

/-- A handshake that ends without a bond (Table 9.4): the secrets go, the handle is torn down, and BOND_OPEN ends REJECTED. -/
def endHandshake (s : State) (b : Nat) (code : Word) : State :=
  let cmd := (getBond s b).openCmd
  let r : ObjRef := { type := .bond, index := b }
  let s := setBondState s b .free
  let s := bumpGen (dropRefs (updBond s b fun _ => {}) r) r
  finishOpt s cmd .rejected code 0

/-- A check failed here: ABORT is sent, and the handshake ends. -/
def failHandshake (s : State) (b : Nat) (code : Word) : State := endHandshake (sendHandshake s b 5 (toLE code.toNat 1)) b code

/-! ## The SPDM profile (Table 15.3) -/

/-- Capability flags of Table 15.3: CERT, CHAL, MEAS with signature, MUT_AUTH; on I3C also ENCRYPT, MAC, KEY_EX, HBEAT,
KEY_UPD. (PRESUMED, log entry 24) -/
def capabilityFlags (t : Transport) : Nat :=
  0x2 + 0x4 + 0x10 + 0x100 + (if t = .i3c then 0x40 + 0x80 + 0x200 + 0x2000 + 0x4000 else 0)

/-- The selections of Table 15.3: measurement hash, base signature, base hash; on I3C also DHE, AEAD, requester signature and key
schedule. (PRESUMED, log entry 24) -/
def algorithmSelection (t : Transport) : Bytes :=
  toLE 0x04 4 ++ toLE 0x80 4 ++ toLE 0x02 4
    ++ (if t = .i3c then toLE 0x10 2 ++ toLE 0x02 2 ++ toLE 0x80 2 ++ toLE 0x01 2 else [])

/-! ## Secrets and HELLO (R245 steps 2 and 3) -/

/-- Lowest and highest link version offered (Table 1.9). (DESIGN CHOICE, log entry 22) -/
def linkMin : Nat := 1
/-- LINK_MAX. (DESIGN CHOICE, log entry 22) -/
def linkMax : Nat := 1

/-- The ephemeral secrets of a side: 56 B for ECDH, 64 B for ML-KEM, 32 B of nonce. -/
def secretBytes (b : Bond) (off len : Nat) : Bytes := bslice b.secret off len

/-- Fresh secrets for bond `b`. -/
def drawSecrets (s : State) (b : Nat) : State :=
  let (s, d) := drawFresh s 152
  updBond s b fun x => { x with secret := d }

/-- MODULE_IDs of the ports of a mask. -/
def modulesOf (s : State) (mask : Word) : Tab (BitVec 128) := (maskPorts mask).map fun p => (p, (getPort s p).moduleId)

/-- A HELLO message of this side; `kem` is KEM_EK or KEM_CT. -/
def helloBody (s : State) (b : Nat) (kem : Bytes) : Bytes :=
  let x := getBond s b
  let ms := modulesOf s x.mask
  toLE s.chipId 2 ++ toLE linkMin 1 ++ toLE linkMax 1 ++ secretBytes x 120 32
    ++ bslice (Config.ecdhPublic (secretBytes x 0 56)) 0 96 ++ bslice kem 0 1568 ++ toLE ms.length 1 ++ zeros 3
    ++ ms.flatMap fun m => toLE m.1 1 ++ zeros 3 ++ toLE m.2.toNat 16

/-- ECDH_PK of a HELLO. -/
def helloPk (m : Bytes) : Bytes := bslice m 36 96
/-- KEM_EK or KEM_CT of a HELLO. -/
def helloKem (m : Bytes) : Bytes := bslice m 132 1568
/-- MODULE_IDs that the peer reports of its ports. -/
def helloModules (m : Bytes) : Tab (BitVec 128) :=
  (List.range (leField m 1700 1)).foldl
    (fun t i => tset t (leField m (1704 + 20 * i) 1) (BitVec.ofNat 128 (leField m (1708 + 20 * i) 16))) []

/-- The version both ends run, if there is one (R245 step 3). -/
def commonVersion (m : Bytes) : Option Nat :=
  let v := Nat.min linkMax (leField m 3 1)
  if v ≥ Nat.max linkMin (leField m 2 1) then some v else none

/-- LINK_ROOT of the two shared secrets and a transcript hash (R246). -/
def linkRoot (s : State) (b : Bond) (ssk sse t : Bytes) : Bytes :=
  kdf ssk (labelBytes { purpose := 0x20, peer := responderId s b }) ((sha384 (sse ++ t)).take 32) 256

/-- A handshake that cannot go on without the DRBG (R145): BOND_OPEN ends REJECTED with ENTROPY_FAIL of Table 5.11, and the peer is told
AGREEMENT_FAILED. (DESIGN CHOICE, log entry 22) -/
def failEntropy (s : State) (b : Nat) : State :=
  endHandshake (sendHandshake s b 5 (toLE linkAgreementFailed.toNat 1)) b keyEntropyFail

/-- The initiator's HELLO_I, once both attestations have passed: the bond is AGREEING. -/
def sendHelloI (s : State) (b : Nat) : State :=
  if noEntropy s then failEntropy s b
  else
    let s := drawSecrets (setBondState s b .agreeing) b
    let m := helloBody s b (Config.kemPublic (secretBytes (getBond s b) 56 64))
    record (sendHandshake s b 2 m) b 2 m

/-! ## Attestation, as requester (R245 step 1) -/

/-- An SPDM request to the peer, the `step`th of R245's list. -/
def sendRequest (s : State) (b step code : Nat) (args : Bytes) : State :=
  let m := Config.spdmMessage code args
  let s := updBond s b fun x => { x with att := { x.att with step := step, log := x.att.log ++ m } }
  record (sendHandshake s b 1 m) b 1 m

/-- GET_VERSION, the first request. -/
def firstRequest (s : State) (b : Nat) : State :=
  sendRequest (updBond s b fun x => { x with att := { x.att with log := [], digest := [], chain := [], leaf := [] } }) b 1 0x84 []

/-- FREE or STALE to ATTESTING: step 1 starts with this hub's first request. -/
def beginHandshake (s : State) (b peer : Nat) (mask : Word) (id : Nat) : State :=
  let s := updBond s b fun x => { x with peer := peer, mask := mask }
  let s := updBond (setBondState s b .attesting) b fun x =>
    { x with openCmd := some id, att := {}, spdm := {}, initiator := false, transcript := [], finishSent := false, nextRoot := none
             flipRoot := none, flipDue := false, secret := [] }
  firstRequest s b

/-- The value of a measurement index in a list of measurement blocks (DSP0274). -/
def blockValue (fuel : Nat) (d : Bytes) (index : Nat) : Option Bytes :=
  match fuel with
  | 0 => none
  | k + 1 =>
    let n := leField d 2 2
    if d.length < 7 then none
    else if leField d 0 1 = index then some (bslice d 7 (leField d 5 2))
    else blockValue k (d.drop (4 + n)) index

/-- Whether life-cycle state `lc` is one that LC_ALLOWED accepts (Table 9.2). -/
def lcAllowed (pol : Bytes) (lc : Nat) : Bool := 6 ≤ lc && lc ≤ 8 && leField pol 3 1 / 2 ^ (lc - 6) % 2 == 1

/-- Whether a firmware measurement is listed, or none is (Table 9.2). -/
def measurementListed (pol fw : Bytes) : Bool :=
  let n := Nat.min (leField pol 10 1) 16
  n == 0 || (List.range n).any fun i => bslice pol (76 + 48 * i) 48 == fw

/-- The checks of R245 step 1 on what the peer attests, under the bond policy in force. -/
def peerPasses (s : State) (pol blocks : Bytes) : Bool :=
  match blockValue 32 blocks 0x02, blockValue 32 blocks 0x03, blockValue 32 blocks 0x05 with
  | some hw, some fw, some owner =>
    lcAllowed pol (leField hw 0 1) && leField pol 2 1 ≤ leField fw 48 1 && measurementListed pol (bslice fw 0 48)
      && (leField pol 8 1 % 2 == 0 || bslice owner 0 48 == toLE s.otp.ownerDigest.toNat 48)
  | _, _, _ => false

/-- A signed answer verified under the peer's leaf key: the signature follows `body`. -/
def answerSigned (x : Bond) (code : Nat) (body sig : Bytes) : Bool :=
  Config.ecdsaVerify x.att.leaf (Config.spdmSigned code (Config.spdmHash code (x.att.log ++ Config.spdmMessage code body))) sig

/-- A request that carries a fresh nonce. -/
def nonceRequest (s : State) (b step code : Nat) (args : Bytes) : State :=
  if noEntropy s then failEntropy s b
  else
    let (s, nonce) := drawFresh s 32
    sendRequest s b step code (args ++ nonce)

/-- The peer has passed (R245): the initiator goes on once its own attestation has been served, the responder awaits HELLO_I. -/
def peerPassed (s : State) (b : Nat) : State :=
  let s := updBond s b fun x => { x with att := { x.att with step := 8 } }
  if (getBond s b).initiator then (if (getBond s b).att.served then sendHelloI s b else s) else setBondState s b .agreeing

/-- What follows the answer to request `step`, whose bytes are `body`: the next request, or the end of step 1. (PRESUMED, log
entry 24) -/
def afterAnswer (s : State) (b step : Nat) (body : Bytes) : State :=
  let x := getBond s b
  let fail (s : State) : State := failHandshake s b linkAttestationFailed
  match step with
  | 1 => if leField body 0 2 = 0x1200 then sendRequest s b 2 0xE1 (toLE (capabilityFlags (.bond 0 0)) 4) else fail s
  | 2 => sendRequest s b 3 0xE3 (algorithmSelection (.bond 0 0))
  | 3 => if bslice body 0 12 = algorithmSelection (.bond 0 0) then sendRequest s b 4 0x81 [] else fail s
  | 4 =>
    sendRequest (updBond s b fun x => { x with att := { x.att with digest := bslice body 1 48, chain := [] } }) b 5 0x82
      (0 :: toLE 0 2 ++ toLE 0xFFFF 2)
  | 5 =>
    let s := updBond s b fun x => { x with att := { x.att with chain := x.att.chain ++ bslice body 5 (leField body 1 2) } }
    let chain := (getBond s b).att.chain
    if leField body 3 2 ≠ 0 ∧ leField body 1 2 ≠ 0 then sendRequest s b 5 0x82 (0 :: toLE chain.length 2 ++ toLE 0xFFFF 2)
    else match Config.certKeys (chain.drop 52) with
      | some (_, leaf) =>
        if sha384 chain = x.att.digest then
          nonceRequest (updBond s b fun x => { x with att := { x.att with leaf := leaf } }) b 6 0x83 []
        else fail s
      | none => fail s
  | 6 =>
    if bslice body 0 48 = x.att.digest ∧ answerSigned x 0x03 (bslice body 0 80) (bslice body 80 96) then
      nonceRequest (updBond s b fun x => { x with att := { x.att with log := x.att.log ++ Config.spdmMessage 0x03 body } }) b 7 0xE0
        [0xFF, 0x01]
    else fail s
  | _ =>
    let n := leField body 1 3
    match s.cfg.policy with
    | some pol =>
      if peerPasses s pol (bslice body 4 n) ∧ answerSigned x 0x60 (bslice body 0 (36 + n)) (bslice body (36 + n) 96) then
        peerPassed s b
      else fail s
    | none => fail s

/-- The peer's answer `code` to request `step` of bond `b`. The first answer to a first request makes this hub the initiator, if no role
is settled yet (R245). -/
def takeAnswer (s : State) (b step code : Nat) (body : Bytes) : State :=
  let x := getBond s b
  if x.state ≠ .attesting ∨ x.att.step ≠ step then s
  else
    let m := Config.spdmMessage code body
    let s := record s b 1 m
    let s := updBond s b fun x =>
      { x with initiator := if x.att.decided then x.initiator else true, att := { x.att with decided := true } }
    -- a signed answer is hashed without its signature, and joins the log once it has verified
    let s := if step < 6 then updBond s b fun x => { x with att := { x.att with log := x.att.log ++ m } } else s
    afterAnswer s b step body

/-- The peer's GET_MEASUREMENTS has been answered: its attestation of this chip is over. The initiator that has passed the peer goes on;
the responder starts its own requests. (DEDUCED, log entry 22) -/
def attestationServed (s : State) (b : Nat) : State :=
  if (getBond s b).state ≠ .attesting then s
  else
    let s := updBond s b fun x => { x with att := { x.att with served := true } }
    let x := getBond s b
    if x.initiator then (if x.att.step = 8 then sendHelloI s b else s)
    else if x.att.step = 0 then firstRequest s b
    else s

/-- A first request of the peer: where first requests cross, the lower chip ID goes on as the initiator, and the other abandons its
own (R245). False: it is not answered. -/
def takeFirst (s : State) (b : Nat) : State × Bool :=
  let x := getBond s b
  if x.att.decided ∧ x.initiator then (s, true)
  else if !x.att.decided ∧ s.chipId < x.peer then (s, false)
  else (updBond s b fun x => { x with initiator := false, transcript := [], att := { decided := true } }, true)

end Sys2Proof.Machine
end

