-- ==== Sys2Proof/Machine/Bonds.lean ====
section
/-! DEFINITION. Bonds, streams and ports as commands and messages handle them (R238 to R252, R262 to R264, R268): BOND_OPEN to
PORT_DISABLE, the handshake messages of Table 9.3 and the control messages of Table 9.5. -/

namespace Sys2Proof.Machine

/-! ## BOND_OPEN (R242, R243, R245) -/

/-- Whether the life-cycle state admits a bond handshake: the roots are loaded and the state is not refused (R365,
Table 14.1). (DESIGN CHOICE, log entry 22) -/
def lcBonds (s : State) : Bool := (s.lcc.state == 6 || s.lcc.state == 7 || s.lcc.state == 8) && !s.lcc.clearing

/-- Whether a peer chip ID lies in a range of the policy (Table 9.2). -/
def peerAllowed (p : Bytes) (d : Nat) : Bool :=
  let n := Nat.min (leField p 9 1) 16
  n == 0 || (List.range n).any fun i => leField p (12 + 4 * i) 2 ≤ d && d ≤ leField p (14 + 4 * i) 2

/-- A re-agreement that ends without a new root: the bond stays LIVE, its secrets go, and a BOND_OPEN that asked for it ends REJECTED.
(DESIGN CHOICE, log entry 22) -/
def endReagreement (s : State) (b : Nat) (code : Word) : State :=
  let cmd := (getBond s b).openCmd
  finishOpt (updBond s b fun x => { x with openCmd := none, reagreeing := false, secret := [], transcript := [] }) cmd .rejected code 0

/-- BOND_OPEN on a LIVE bond starts a re-agreement; the initiator offers (R264, Table 9.4). -/
def offerAgreement (s : State) (b : Nat) : State :=
  if noEntropy s then endReagreement s b keyEntropyFail
  else
    let s := drawSecrets (updBond s b fun x => { x with reagreeing := true }) b
    let x := getBond s b
    let body := bslice (Config.ecdhPublic (secretBytes x 0 56)) 0 96 ++ bslice (Config.kemPublic (secretBytes x 56 64)) 0 1568
    controlMessage (updBond s b fun x => { x with transcript := messageBytes 0x0108 body }) b 0x0108 body

/-- BOND_OPEN. -/
def bondOpenEff (id : Nat) (c : Started) (s : State) : Eff :=
  let peer := fld (wd c.words 8) 15 0
  let mask := wd c.words 9
  let ports := maskPorts mask
  if !lcBonds s then .fail .lifeCycle s
  else match s.cfg.policy with
    | none => .reject linkNoPolicy s
    | some pol =>
      if mask = 0 ∨ peer = s.chipId then .fail .badOperand s
      else if !peerAllowed pol peer then .reject linkPeerNotAllowed s
      else if ports.any fun p => (getPort s p).gateway then .reject linkPortState s
      else if ports.any fun p => (getPort s p).state != .up then .reject linkModuleUnknown s
      else match bondWith s peer with
        | some b =>
          let x := getBond s b
          if x.openCmd.isSome then .reject linkBondState s
          else if x.state = .stale then .wait (.bondOpen b) (beginHandshake s b peer mask id)
          else if x.state = .live ∧ !x.reagreeing then
            let s := updBond s b fun x => { x with openCmd := some id }
            .wait (.bondOpen b) (if x.initiator then offerAgreement s b else updBond s b fun x => { x with reagreeing := true })
          else .reject linkBondState s
        | none =>
          match freeIndex s .bond, refRoom s c.session with
          | some b, true =>
            let s := { s with bonds := tset s.bonds b { owner := c.session, state := .attesting } }
            match holdRef s c.session { type := .bond, index := b } with
            | .error e => .fail e s
            | .ok s => .wait (.bondOpen b) (beginHandshake s b peer mask id)
          | _, _ => .fail .limit s

/-- BOND_OPEN. (DESIGN CHOICE, log entry 61) -/
def execBondOpen (q : Nat) (s : State) : Host.Outcome State Fault Refusal := runLink 0x20 q bondOpenEff s

/-- HANDSHAKE_REPEAT: the first message of a handshake that nothing has answered goes out again (R243). -/
def execHandshakeRepeat (bond : Nat) (s : State) : Host.Outcome State Fault Refusal :=
  onFabric s fun s =>
    let x := getBond s bond
    if x.state = .attesting ∧ x.att.step = 1 ∧ !x.att.decided then sendHandshake s bond 1 (Config.spdmMessage 0x84 []) else s

/-- HANDSHAKE_TIMEOUT: 50 ms since the start of BOND_OPEN (R245). A LIVE bond whose re-agreement did not end stays LIVE. -/
def handshakeTimeout (s : State) (b : Nat) : State :=
  let x := getBond s b
  if x.state = .attesting ∨ x.state = .agreeing then failHandshake s b linkHandshakeTimeout
  else if x.openCmd.isSome ∧ x.state = .live ∧ x.reagreeing then endReagreement s b linkHandshakeTimeout
  else s

/-- HANDSHAKE_TIMEOUT. -/
def execHandshakeTimeout (bond : Nat) (s : State) : Host.Outcome State Fault Refusal := onFabric s (handshakeTimeout · bond)

/-! ## Agreement (R245 steps 2 to 4, R246) -/

/-- What a FINISH signs (R246). -/
def finishText (version : Nat) (t : BitVec 384) (initiator : Bool) : Bytes :=
  ascii "BLNL-BOND-FINISH" ++ [if initiator then 0x49 else 0x52] ++ toLE version 1 ++ toBE t.toNat 48

/-- This side's FINISH (Table 9.3, R246). -/
def sendFinish (s : State) (b : Nat) : State :=
  let x := getBond s b
  let m := finishText x.version x.t x.initiator
  let s := updBond s b fun x => { x with finishSent := true }
  sendHandshake s b 4 (toLE x.version 1 ++ zeros 3 ++ signEc s m ++ signMl s m)

/-- What both ends keep of the two HELLO messages: version, modules, T and the root, in force once both FINISH messages verify. The
private keys and the shared secrets go (R246). -/
def agree (s : State) (b v : Nat) (m : Bytes) (ssk sse : Bytes) : State :=
  let x := getBond s b
  let t := sha384 x.transcript
  updBond s b fun y =>
    { y with version := v, localModules := modulesOf s x.mask, peerModules := helloModules m
             t := sha384W x.transcript, nextRoot := some (linkRoot s x ssk sse t), secret := [] }

/-- Whether a port takes CTRL flits: it is enabled, its link is up, and its LPE is in service (Table 9.1, R39). -/
def portHears (s : State) (p : Nat) : Bool :=
  let st := (getPort s p).state
  st != .disabled && st != .noLink && portServes s p

/-- A handshake message of chip `src` on port `p`, handled by `f` for the bond whose handshake with that chip runs. One that belongs to
none is answered NOT_EXPECTED (R243). -/
def onHandshake (s : State) (p : Nat) (src : BitVec 16) (f : Nat → Bond → State) : State :=
  if !portHears s p then s
  else match handshakeWith s src with
    | none => sendAbort s p src.toNat linkNotExpected
    | some b => f b (getBond s b)

/-- HELLO_I: the responder's side of steps 2 to 4; any other side takes none. -/
def helloI (s : State) (p : Nat) (src : BitVec 16) (m : Bytes) : State :=
  onHandshake s p src fun b x =>
    if x.initiator ∨ x.state ≠ .agreeing ∨ x.finishSent then s
    else if leField m 0 2 ≠ src.toNat then failHandshake s b linkAgreementFailed
    else if noEntropy s then failEntropy s b
    else match commonVersion m with
      | none => failHandshake s b linkVersion
      | some v =>
        let s := record (drawSecrets s b) b 2 m
        let y := getBond s b
        match Config.kemEncaps (helloKem m) (secretBytes y 56 64), Config.ecdhX (secretBytes y 0 56) (helloPk m) with
        | some (ct, ssk), some sse =>
          let r := helloBody s b ct
          let s := record (sendHandshake s b 3 r) b 3 r
          sendFinish (agree s b v m ssk sse) b
        | _, _ => failHandshake s b linkAgreementFailed

/-- HELLO_I. -/
def execHelloI (p : Nat) (src : BitVec 16) (msg : Bytes) (s : State) : Host.Outcome State Fault Refusal :=
  onFabric s (helloI · p src msg)

/-- HELLO_R: the initiator's side. -/
def helloR (s : State) (p : Nat) (src : BitVec 16) (m : Bytes) : State :=
  onHandshake s p src fun b x =>
    if !x.initiator ∨ x.state ≠ .agreeing ∨ x.finishSent then s
    else if leField m 0 2 ≠ src.toNat then failHandshake s b linkAgreementFailed
    else match commonVersion m with
      | none => failHandshake s b linkVersion
      | some v =>
        let s := record s b 3 m
        let ssk := Config.kemDecaps (secretBytes x 56 64) (helloKem m)
        match Config.ecdhX (secretBytes x 0 56) (helloPk m) with
        | some sse => sendFinish (agree s b v m ssk sse) b
        | none => failHandshake s b linkAgreementFailed

/-- HELLO_R. -/
def execHelloR (p : Nat) (src : BitVec 16) (msg : Bytes) (s : State) : Host.Outcome State Fault Refusal :=
  onFabric s (helloR · p src msg)

/-- AGREEING to LIVE: the keys of generation 0, the salt counter, HASH_SEED and the control streams; the secrets go (R246, R247,
R251, R277). -/
def goLiveBond (s : State) (b : Nat) : State :=
  let (s, seed) := drawFresh s 4
  let s := setBondState s b .live
  let s := updBond s b fun x =>
    { x with root := x.nextRoot.getD [], rxRoot := x.nextRoot.getD [], nextRoot := none, oldRx := none, oldTx := none
             flipRoot := none, flipDue := false, rootGens := 1
             txGen := 0, rxGen := 0, flipping := false, rxFlipping := false, reagreeing := false, salt := 0, newSalts := []
             secret := [], transcript := [], att := {}, spdm := {}, finishSent := false
             hashSeed := BitVec.ofNat 32 (leNat seed), inbox := [], outbox := [], partialMsg := []
             ctl := { state := .opened, bond := b, txSalt := 0xFFFFFFFF, rxSalt := 0xFFFFFFFF } }
  let s := { s with ports := tmap s.ports fun _ p => { p with genWindows := tdel p.genWindows b } }
  sendEmpty s (ctlNo b)

/-- Whether a FINISH of the peer verifies: its LINK_VERSION, and both signatures under the keys that its attestation certified (R246).
(DESIGN CHOICE, log entry 22) -/
def finishVerifies (x : Bond) (m : Bytes) : Bool :=
  let body := finishText x.version x.t (!x.initiator)
  leField m 0 1 == x.version && Config.ecdsaVerify x.att.leaf body (bslice m 4 96)
    && Config.mldsaVerify (Config.peerMldsa x.att.chain) body (bslice m 100 3309)

/-- FINISH. -/
def bondFinish (s : State) (p : Nat) (src : BitVec 16) (m : Bytes) : State :=
  onHandshake s p src fun b x =>
    if !x.finishSent then s
    else if !finishVerifies x m then failHandshake s b linkAgreementFailed
    else if noEntropy s then failEntropy s b
    else goLiveBond s b

/-- FINISH. -/
def execBondFinish (p : Nat) (src : BitVec 16) (msg : Bytes) (s : State) : Host.Outcome State Fault Refusal :=
  onFabric s (bondFinish · p src msg)

/-- ABORT: the handshake with its sender ends with its code (Table 9.4). NOT_EXPECTED of a chip that has answered nothing yet does not
end it, since the first message is repeated (R243). (DESIGN CHOICE, log entry 22) -/
def takeAbort (s : State) (p : Nat) (src : BitVec 16) (code : BitVec 8) : State :=
  match handshakeWith s src with
  | some b =>
    let x := getBond s b
    if !portHears s p ∨ (code.setWidth 32 = linkNotExpected ∧ x.state = .attesting ∧ x.att.step = 1 ∧ !x.att.decided) then s
    else endHandshake s b (code.setWidth 32)
  | none => s

/-- ABORT. -/
def execAbort (p : Nat) (src : BitVec 16) (code : BitVec 8) (s : State) : Host.Outcome State Fault Refusal :=
  onFabric s (takeAbort · p src code)

/-! ## BOND_CLOSE, BOND_REKEY and module swaps -/

/-- BOND_CLOSE (Table 9.4). -/
def bondCloseEff (_id : Nat) (c : Started) (s : State) : Eff :=
  match targetOf s c with
  | none => .fail .staleHandle s
  | some r =>
    let st := (getBond s r.index).state
    if st = .live ∨ st = .stale then .wait (.bondClose r.index) (closeBond s r.index) else .reject linkBondState s

/-- BOND_CLOSE. -/
def execBondClose (q : Nat) (s : State) : Host.Outcome State Fault Refusal := runLink 0x21 q bondCloseEff s

/-- BOND_REKEY (R262, R263): a second one during a flip is queued, and a third ends with BUSY. -/
def bondRekeyEff (id : Nat) (c : Started) (s : State) : Eff :=
  match targetOf s c with
  | none => .fail .staleHandle s
  | some r =>
    let b := r.index
    let x := getBond s b
    if x.state ≠ .live then .reject linkBondState s
    else if x.rekeyQueued.isSome then .fail .busy s
    else if x.flipping ∨ rekeyRunning s b then
      .wait (.bondRekey b false false) (updBond s b fun x => { x with rekeyQueued := some id })
    else .wait (.bondRekey b false false) (beginRekey s b)

/-- BOND_REKEY. -/
def execBondRekey (q : Nat) (s : State) : Host.Outcome State Fault Refusal := runLink 0x22 q bondRekeyEff s

/-- LIVE to STALE: every stream drains (Table 9.4). -/
def staleBond (s : State) (b : Nat) : State :=
  if (getBond s b).state = .live then
    (bondStreams s b).foldl (fun s pe => drainStream s pe.1 pe.2 false) (setBondState s b .stale)
  else s

/-- A module swap noticed here: LIVE bonds over port `p` whose recorded module differs become STALE, with BOND_STALE (R240). -/
def swapModule (s : State) (p : Nat) (m : BitVec 128) : State :=
  (s.bonds.filter fun b => b.2.state == .live && (tget b.2.localModules p).any (· != m)).foldl
    (fun s b =>
      let s := raise (staleBond s b.1) { code := 0x33, unit := unitPort, inst := p }
      flushControl (controlMessage s b.1 0x010A []) b.1) s

/-! ## Streams (R248 to R252) -/

/-- Streams of a bond that are not CLOSED. -/
def streamCount (s : State) (b : Nat) : Nat := (bondStreams s b).length

/-- The lowest CLOSED entry of a port. -/
def freeEntry (s : State) (p : Nat) : Option Nat :=
  (List.range 256).find? fun e => (getStream s p e).state == .closed

/-- The bond of STREAM_OPEN and STREAM_CLOSE: TARGET, or a TENANT session's peer (R249). -/
def streamBond (s : State) (c : Started) : Except Status (Option Nat) :=
  if wd c.words 7 = 0 then
    if (sessionOf s c).world = .tenant then .ok (bondWith s (fld (wd c.words 8) 31 16)) else .error .badHandle
  else match targetOf s c with
    | some r => .ok (some r.index)
    | none => .error .staleHandle

/-- A new entry: its salt, and the generations it starts under (R251, R263). While a flip to a new root is under way its salt is one of
the new root, under which it starts; it moves with the other streams of the bond. (DEDUCED, log entry 64) -/
def newEntry (s : State) (p e b a : Nat) (st : StreamState) : State :=
  let x := getBond s b
  let y : Stream :=
    { state := st, accord := a, bond := b, txSalt := BitVec.ofNat 32 x.salt
      txGen := if x.flipRoot.isSome then (x.txGen + 1) % 65536 else x.txGen
      moveDue := x.flipping, inst := s.stamp, rxGen := if x.rxFlipping then (x.rxGen + 65535) % 65536 else x.rxGen }
  updBond (updStream { s with stamp := s.stamp + 1 } p e fun _ => y) b fun x => { x with salt := x.salt + 1 }

/-- STREAM_OPEN (R249). -/
def streamOpenEff (_id : Nat) (c : Started) (s : State) : Eff :=
  match streamBond s c with
  | .error e => .fail e s
  | .ok none => .reject linkBondState s
  | .ok (some b) =>
    let x := getBond s b
    let a := fld (wd c.words 8) 9 0
    let p := fld (wd c.words 9) 4 0
    if (sessionOf s c).world = .tenant ∧ a ≠ (sessionOf s c).accord then .fail .badOperand s
    else if x.state ≠ .live ∨ x.salt ≥ 2 ^ 31 then .reject linkBondState s
    else if (getPort s p).state ≠ .up ∨ !x.mask.getLsbD p ∨ (getPort s p).gateway then .reject linkPortState s
    else if !boundTo s .port p a then .reject linkPortNotBound s
    else if !(getAccord s a).peers.contains x.peer then .reject linkNotPeer s
    else if a < 2 ∨ (getAccord s a).state ≠ .live then .reject linkAccordRefused s
    else if streamCount s b ≥ 16 then .fail .limit s
    else match freeEntry s p with
      | none => .fail .limit s
      | some e =>
        let salt := x.salt
        let s := newEntry s p e b a .opening
        let acc := getAccord s a
        .wait (.streamOpen (streamNo p e))
          (controlMessage s b 0x0101 (toLE acc.gid.toNat 4 ++ toBE acc.m.toNat 48 ++ toLE (streamNo p e) 2 ++ toLE p 1 ++ [0] ++ toLE salt 4))

/-- STREAM_OPEN. -/
def execStreamOpen (q : Nat) (s : State) : Host.Outcome State Fault Refusal := runLink 0x23 q streamOpenEff s

/-- STREAM_CLOSE (R249): an OPEN stream drains and the peer is told. -/
def streamCloseEff (_id : Nat) (c : Started) (s : State) : Eff :=
  match streamBond s c with
  | .error e => .fail e s
  | .ok none => .reject linkBondState s
  | .ok (some b) =>
    let n := fld (wd c.words 8) 12 0
    let y := getStream s (n / 256) (n % 256)
    if y.state = .closed ∨ y.bond ≠ b ∨ ((sessionOf s c).world = .tenant ∧ y.accord ≠ (sessionOf s c).accord) then
      .fail .badOperand s
    else
      let s := if y.state = .opened then tellClose (drainStream s (n / 256) (n % 256) false) (n / 256) (n % 256) else s
      .wait (.streamClose n) s

/-- STREAM_CLOSE. -/
def execStreamClose (q : Nat) (s : State) : Host.Outcome State Fault Refusal := runLink 0x24 q streamCloseEff s

/-! ## Ports (R238) -/

/-- PORT_ENABLE. -/
def portEnableEff (_id : Nat) (c : Started) (s : State) : Eff :=
  let p := fld (wd c.words 8) 4 0
  let queued : Bool := s.started.any fun e => e.2.wait == .portAgain p
  if !unitInService s .port p then .reject linkPortState s
  else if (getPort s p).state = .draining then (if queued then .fail .busy s else .wait (.portAgain p) s)
  else .wait (.portUp p) (enablePort s p)

/-- PORT_ENABLE. -/
def execPortEnable (q : Nat) (s : State) : Host.Outcome State Fault Refusal := runLink 0x25 q portEnableEff s

/-- PORT_DISABLE. -/
def portDisableEff (_id : Nat) (c : Started) (s : State) : Eff :=
  let p := fld (wd c.words 8) 4 0
  let st := (getPort s p).state
  .wait (.portDown p) (if st = .disabled ∨ st = .draining then s else drainPort s p)

/-- PORT_DISABLE. -/
def execPortDisable (q : Nat) (s : State) : Host.Outcome State Fault Refusal := runLink 0x26 q portDisableEff s

/-! ## Control messages (Table 9.5) -/

/-- The oldest control message of bond `b` taken, if it is of type `t`, and handled by `f`. -/
def onMessage (s : State) (b t : Nat) (f : State → Bytes → State) : Host.Outcome State Fault Refusal :=
  onFabric s fun s => match (getBond s b).inbox with
    | [] => s
    | m :: rest => if m.1.toNat = t then f (updBond s b fun x => { x with inbox := rest }) m.2 else s

/-- OPEN_REQ answered (R250). -/
def openReq (s : State) (b : Nat) (m : Bytes) : State :=
  let x := getBond s b
  let no := leField m 52 2
  let refuse (code : Word) : State := controlMessage s b 0x0103 (toLE no 2 ++ toLE code.toNat 1)
  let found := s.accords.find? fun e =>
    memberOk s (leField m 0 4) e.1 && e.2.m == BitVec.ofNat 384 (beNat (bslice m 4 48))
  if x.state ≠ .live then refuse linkBondState
  else match found with
    | none => refuse linkAccordRefused
    | some (a, acc) =>
      if !acc.peers.contains x.peer then refuse linkNotPeer
      else
        let ports := (maskPorts x.mask).filter fun p =>
          (getPort s p).state == .up && boundTo s .port p a && (freeEntry s p).isSome
        let load (p : Nat) : Nat := ((bondStreams s b).filter fun pe => pe.1 == p).length
        let best := ports.foldl
          (fun (o : Option Nat) p => match o with
            | none => some p
            | some y => if load p < load y then some p else o) none
        match best with
        | none => refuse linkNoPeerPort
        | some p =>
          if streamCount s b ≥ 16 ∨ x.salt ≥ 2 ^ 31 then refuse linkNoPeerPort
          else match freeEntry s p with
            | none => refuse linkNoPeerPort
            | some e =>
              let s := newEntry s p e b a .opened
              let s := updStream s p e fun y =>
                { y with peerStream := no, peerPort := leField m 54 1, rxSalt := BitVec.ofNat 32 (leField m 56 4) }
              controlMessage s b 0x0102
                (toLE acc.gid.toNat 4 ++ toLE no 2 ++ toLE (streamNo p e) 2 ++ toLE p 1 ++ [0] ++ toLE x.salt 4)

/-- OPEN_REQ. -/
def execOpenReq (bond : Nat) (s : State) : Host.Outcome State Fault Refusal := onMessage s bond 0x0101 fun s m => openReq s bond m

/-- Commands that wait for stream `n` to open, ended. -/
def endStreamOpen (s : State) (n : Nat) (st : Status) (detail result : Word) : State :=
  (s.started.filter fun e => e.2.wait == .streamOpen n).foldl (fun s e => finish s e.1 st detail result) s

/-- Whether a stream just opened must drain at once: its port is not UP, its bond not LIVE, or its port is no longer bound to its accord
(R238, R247, R252). -/
def mustDrain (s : State) (p : Nat) (y : Stream) : Bool :=
  (getPort s p).state != .up || (getBond s y.bond).state != .live || !boundTo s .port p y.accord

/-- OPEN_ACK: OPENING to OPEN, and on to DRAINING where what holds the stream has gone meanwhile. -/
def openAck (s : State) (b : Nat) (m : Bytes) : State :=
  let n := leField m 4 2
  let y := getStream s (n / 256) (n % 256)
  if y.state ≠ .opening ∨ y.bond ≠ b then s
  else
    let s := updStream s (n / 256) (n % 256) fun y =>
      { y with state := .opened, peerStream := leField m 6 2, peerPort := leField m 8 1
               rxSalt := BitVec.ofNat 32 (leField m 10 4) }
    let s := endStreamOpen s n .ok 0 (BitVec.ofNat 32 n)
    if mustDrain s (n / 256) y then drainStream s (n / 256) (n % 256) (!boundTo s .port (n / 256) y.accord) else s

/-- OPEN_ACK. -/
def execOpenAck (bond : Nat) (s : State) : Host.Outcome State Fault Refusal := onMessage s bond 0x0102 fun s m => openAck s bond m

/-- OPENING to CLOSED, with the code that STREAM_OPEN ends with. -/
def refuseOpen (s : State) (n : Nat) (code : Word) : State :=
  if (getStream s (n / 256) (n % 256)).state = .opening then
    endStreamOpen (closeEntry s (n / 256) (n % 256)) n .rejected code 0
  else s

/-- OPEN_REFUSE. -/
def execOpenRefuse (bond : Nat) (s : State) : Host.Outcome State Fault Refusal :=
  onMessage s bond 0x0103 fun s m =>
    let n := leField m 0 2
    if (getStream s (n / 256) (n % 256)).bond = bond then refuseOpen s n (BitVec.ofNat 32 (leField m 2 1)) else s

/-- STREAM_OPEN_TIMEOUT: no answer within 1 ms (R250). (DESIGN CHOICE, log entry 38) -/
def execStreamOpenTimeout (stream : Nat) (s : State) : Host.Outcome State Fault Refusal :=
  onFabric s (refuseOpen · stream linkPeerNoResponse)

/-- CLOSE_STREAM: the receiver's end of the stream drains (Table 9.6). -/
def execCloseStream (bond : Nat) (s : State) : Host.Outcome State Fault Refusal :=
  onMessage s bond 0x0104 fun s m =>
    let n := leField m 2 2
    let y := getStream s (n / 256) (n % 256)
    if y.bond = bond ∧ y.peerStream = leField m 0 2 then drainStream s (n / 256) (n % 256) false else s

/-! ## Key phases (R262 to R264) -/

/-- PHASE_PREPARE: the receiver derives the next key, keeps the current one and answers (R263 step 1, R264). -/
def phasePrepare (s : State) (b : Nat) (m : Bytes) : State :=
  let x := getBond s b
  let g := leField m 0 2
  let change : Bool := leField m 2 1 == 1
  if x.state ≠ .live ∨ x.rxFlipping ∨ g ≠ (x.rxGen + 1) % 65536 ∨ (change ∧ x.nextRoot.isNone) then s
  else
    let s := updBond s b fun x =>
      { x with oldRx := some x.rxRoot, rxGen := g, rxFlipping := true, rxRoot := if change then x.nextRoot.getD x.rxRoot else x.rxRoot }
    let s := (List.range (leField m 4 2)).foldl
      (fun s i =>
        let n := leField m (6 + 6 * i) 2
        if n < 8192 ∧ (getStream s (n / 256) (n % 256)).bond = b ∧ (getStream s (n / 256) (n % 256)).state ≠ .closed then
          updStream s (n / 256) (n % 256) fun y => { y with rxSaltNext := some (BitVec.ofNat 32 (leField m (8 + 6 * i) 4)) }
        else s) s
    controlMessage s b 0x0106 (toLE g 2)

/-- PHASE_PREPARE. -/
def execPhasePrepare (bond : Nat) (s : State) : Host.Outcome State Fault Refusal :=
  onMessage s bond 0x0105 fun s m => phasePrepare s bond m

/-- PHASE_READY. -/
def execPhaseReady (bond : Nat) (s : State) : Host.Outcome State Fault Refusal :=
  onMessage s bond 0x0106 fun s m => readyFlip s bond (leField m 0 2)

/-- PHASE_DONE. -/
def execPhaseDone (bond : Nat) (s : State) : Host.Outcome State Fault Refusal :=
  onMessage s bond 0x0107 fun s m => doneFlip s bond (leField m 0 2)

/-- PHASE_FLIP_START: a port has sent 2^25 windows of the bond under one generation (R262). (DEDUCED, log entry 64) -/
def execPhaseFlipStart (bond : Nat) (s : State) : Host.Outcome State Fault Refusal :=
  onFabric s fun s => if s.ports.any fun p => tgetD p.2.genWindows bond 0 ≥ 2 ^ 25 then startFlip s bond else s

/-- REAGREEMENT_START: generation 65,024 or 2^31 salts reached; the initiator offers (R264). (DEDUCED, log entry 64) -/
def execReagreementStart (bond : Nat) (s : State) : Host.Outcome State Fault Refusal :=
  onFabric s fun s =>
    let x := getBond s bond
    if x.state = .live ∧ x.initiator ∧ !x.reagreeing ∧ x.nextRoot.isNone
        ∧ (x.txGen ≥ 65024 ∨ x.rxGen ≥ 65024 ∨ x.salt ≥ 2 ^ 31) then offerAgreement s bond else s

/-- A re-agreement ends with the new root, in force from the next flip; T goes on (R264). -/
def reagreed (s : State) (b : Nat) (offer answer ssk sse : Bytes) : State :=
  let x := getBond s b
  let t := sha384 (toBE x.t.toNat 48 ++ offer ++ answer)
  updBond s b fun y =>
    { y with nextRoot := some (linkRoot s x ssk sse t), t := BitVec.ofNat 384 (beNat t), reagreeing := false, secret := []
             transcript := [] }

/-- REAGREE_OFFER: the responder answers (R264). -/
def reagreeOffer (s : State) (b : Nat) (m : Bytes) : State :=
  let x := getBond s b
  if x.state ≠ .live ∨ x.initiator then s
  else if noEntropy s then endReagreement s b keyEntropyFail
  else
    let s := drawSecrets s b
    let y := getBond s b
    match Config.kemEncaps (bslice m 96 1568) (secretBytes y 56 64), Config.ecdhX (secretBytes y 0 56) (bslice m 0 96) with
    | some (ct, ssk), some sse =>
      let body := bslice (Config.ecdhPublic (secretBytes y 0 56)) 0 96 ++ bslice ct 0 1568
      let s := reagreed s b (messageBytes 0x0108 m) (messageBytes 0x0109 body) ssk sse
      controlMessage s b 0x0109 body
    | _, _ => endReagreement s b linkAgreementFailed

/-- REAGREE_OFFER. -/
def execReagreeOffer (bond : Nat) (s : State) : Host.Outcome State Fault Refusal :=
  onMessage s bond 0x0108 fun s m => reagreeOffer s bond m

/-- REAGREE_ANSWER: the initiator forms the new root (R264). -/
def reagreeAnswer (s : State) (b : Nat) (m : Bytes) : State :=
  let x := getBond s b
  if x.state ≠ .live ∨ !x.initiator ∨ !x.reagreeing then s
  else
    let ssk := Config.kemDecaps (secretBytes x 56 64) (bslice m 96 1568)
    match Config.ecdhX (secretBytes x 0 56) (bslice m 0 96) with
    | some sse => reagreed s b x.transcript (messageBytes 0x0109 m) ssk sse
    | none => endReagreement s b linkAgreementFailed

/-- REAGREE_ANSWER. -/
def execReagreeAnswer (bond : Nat) (s : State) : Host.Outcome State Fault Refusal :=
  onMessage s bond 0x0109 fun s m => reagreeAnswer s bond m

/-- BOND_STALE from the peer (Table 9.4). -/
def execBondStaleMsg (bond : Nat) (s : State) : Host.Outcome State Fault Refusal :=
  onMessage s bond 0x010A fun s _ => staleBond s bond

/-- BOND_CLOSE from the peer (Table 9.4). -/
def execBondCloseMsg (bond : Nat) (s : State) : Host.Outcome State Fault Refusal :=
  onMessage s bond 0x010B fun s _ => closeBond s bond

/-- REKEY_REQUEST: this side flips its own sending direction (R262). -/
def execRekeyRequest (bond : Nat) (s : State) : Host.Outcome State Fault Refusal :=
  onMessage s bond 0x010C fun s _ => startFlip s bond

end Sys2Proof.Machine
end

