-- ==== Sys2Proof/Machine/Walk.lean ====
section
/-! DEFINITION. The walk that hub firmware makes: stage 1 (R297 to R299), stage 2 (R300, R303) and the combined entry (R305,
R306). -/

namespace Sys2Proof.Machine

/-- Translation faults, Table 11.6. -/
inductive XFault
  | unmapped | format | table | window
deriving DecidableEq, Repr

/-- FAULT values of Table 11.6. -/
def xfaultOf : Nat → Option XFault
  | 1 => some .unmapped | 2 => some .format | 3 => some .table | 4 => some .window | _ => none

/-- A stage-1 leaf: page size, DPA of the page, WRITABLE. -/
structure Leaf where
  size : Nat
  page : Nat
  writable : Bool
deriving DecidableEq, Repr

/-- The 8-byte entry at a DPA, read as the accord on this chip (R299); a read that its MPE refuses is TABLE (DEDUCED, log entry 90). -/
def tableEntry (s : State) (a dpa : Nat) : State × Except XFault (BitVec 64) :=
  match stage2Brick s (gidOf s a) dpa with
  | none => (s, .error .table)
  | some (n, b) =>
    match readNow s n b (dpa % 4096 / 256) a with
    | (s, .ok d) => (s, .ok (BitVec.ofNat 64 (leField d (dpa % 256) 8)))
    | (s, .error _) => (s, .error .table)

/-- ADDRESS of an entry. -/
def entryAddr (e : BitVec 64) : Nat := fld e 51 12 * 4096

/-- A reserved bit of Table 11.2. -/
def entryReserved (e : BitVec 64) : Bool := fld e 59 52 != 0 || fld e 7 4 != 0

/-- Whether the 16 L0 entries from `base` form one 64 KiB page (R299); each has to be VALID and a LEAF (DEDUCED, log entry 90). -/
def contigGroup (s : State) (a base : Nat) : State × Option (Nat × Bool) :=
  let r := (List.range 16).foldl
    (fun (x : State × Option (List (BitVec 64))) i => match x.2 with
      | none => x
      | some l => match tableEntry x.1 a (base + 8 * i) with
        | (s, .ok e) => (s, some (l ++ [e]))
        | (s, .error _) => (s, none))
    (s, some [])
  match r.2 with
  | none => (r.1, none)
  | some l =>
    let first := (l.head?).getD 0
    let ok : Bool := (entryAddr first) % 65536 == 0 && (List.range 16).all fun i =>
      let e := (l[i]?).getD 0
      bit e 0 && bit e 1 && bit e 3 && bit e 2 == bit first 2 && entryAddr e == entryAddr first + 4096 * i
    (r.1, if ok then some (entryAddr first, bit first 2) else none)

/-- The walk below a table of level `level` (R297, R299). -/
def tableWalk (level : Nat) (s : State) (a table : Nat) (dva : BitVec 57) : State × Except XFault Leaf :=
  let index := match level with
    | 3 => fld dva 56 39 | 2 => fld dva 38 30 | 1 => fld dva 29 21 | _ => fld dva 20 12
  match tableEntry s a (table + 8 * index) with
  | (s, .error f) => (s, .error f)
  | (s, .ok e) =>
    let leaf := bit e 1
    let size := match level with
      | 2 => 2 ^ 30 | 1 => 2 ^ 21 | _ => 4096
    if !bit e 0 then (s, .error .unmapped)
    else if entryReserved e || (level == 3 && leaf) || (level == 0 && !leaf) || (level != 0 && bit e 3)
        || (leaf && entryAddr e % size != 0) then (s, .error .format)
    else match level with
      | 0 =>
        if bit e 3 then
          match contigGroup s a (table + 8 * (index / 16 * 16)) with
          | (s, some (p, w)) => (s, .ok { size := 65536, page := p, writable := w })
          | (s, none) => (s, .ok { size := 4096, page := entryAddr e, writable := bit e 2 })
        else (s, .ok { size := 4096, page := entryAddr e, writable := bit e 2 })
      | k + 1 =>
        if leaf then (s, .ok { size := size, page := entryAddr e, writable := bit e 2 })
        else tableWalk k s a (entryAddr e) dva

/-- Whether an extent translates to anything for an accord (R303). -/
def extentServes (s : State) (a : Nat) (x : Extent) : Bool :=
  x.host || fld x.target 63 48 == s.chipId || (getAccord s a).peers.contains (fld x.target 63 48)

/-- TARGET of the page `k` pages into an extent (Table 11.3). -/
def extentTarget (x : Extent) (k : Nat) : BitVec 64 :=
  if x.host then x.target + BitVec.ofNat 64 (4096 * k) else x.target + BitVec.ofNat 64 (k * 2 ^ 21)

/-- Whether a block target is aligned to a size (R306). -/
def targetAligned (host : Bool) (t : BitVec 64) (size : Nat) : Bool :=
  if host then t.toNat % size == 0 else fld t 44 21 % (size / 4096) == 0

/-- The sizes of Table 11.5, largest first. -/
def pageSizes : List Nat := [2 ^ 30, 2 ^ 21, 65536, 4096]

/-- The combined entry for a DVA under a leaf (R306). -/
def combine (s : State) (a : Nat) (l : Leaf) (dva : BitVec 57) : Except XFault TlbEntry :=
  let dpa := l.page + dva.toNat % l.size
  match stage2 s (gidOf s a) dpa with
  | none => .error .window
  | some x =>
    if !extentServes s a x then .error .window
    else
      let fits (p : Nat) : Bool :=
        let lo := dpa / p * p
        p ≤ l.size && x.base ≤ lo && lo + p ≤ x.base + 4096 * x.pages
          && targetAligned x.host (extentTarget x ((lo - x.base) / 4096)) p
      let p := (pageSizes.find? fits).getD 4096
      let k := (dpa / p * p - x.base) / 4096
      .ok { accord := a, base := dva.toNat / p * p, size := p, writable := l.writable && x.writable, host := x.host
            target := extentTarget x k
            counter := (x.counters[k / 512]?).getD 0x3FFF }

/-- The whole walk of an accord at an OTU (R296, R310). -/
def translate (s : State) (a otu : Nat) (dva : BitVec 57) : State × Except XFault TlbEntry :=
  match tget (getAccord s a).roots otu with
  | none => (s, .error .unmapped)
  | some root => match tableWalk 3 s a root.toNat dva with
    | (s, .error f) => (s, .error f)
    | (s, .ok l) => (s, combine s a l dva)

/-- The target of an address in an entry's page (R306): chip, stack, brick and offset of a brick target. -/
def brickAt (e : TlbEntry) (dva : BitVec 57) : Nat × Nat × Nat × Nat :=
  let off := dva.toNat - e.base
  (fld e.target 63 48, fld e.target 47 45, fld e.target 44 21 + off / 4096, off % 4096)

/-- The host address of an address in an entry's page. -/
def hostAt (e : TlbEntry) (dva : BitVec 57) : BitVec 64 := e.target + BitVec.ofNat 64 (dva.toNat - e.base)

end Sys2Proof.Machine
end

