-- ==== Sys2Proof/Machine/Otu.lean ====
section
/-! DEFINITION. Outbound translation (R295, R305 to R312, R316, R317) and the stage-2 mailbox (R301, R304, R314). -/

namespace Sys2Proof.Machine

/-! ## Refusals (Table 11.8) -/

/-- Fault code, fence code and rung of a translation condition. -/
def xfaultInfo : XFault → BitVec 8 × BitVec 8
  | .unmapped => (0x50, 0x07)
  | .format => (0x51, 0x0B)
  | .table => (0x52, 0x0B)
  | .window => (0x53, 0x07)

/-- Request `r` refused at OTU `o` with a fault; FAULTS counts it. -/
def xlateRefuse (s : State) (o : Nat) (r : Req) (code fence : BitVec 8) (rung : Option Nat) : State :=
  let s := updOtu s o fun t => { t with faults := satAdd 16 t.faults 1 }
  let s := raise s { originFault s r.origin code unitOtu o r.accord fence with
                     rung := rung, detail6 := BitVec.ofNat 32 (fld r.dva 31 0), detail7 := BitVec.ofNat 32 (fld r.dva 56 32) }
  answer s r (some .lost) []

/-- A walk fault on a request. -/
def xlateFault (s : State) (o : Nat) (r : Req) (f : XFault) : State :=
  xlateRefuse s o r (xfaultInfo f).1 (xfaultInfo f).2 (some 2)

/-! ## Hits -/

/-- The entry of OTU `o` that matches a request (R305). -/
def tlbHit (s : State) (o : Nat) (r : Req) : Option TlbEntry :=
  (getOtu s o).tlb.find? fun e => e.accord == r.accord && e.base ≤ r.dva.toNat && r.dva.toNat < e.base + e.size

/-- Whether an operation needs WRITABLE (R307). -/
def needsWrite : MemOp → Bool
  | .readLine | .readStretcher => false
  | _ => true

/-- The DPA of a host address of an accord's page (R335). -/
def dpaOfHost (s : State) (a : Nat) (h : BitVec 64) : Nat :=
  match s.extents.find? fun x => x.host && x.gid == gidOf s a && x.target.toNat ≤ h.toNat && h.toNat < x.target.toNat + 4096 * x.pages with
  | some x => x.base + (h.toNat - x.target.toNat)
  | none => 0

/-- A request handed on to its target under an entry: this chip's MPE, the HPE, or the route to another chip (R295). -/
def handOn (s : State) (o : Nat) (r : Req) (e : TlbEntry) : State :=
  let (n, s) := nextStamp s
  let r := { r with via := some o, seq := n }
  if e.host then
    let h := hostAt e r.dva
    let q := { r with haddr := h, dpa := BitVec.ofNat 52 (dpaOfHost s r.accord h), counter := e.counter }
    { s with hpe := { s.hpe with pages := s.hpe.pages ++ [q] } }
  else
    let (chip, st, b, off) := brickAt e r.dva
    let q := { r with chip := chip, stack := st, brick := b, off := off }
    if chip = s.chipId then deliver s st q
    else sendRemote s (s.ports.flatMap fun p => p.2.heldReqs) q

/-- A request through an entry: the permission check, then on (R307). -/
def throughEntry (s : State) (o : Nat) (r : Req) (e : TlbEntry) : State :=
  if needsWrite r.op && !e.writable then xlateRefuse s o r 0x54 0x0B (some 2) else handOn s o r e

/-- A hit: the entry becomes the most recently used (R305, R308). -/
def serveHit (s : State) (o : Nat) (r : Req) (e : TlbEntry) : State :=
  let s := updOtu s o fun t => { t with tlb := e :: t.tlb.erase e, hits := (t.hits + 1) % 2 ^ 32 }
  throughEntry s o r e

/-! ## Requests (R296, R309) -/

/-- The miss slot of an accord for a page. -/
def pendingMiss (s : State) (o a page : Nat) : Option Nat :=
  ((getOtu s o).misses.find? fun m => m.2.accord == a && m.2.page == page).map (·.1)

/-- Request `i` of an OTU's intake taken out. -/
def takeIntake (s : State) (o i : Nat) : State := updOtu s o fun t => { t with ingress := t.ingress.eraseIdx i }

/-- A request that missed waits in a new slot, whose descriptor is posted. -/
def openMiss (s : State) (o slot : Nat) (r : Req) : State :=
  postMiss (updOtu s o fun t =>
    { t with misses := tset t.misses slot { accord := r.accord, page := dvaPage r.dva, waiting := [r] } }) o slot

/-- A request that hits although the head of the intake waits for a slot: the first whose page no waiting request has. -/
def passing (s : State) (o : Nat) : Option (Nat × Req × TlbEntry) :=
  let t := getOtu s o
  let taken := t.misses.map (·.2.page)
  (List.range t.ingress.length).findSome? fun i => match t.ingress[i]? with
    | none => none
    | some r =>
      let before := (t.ingress.take i).map fun q => dvaPage q.dva
      if i = 0 ∨ taken.contains (dvaPage r.dva) ∨ before.contains (dvaPage r.dva) then none
      else (tlbHit s o r).map fun e => (i, r, e)

/-- DOMAIN_REQUEST: the oldest request of an OTU's intake translated, refused or left to wait (R296, R308, R309). -/
def domainRequest (s : State) (o : Nat) : State :=
  match (getOtu s o).ingress.head? with
  | none => s
  | some r =>
    let rest := takeIntake s o 0
    if inDry s then answer rest r (some .lost) []
    else if (tget (getAccord s r.accord).roots o).isNone then xlateFault rest o r .unmapped
    else match pendingMiss s o r.accord (dvaPage r.dva) with
      | some slot =>
        updOtu rest o fun t => { t with misses := tupd t.misses slot fun m => { m with waiting := m.waiting ++ [r] } }
      | none => match tlbHit s o r with
        | some e => serveHit rest o r e
        | none => match tfree (getOtu s o).misses 0 256 with
          | some slot => openMiss rest o slot r
          | none => match passing s o with
            | some (i, q, e) => serveHit (takeIntake s o i) o q e
            | none => s

/-- Whether an OTU takes traffic: OTUs 0 to 7 belong to the LPE clusters, OTU 8 to the HPE (R39). -/
def otuServes (s : State) (otu : Nat) : Bool := inDry s || (if otu < 8 then lpeOk s otu else hpeOk s)

/-- DOMAIN_REQUEST. -/
def execDomainRequest (otu : Nat) (s : State) : Host.Outcome State Fault Refusal :=
  if running s ∧ otu < 9 ∧ otuServes s otu then .next (fabricSettle (domainRequest s otu)) else .next s

/-- XLATE_TIMEOUT: no valid reply 100 µs after the miss was posted (R311). -/
def xlateTimeout (s : State) (o slot : Nat) : State :=
  match tget (getOtu s o).misses slot with
  | none => s
  | some m =>
    let s := freeMiss s o slot
    let s := updOtu s o fun t => { t with timeouts := satAdd 16 t.timeouts 1 }
    m.waiting.foldl (fun s r => xlateRefuse s o r 0x55 0x03 none) s

/-- XLATE_TIMEOUT. (DESIGN CHOICE, log entry 38) -/
def execXlateTimeout (otu slot : Nat) (s : State) : Host.Outcome State Fault Refusal :=
  if running s then .next (settle (xlateTimeout s otu slot)) else .next s

/-! ## OTU_MISS_REPLY (R310, Table 11.5) -/

/-- Codes of Table 11.7. -/
def xBadOtu : Word := 0x01
/-- ALIGNMENT. -/
def xAlignment : Word := 0x02
/-- STALE_MISS. -/
def xStaleMiss : Word := 0x03
/-- ENTRY_INVALID. -/
def xEntryInvalid : Word := 0x04
/-- NO_ROOT. -/
def xNoRoot : Word := 0x05

/-- An entry installed: overlapping entries of the accord go, and the least recently used of 4,096 (R305). -/
def installEntry (s : State) (o : Nat) (e : TlbEntry) : State :=
  updOtu s o fun t =>
    { t with tlb := (e :: t.tlb.filter fun x => !(x.accord == e.accord && meetsRange x.base x.size (some (e.base, e.size)))).take 4096 }

/-- Page size of a SIZE field. -/
def pageSizeOf : Nat → Nat
  | 0 => 4096 | 1 => 65536 | 2 => 2 ^ 21 | _ => 2 ^ 30

/-- Whether a reply's SIZE is within R306: its block aligned, and inside one extent of the accord's map. -/
def replySizeOk (s : State) (a : Nat) (host : Bool) (t : BitVec 64) (size : Nat) : Bool :=
  targetAligned host t size && s.extents.any fun x =>
    x.gid == gidOf s a && x.host == host &&
    (if host then x.target.toNat ≤ t.toNat && t.toNat + size ≤ x.target.toNat + 4096 * x.pages
     else fld x.target 63 45 == fld t 63 45 && fld x.target 44 21 ≤ fld t 44 21
            && fld t 44 21 + size / 4096 ≤ fld x.target 44 21 + x.pages)

/-- Whether an entry resolves into the page that the running move holds (R337 step 1). -/
def movesInto (s : State) (a : Nat) (e : TlbEntry) : Bool :=
  s.hpe.moveInv.isSome && e.host && gidOf s a == s.hpe.moveGid
    && dpaOfHost s a e.target / 2 ^ 21 == fld s.hpe.moveDpa 30 0

/-- OTU_MISS_REPLY. (DEDUCED, log entry 90) -/
def missReplyEff (_id : Nat) (c : Started) (s : State) : Eff :=
  let tag := wd c.words 8
  let w := wd c.words 9
  let o := fld tag 15 12
  let slot := fld tag 7 0
  if o > 8 ∧ o ≠ 15 then .reject xBadOtu s
  else match tget (getOtu s o).misses slot with
    | none => .reject xStaleMiss s
    | some m =>
      let fault := fld w 23 16
      if (tgetD (getOtu s o).gens slot 0).toNat ≠ fld tag 23 16 then .reject xStaleMiss s
      else if fld w 26 24 ≠ 0 ∨ fld w 15 14 ≠ 0 ∨ wd c.words 12 ≠ 0 then .reject xEntryInvalid s
      else if !bit w 31 then
        match xfaultOf fault with
        | none => .reject xEntryInvalid s
        | some f => .good (m.waiting.foldl (fun s r => xlateFault s o r f) (freeMiss s o slot))
      else
        let size := pageSizeOf (fld w 30 29)
        let t := wd2 c.words 10
        let e : TlbEntry :=
          { accord := m.accord, base := 4096 * m.page / size * size, size := size, writable := bit w 28, host := bit w 27
            target := t, counter := fld w 13 0 }
        if fault ≠ 0 ∨ !replySizeOk s m.accord e.host t size then .reject xEntryInvalid s
        else if movesInto s m.accord e then
          .good (updOtu s o fun t => { t with misses := tupd t.misses slot fun m => { m with moveHeld := true } })
        else
          .good (m.waiting.foldl (fun s r => throughEntry s o r e) (freeMiss (installEntry s o e) o slot))

/-- OTU_MISS_REPLY. -/
def execOtuMissReply (q : Nat) (s : State) : Host.Outcome State Fault Refusal := runLink 0x39 q missReplyEff s

/-! ## OTU_INVALIDATE (R312) -/

/-- OTU_INVALIDATE. (DEDUCED, log entry 90) -/
def otuInvalidateEff (id : Nat) (c : Started) (s : State) : Eff :=
  let w := wd c.words 8
  let x := sessionOf s c
  let o := fld w 3 0
  let a := if x.world = .root then fld w 25 16 else x.accord
  let dva := (wd2 c.words 9).toNat
  let len := (wd c.words 11).toNat
  let stage2 := bit w 4
  if o > 8 ∧ o ≠ 15 then .reject xBadOtu s
  else if (if stage2 then dva ≠ 0 else dva % 4096 ≠ 0 ∨ dva ≥ 2 ^ 57) ∨ len % 4096 ≠ 0 then .reject xAlignment s
  else if o ≠ 15 ∧ (tget (getAccord s a).roots o).isNone then .reject xNoRoot s
  else
    let otus := if o = 15 then rootOtus s a else [o]
    let range := if stage2 ∨ len = 0 then none else some (dva, len)
    let (s, i) := startInvalidation s a otus range (some id) none []
    .wait (.invalidation i) s

/-- OTU_INVALIDATE. -/
def execOtuInvalidate (q : Nat) (s : State) : Host.Outcome State Fault Refusal := runLink 0x38 q otuInvalidateEff s

/-! ## The stage-2 mailbox (R301, R304, R314, R319) -/

/-- Mailbox codes of Table 11.7. -/
inductive BoxCode
  | ok | alignment | overlap | extentLimit | stackBound | noCounters | notFound | badDescriptor
deriving DecidableEq, Repr

/-- Their values. -/
def boxCode : BoxCode → BitVec 8
  | .ok => 0x00 | .alignment => 0x02 | .overlap => 0x06 | .extentLimit => 0x07 | .stackBound => 0x08
  | .noCounters => 0x09 | .notFound => 0x0A | .badDescriptor => 0x0B

/-- The mailbox of a world; only ROOT and HOST have one. -/
def mailbox (s : State) : World → Option Mailbox
  | .root => some s.mailboxRoot
  | .host => some s.mailboxHost
  | _ => none

/-- A world's mailbox replaced. -/
def setMailbox (s : State) (w : World) (m : Mailbox) : State :=
  match w with
  | .root => { s with mailboxRoot := m }
  | .host => { s with mailboxHost := m }
  | _ => s

/-- The descriptor that a world's mailbox names (R301). -/
def readDescriptor (s : State) (w : World) : Bytes :=
  match mailbox s w with
  | some m => if w = .root then memReadBytes s.hubMem 0 m.desc.toNat 32 else hostRead s 0 m.desc 32
  | none => []

/-- The lowest free access counters, ascending (R314). -/
def freeCounters (s : State) (n : Nat) : List Nat :=
  ((List.range 0x3FFF).filter fun k => (tget s.hpe.counters k).isNone).take n

/-- A descriptor's extent. -/
def descExtent (d : Bytes) : Extent :=
  { gid := BitVec.ofNat 32 (leField d 4 4), base := leField d 8 8, pages := leField d 16 4, writable := bit ((d[2]?).getD 0) 0
    host := leField d 1 1 == 1, target := BitVec.ofNat 64 (leField d 24 8) }

/-- MAP applied; the order of its checks is DEDUCED (log entry 90). -/
def applyMap (s : State) (d : Bytes) : State × BoxCode :=
  let x := descExtent d
  let counted := bit ((d[2]?).getD 0) 1
  let last := x.base + 4096 * x.pages
  let mine := s.extents.filter fun y => y.gid == x.gid
  if leField d 20 4 ≠ 0 ∨ (counted ∧ !x.host) ∨ (if x.host then fld x.target 11 0 ≠ 0 else fld x.target 20 0 ≠ 0) then
    (s, .badDescriptor)
  else if x.base % 4096 ≠ 0 ∨ x.pages = 0 ∨ last > 2 ^ 52 ∨ (x.host ∧ (x.base % 2 ^ 21 ≠ 0 ∨ x.pages % 512 ≠ 0)) then
    (s, .alignment)
  else if !x.host ∧ fld x.target 44 21 + x.pages - 1 > 16178175 then (s, .stackBound)
  else if mine.any fun y => y.base < last && x.base < y.base + 4096 * y.pages then (s, .overlap)
  else if mine.length ≥ 128 ∨ s.extents.length ≥ 16384 then (s, .extentLimit)
  else if !counted then ({ s with extents := s.extents ++ [x] }, .ok)
  else
    let n := x.pages / 512
    let ks := freeCounters s n
    if ks.length < n then (s, .noCounters)
    else
      let cs := (List.range n).foldl
        (fun t i => tset t ((ks[i]?).getD 0) ({ gid := x.gid, dpa := x.base / 2 ^ 21 + i } : HostCounter)) s.hpe.counters
      ({ s with extents := s.extents ++ [{ x with counters := ks }], hpe := { s.hpe with counters := cs } }, .ok)

/-- UNMAP applied for a world (R304); the order of its checks is DEDUCED (log entry 90). -/
def applyUnmap (s : State) (w : World) (d : Bytes) : State × BoxCode :=
  let x := descExtent d
  let session := if w = .root then 0 else 2
  match parseHandle s (BitVec.ofNat 32 (leField d 20 4)) [.fence] with
  | .error _ => (s, .badDescriptor)
  | .ok f =>
    if !(tget s.fences f.index).any fun y => maySignal session y then (s, .badDescriptor)
    else if x.base % 4096 ≠ 0 then (s, .alignment)
    else match s.extents.find? fun y => y.gid == x.gid && y.base == x.base && y.pages == x.pages with
      | none => (s, .notFound)
      | some y =>
        let s := { s with extents := s.extents.erase y }
        let free (s : State) : State :=
          { s with hpe := { s.hpe with counters := s.hpe.counters.filter fun c => !y.counters.contains c.1 } }
        match s.accords.find? fun e => e.1 ≥ 2 && e.2.state != .free && e.2.gid == x.gid with
        | some (a, acc) =>
          if acc.roots.isEmpty then (fenceSignal (free s) f.index 1 true, .ok)
          else ((startInvalidation s a (rootOtus s a) none none (some f.index) y.counters).1, .ok)
        | none => (fenceSignal (free s) f.index 1 true, .ok)

/-- One descriptor applied, with its code (R301, R317). -/
def applyDescriptor (s : State) (w : World) (d : Bytes) : State × BoxCode :=
  let op := leField d 0 1
  if (op ≠ 1 ∧ op ≠ 2) ∨ leField d 1 1 > 1 ∨ fld ((d[2]?).getD 0) 7 2 ≠ 0 ∨ leField d 3 1 ≠ 0 then (s, .badDescriptor)
  else if op = 1 then applyMap s d
  else applyUnmap s w d

/-- HUB_S2_CTRL.GO written by a world (R301). -/
def mailboxGo (s : State) (w : World) : State :=
  match mailbox s w with
  | none => s
  | some m =>
    let (s, k) := applyDescriptor s w (readDescriptor s w)
    setMailbox s w { m with code := boxCode k }

/-- MAP: GO by a world whose descriptor is not an UNMAP. -/
def execMap (w : World) (s : State) : Host.Outcome State Fault Refusal :=
  if running s ∧ leField (readDescriptor s w) 0 1 ≠ 2 then .next (fabricSettle (mailboxGo s w)) else .next s

/-- UNMAP: GO by a world whose descriptor is one. -/
def execUnmap (w : World) (s : State) : Host.Outcome State Fault Refusal :=
  if running s ∧ leField (readDescriptor s w) 0 1 = 2 then .next (fabricSettle (mailboxGo s w)) else .next s

end Sys2Proof.Machine
end

