-- ==== Sys2Proof/Machine/Bounce.lean ====
section
/-! DEFINITION. Bounce records (R326 to R334): header checks, sessions and their marks, and the two directions. A record starts when
its command does, takes one of 16 lanes a direction, and runs when the PCIe port has returned what it reads. -/

namespace Sys2Proof.Machine

/-! ## Rejection codes (Table 12.4) -/

/-- BAD_HEADER. -/
def bncBadHeader : Word := 0x01
/-- WRONG_CHIP. -/
def bncWrongChip : Word := 0x02
/-- NOT_PERMITTED. -/
def bncNotPermitted : Word := 0x03
/-- SESSION_CLOSED. -/
def bncSessionClosed : Word := 0x04
/-- NONCE_STALE. -/
def bncNonceStale : Word := 0x05
/-- TARGET. -/
def bncTarget : Word := 0x06
/-- TAG_FAILED. -/
def bncTagFailed : Word := 0x07
/-- WRITE_REFUSED. -/
def bncWriteRefused : Word := 0x08
/-- SOURCE_FAILED. -/
def bncSourceFailed : Word := 0x09
/-- NO_FUNCTION. -/
def bncNoFunction : Word := 0x0A
/-- VF_QUIESCED. -/
def bncVfQuiesced : Word := 0x0B

/-! ## Headers (R326, R328) -/

/-- SESSION of a header. -/
def hdrSession (h : Bytes) : Nat := leField h 6 2
/-- LENGTH. -/
def hdrLength (h : Bytes) : Nat := leField h 28 4
/-- DVA. -/
def hdrDva (h : Bytes) : Nat := leField h 32 8
/-- NONCE. -/
def hdrNonce (h : Bytes) : Bytes := bslice h 16 12
/-- The count N of a NONCE. -/
def hdrCount (h : Bytes) : Nat := beNat (hdrNonce h) % 2 ^ 95
/-- The direction bit of a NONCE. -/
def hdrOut (h : Bytes) : Bool := beNat (hdrNonce h) / 2 ^ 95 == 1

/-- Whether a header keeps R326. -/
def headerOk (h : Bytes) (out : Bool) : Bool :=
  leField h 0 4 == 0x52434E42 && leField h 4 1 == (if out then 2 else 1)
    && leField h 5 1 % 16 == 1 && leField h 5 1 / 32 == 0 && !(out && leField h 5 1 / 16 % 2 == 1)
    && hdrSession h != 65535 && leField h 14 2 < 1024 && hdrLength h % 64 == 0 && hdrLength h ≤ 2097152
    && hdrDva h % 64 == 0 && hdrDva h < 2 ^ 57 && (bslice h 40 24).all (· == 0)

/-- The accord of a record, if the command's session may name it and it is LIVE (R330). -/
def recordAccord (s : State) (x : Session) (gid : Nat) : Option Nat :=
  let is (a : Nat) : Bool := memberOk s gid a
  match x.world with
  | .tenant => if is x.accord then some x.accord else none
  | .host => match x.fn with
    | some 0 => memberOf s gid
    | some v => ((getVf s v).bound).filter is
    | none => none
  | _ => none

/-- The entry of a bounce session. -/
def bounceEntry (s : State) (a n : Nat) : Option BounceSession := s.hpe.sessions.find? fun e => e.accord == a && e.number == n

/-- Step 1 of R331: the accord, or the code the record is refused with. -/
def recordCheck (s : State) (x : Session) (addr : BitVec 64) (h : Bytes) (out : Bool) : Except Word Nat :=
  if !headerOk h out ∨ addr.toNat % 64 ≠ 0 then .error bncBadHeader
  else if leField h 12 2 ≠ s.chipId then .error bncWrongChip
  else match recordAccord s x (leField h 8 4) with
    | none => .error bncNotPermitted
    | some a => match bounceEntry s a (hdrSession h) with
      | none =>
        if out ∨ hdrSession h < (getAccord s a).bounceNext then .error bncSessionClosed
        else if hdrOut h then .error bncNonceStale else .ok a
      | some e => if hdrOut h ≠ out ∨ hdrCount h ≤ (if out then e.outMark else e.inMark) then .error bncNonceStale else .ok a

/-- BOUNCE key of an accord's session (Table 5.8). -/
def bounceKey (s : State) (a session : Nat) : Option Bytes :=
  (getAccord s a).ctx.map fun c => derive c.heartShared { purpose := 0x40, gid := gidOf s a, index := session }

/-! ## Sessions (R328) -/

/-- The started commands whose record occupies a lane. -/
def activeIds (s : State) : List Nat := s.hpe.active.map (·.2.2)

/-- The header that a bounce command has read, once (R331); empty before. -/
def recordHead (c : Started) : Bytes :=
  match c.wait with
  | .bounce _ _ h _ => h
  | _ => []

/-- The accord that an accepted record names (R331 step 1); a later write of HPE_VF_BIND does not change it (Table 12.7). -/
def acceptedAccord (c : Started) : Option Nat :=
  match c.wait with
  | .bounce _ _ _ a => a
  | _ => none

/-- Accord and session number of every record in progress. -/
def sessionsBusy (s : State) : List (Nat × Nat) :=
  (s.started.filter fun e => (activeIds s).contains e.1).filterMap fun e =>
    (acceptedAccord e.2).map fun a => (a, hdrSession (recordHead e.2))

/-- The IN mark raised; a session without an entry is opened, and takes the least recently used one when all 4,096 are in use. -/
def raiseIn (s : State) (a n count : Nat) : State :=
  let k := s.stamp
  let s := { s with stamp := k + 1 }
  match bounceEntry s a n with
  | some _ =>
    { s with hpe := { s.hpe with sessions := s.hpe.sessions.map fun e =>
        if e.accord = a ∧ e.number = n then { e with inMark := count, lastUse := k } else e } }
  | none =>
    let busy := sessionsBusy s
    let oldest := (s.hpe.sessions.filter fun e => !busy.contains (e.accord, e.number)).foldl
      (fun (b : Option BounceSession) e => match b with
        | none => some e
        | some y => if e.lastUse < y.lastUse then some e else b) none
    let kept := if s.hpe.sessions.length < 4096 then s.hpe.sessions
      else match oldest with
        | some e => s.hpe.sessions.erase e
        | none => s.hpe.sessions
    updAccord { s with hpe := { s.hpe with sessions := kept ++ [{ accord := a, number := n, inMark := count, lastUse := k }] } } a
      fun x => { x with bounceNext := n + 1 }

/-- The OUT mark raised (R332 step 1). -/
def raiseOut (s : State) (a n count : Nat) : State :=
  let k := s.stamp
  { s with stamp := k + 1
           hpe := { s.hpe with sessions := s.hpe.sessions.map fun e =>
             if e.accord = a ∧ e.number = n then { e with outMark := count, lastUse := k } else e } }

/-! ## Translation and access -/

/-- A page of a record translated by OTU 8 (R295, R305): a hit, or a miss whose walk installs its entry at once. (DEDUCED, log entry 23) -/
def recordPage (s : State) (a : Nat) (page : BitVec 57) : State × Except XFault TlbEntry :=
  let hit := (getOtu s 8).tlb.find? fun e => e.accord == a && e.base ≤ page.toNat && page.toNat < e.base + e.size
  match hit with
  | some e => (updOtu s 8 fun t => { t with tlb := e :: t.tlb.erase e, hits := (t.hits + 1) % 2 ^ 32 }, .ok e)
  | none => match translate (updOtu s 8 fun t => { t with missCount := (t.missCount + 1) % 2 ^ 32 }) a 8 page with
    | (s, .ok e) => (installEntry s 8 e, .ok e)
    | (s, .error f) => (s, .error f)

/-- Pages of a DVA range. -/
def rangePages (dva len : Nat) : List Nat :=
  let first := dva / 4096
  (List.range (if len = 0 then 0 else (dva + len + 4095) / 4096 - first)).map fun i => 4096 * (first + i)

/-- Whether a page of a range resolves into the extent that the move engine holds (R337 step 1). -/
def rangeMoves (s : State) (a dva len : Nat) : Bool :=
  s.hpe.moveInv.isSome && (rangePages dva len).any fun page => match (translate s a 8 (BitVec.ofNat 57 page)).2 with
    | .ok e => movesInto s a e
    | .error _ => false

/-- The bricks behind a DVA range at OTU 8: stack, brick, first byte and the byte after the last; none when a page fails R331 step
2. -/
def recordPages (s : State) (a dva len : Nat) (write : Bool) : State × Option (List (Nat × Nat × Nat × Nat)) :=
  (rangePages dva len).foldl
    (fun (x : State × Option (List (Nat × Nat × Nat × Nat))) page => match x.2 with
      | none => x
      | some l =>
        if page ≥ 2 ^ 57 then (x.1, none)
        else
          let at_ := BitVec.ofNat 57 page
          match recordPage x.1 a at_ with
          | (s, .error _) => (s, none)
          | (s, .ok e) =>
            let (chip, st, b, _) := brickAt e at_
            if e.host || chip != s.chipId || (write && !e.writable) then (s, none)
            else (s, some (l ++ [(st, b, if page < dva then dva % 4096 else 0, Nat.min 4096 (dva + len - page))])))
    (s, some [])

/-- The writes of one page (R331 step 3): the whole brick, or whole stretchers and the lines left: operation, offset, size. -/
def pagePieces (lo hi : Nat) : List (MemOp × Nat × Nat) :=
  if lo = 0 ∧ hi = 4096 then [(.writeBrick, 0, 4096)]
  else (List.range 64).filterMap fun l =>
    let off := 64 * l
    let st := off / 256 * 256
    let whole : Bool := lo ≤ st && st + 256 ≤ hi
    if off < lo ∨ hi ≤ off then none
    else if whole then (if off = st then some (.writeStretcher, st, 256) else none)
    else some (.writeLine, off, 64)

/-- Bytes written to the pages of a range, in ascending order, as the accord; the first refusal stops it. -/
def writePages (s : State) (id a : Nat) (pages : List (Nat × Nat × Nat × Nat)) (d : Bytes) : State × Option MemErr :=
  let r := pages.foldl
    (fun (x : State × Option MemErr × Nat) (pg : Nat × Nat × Nat × Nat) =>
      let (n, b, lo, hi) := pg
      let y := (pagePieces lo hi).foldl
        (fun (y : State × Option MemErr) (pc : MemOp × Nat × Nat) =>
          if y.2.isSome then y
          else
            let q : Req := { origin := .command id, accord := a, op := pc.1, stack := n, brick := b, off := pc.2.1
                             mask := BitVec.allOnes 64, data := bslice (d.drop (x.2.2 + pc.2.1 - lo)) 0 pc.2.2 }
            match writeNow y.1 n q with
            | (s, none) => (s, none)
            | (s, some e) => (raiseMem s n q e, some e))
        (x.1, x.2.1)
      (y.1, y.2, x.2.2 + (hi - lo)))
    (s, none, 0)
  (r.1, r.2.1)

/-- Region table entry of a class R region in SEALING that holds a brick. -/
def sealingAt (s : State) (n b : Nat) : Option Nat :=
  match findRegion (getMpe s n) b with
  | some (rt, e) => if e.cls = .r ∧ e.sealState = .sealing then some rt else none
  | none => none

/-- What a failed BOUNCE_IN does to its destination (R331 step 5): zeros, or the sealing of a region in SEALING begun again. -/
def wipePages (s : State) (id a : Nat) (pages : List (Nat × Nat × Nat × Nat)) : State :=
  let sealing := (pages.filterMap fun pg => (sealingAt s pg.1 pg.2.1).map fun rt => (pg.1, rt)).eraseDups
  let s := pages.foldl
    (fun s pg =>
      if (sealingAt s pg.1 pg.2.1).isSome then s
      else (writePages s id a [pg] (zeros 4096)).1) s
  sealing.foldl
    (fun s x =>
      let s := match tget (getMpe s x.1).rt x.2 with
        | some e => updMpe s x.1 fun m => clearLost m fun b => e.base ≤ b && b ≤ e.limit
        | none => s
      startSealing s x.1 x.2) s

/-- The pages of a range read as the accord. -/
def readPages (s : State) (id a : Nat) (pages : List (Nat × Nat × Nat × Nat)) : State × Option Bytes :=
  pages.foldl
    (fun (x : State × Option Bytes) (pg : Nat × Nat × Nat × Nat) => match x.2 with
      | none => x
      | some d => match readBrickBytes x.1 pg.1 pg.2.1 a pg.2.2.1 (pg.2.2.2 - pg.2.2.1) with
        | (s, .ok e) => (s, some (d ++ e))
        | (s, .error e) =>
          (raiseMem s pg.1 { origin := .command id, accord := a, op := .readStretcher, stack := pg.1, brick := pg.2.1 } e, none))
    (s, some [])

/-! ## Running a record -/

/-- A record ended: its lane is free and its command completes; TAG_FAIL and NONCE_STALE count (Table 12.9). -/
def endRecord (s : State) (id : Nat) (code : Word) : State :=
  let h := s.hpe
  let s := { s with hpe := { h with
    active := h.active.filter fun x => x.2.2 != id
    tagFail := if code = bncTagFailed then satAdd 16 h.tagFail 1 else h.tagFail
    nonceStale := if code = bncNonceStale ∨ code = bncSessionClosed then satAdd 16 h.nonceStale 1 else h.nonceStale } }
  if code = 0 then finish s id .ok 0 0 else finish s id .rejected code 0

/-- R331 steps 2 to 5. -/
def runIn (s : State) (id fn a : Nat) (addr : BitVec 64) (h : Bytes) (key : Bytes) : State :=
  let len := hdrLength h
  match recordPages s a (hdrDva h) len true with
  | (s, none) => endRecord s id bncTarget
  | (s, some pages) =>
    let ct := hostRead s fn (addr + 64) len
    let tag := hostRead s fn (addr + BitVec.ofNat 64 (64 + len)) 16
    match writePages s id a pages (gcmCrypt key (hdrNonce h) ct) with
    | (s, some _) => endRecord (wipePages s id a pages) id bncWriteRefused
    | (s, none) =>
      if gcmTag key (hdrNonce h) h ct ≠ tag then endRecord (wipePages s id a pages) id bncTagFailed
      else
        let s := raiseIn s a (hdrSession h) (hdrCount h)
        let s := if leField h 5 1 / 16 % 2 = 1 then addArrival s a (leField h 14 2) len unitHpe 0 else s
        endRecord s id 0

/-- R332 steps 2 to 4. -/
def runOut (s : State) (id fn a : Nat) (addr : BitVec 64) (h : Bytes) (key : Bytes) : State :=
  let len := hdrLength h
  let s := raiseOut s a (hdrSession h) (hdrCount h)
  match recordPages s a (hdrDva h) len false with
  | (s, none) => endRecord s id bncTarget
  | (s, some pages) =>
    let tagAt := addr + BitVec.ofNat 64 (64 + len)
    match readPages s id a pages with
    | (s, none) => endRecord (hostWrite s fn tagAt (zeros 16)) id bncSourceFailed
    | (s, some d) =>
      let ct := gcmCrypt key (hdrNonce h) d
      let s := hostWrite s fn (addr + 64) ct
      endRecord (hostWrite s fn tagAt (gcmTag key (hdrNonce h) h ct)) id 0

/-- Started bounce commands: id, command, direction, ready. -/
def bounceCmds (s : State) : List (Nat × Started × Bool × Bool) :=
  s.started.filterMap fun e => match e.2.wait with
    | .bounce out ready _ _ => some (e.1, e.2, out, ready)
    | _ => none

/-- Whether an earlier record of the same session is still in progress, or one whose header is not known yet (R333). -/
def behindRecord (s : State) (id : Nat) (c : Started) : Bool :=
  let h := recordHead c
  (bounceCmds s).any fun e => e.1 < id &&
    (let g := recordHead e.2.1; g.isEmpty || (hdrSession g == hdrSession h && leField g 8 4 == leField h 8 4))

/-- Free lanes given to waiting records, oldest first; lanes of records that are gone are free (R333). -/
def fillLanes (s : State) : State :=
  let ids := (bounceCmds s).map (·.1)
  let s := { s with hpe := { s.hpe with active := s.hpe.active.filter fun x => ids.contains x.2.2 } }
  (bounceCmds s).foldl
    (fun s e =>
      let out := e.2.2.1
      let used := (s.hpe.active.filter fun x => x.1 == out).map (·.2.1)
      if (activeIds s).contains e.1 then s
      else match (List.range 16).find? fun l => !used.contains l with
        | some l => { s with hpe := { s.hpe with active := s.hpe.active ++ [(out, l, e.1)] } }
        | none => s) s

/-- Step 1 of R331, made once for a record: the accord it was accepted for, or the code it is refused with. One whose accord has left LIVE
since is not permitted. -/
def acceptRecord (s : State) (x : Session) (c : Started) (h : Bytes) (out : Bool) : Except Word Nat :=
  match acceptedAccord c with
  | some a => if memberOk s (leField h 8 4) a then .ok a else .error bncNotPermitted
  | none => recordCheck s x (wd2 c.words 8) h out

/-- Record `id` run, when it has a lane, its header has come and passed step 1, no earlier record of its session runs, and its accord is
resident; one that goes in also when its payload and tag have come. -/
def tryRecord (s : State) (id : Nat) : State :=
  match (bounceCmds s).find? fun e => e.1 == id with
  | none => s
  | some (_, c, out, ready) =>
    let h := recordHead c
    if h.isEmpty ∨ !(activeIds s).contains id ∨ behindRecord s id c then s
    else
      let x := sessionOf s c
      let addr := wd2 c.words 8
      match recordFn s x, acceptRecord s x c h out with
      | none, _ => endRecord s id bncNoFunction
      | _, .error code => endRecord s id code
      | some fn, .ok a =>
        let s := setWait s id (.bounce out ready h (some a))
        if (!out && !ready) || rangeMoves s a (hdrDva h) (hdrLength h) then s
        else
          let s := (makeResident s a).1
          match bounceKey s a (hdrSession h) with
          | none => s
          | some key => if out then runOut s id fn a addr h key else runIn s id fn a addr h key

/-- Records run as far as they can. -/
def runRecords (s : State) : State :=
  (List.range ((bounceCmds s).length + 1)).foldl (fun s _ => ((bounceCmds s).map (·.1)).foldl tryRecord (fillLanes s)) s

/-- A BOUNCE command started (R330, R333): it waits for a lane and for the header. -/
def bounceEff (out : Bool) (_id : Nat) (c : Started) (s : State) : Eff :=
  let x := sessionOf s c
  match recordFn s x with
  | none => .reject bncNoFunction s
  | some v =>
    if v ≠ 0 ∧ (getVf s v).state ≠ .running then .reject bncVfQuiesced s
    else if (wd2 c.words 8).toNat % 64 ≠ 0 then .reject bncBadHeader s
    else .wait (.bounce out false [] none) s

/-- BOUNCE_IN. -/
def execBounceIn (q : Nat) (s : State) : Host.Outcome State Fault Refusal :=
  .next (settleAll (fillLanes (startCommand 0x3A q (bounceEff false) s)))

/-- BOUNCE_OUT. -/
def execBounceOut (q : Nat) (s : State) : Host.Outcome State Fault Refusal :=
  .next (settleAll (fillLanes (startCommand 0x3B q (bounceEff true) s)))

/-- What bytes `lo` to `lo + len` that come back do for a record in a lane: its header is read when their last byte is among them, and its
payload and tag are there when theirs is. -/
def recordCame (s : State) (fn : Nat) (e : Nat × Started × Bool × Bool) (lo len : Nat) : State :=
  let (id, c, out, ready) := e
  let addr := wd2 c.words 8
  let has (i : Nat) : Bool := lo ≤ i && i < lo + len
  if !(activeIds s).contains id ∨ recordFn s (sessionOf s c) ≠ some fn then s
  else
    let old := recordHead c
    let h := if old.isEmpty ∧ has (addr.toNat + 63) then hostRead s fn addr 64 else old
    setWait s id (.bounce out (ready || (!h.isEmpty && has (addr.toNat + 79 + hdrLength h))) h (acceptedAccord c))

/-- PCIE_COMPLETION: host bytes come back; records whose bytes are among them go on (R331, R332). -/
def pcieCompletion (s : State) (fn : Nat) (addr : BitVec 64) (d : Bytes) : State :=
  let s := hostWrite s fn addr d
  runRecords ((bounceCmds s).foldl (fun s e => recordCame s fn e addr.toNat d.length) s)

/-- PCIE_COMPLETION. -/
def execPcieCompletion (fn : Nat) (addr : BitVec 64) (data : Bytes) (s : State) : Host.Outcome State Fault Refusal :=
  if live s ∧ hpeOk s then .next (settleAll (pcieCompletion s fn addr data)) else .next (settle { s with hpe := (hostWrite s fn addr data).hpe })

/-- RECORD_LANE_STALL: no progress on a record for 10 ms starts rung 1 on its lane (R412). -/
def execRecordLaneStall (out : Bool) (lane : Nat) (s : State) : Host.Outcome State Fault Refusal :=
  if live s ∧ (s.hpe.active.any fun x => x.1 == out && x.2.1 == lane) then
    .next (settle { s with frs := { s.frs with due := s.frs.due ++ [.rung1 (.hpeLane out lane)] } })
  else .next s

/-- HOST_DMA: a PCIe access of the HPE ended in error or did not end; for a command's access the fault names the
command (R423). -/
def execHostDma (id : Option Nat) (s : State) : Host.Outcome State Fault Refusal :=
  if running s then
    .next (settle (raise s (match id with
      | some i => { commandFault s 0x80 unitHpe 0 i (((tget s.started i).map fun c => (sessionOf s c).accord).getD 0) 0 with
                    fence := none, fenceCode := none }
      | none => { code := 0x80, unit := unitHpe })))
  else .next s

end Sys2Proof.Machine
end

