-- ==== Sys2Proof/Machine/BaseSlots.lean ====
section
/-! DEFINITION. The base slots of Table 5.2, loaded, derived and drawn (R122, R139, R147, R390). -/

namespace Sys2Proof.Machine

/-- The order of P-384's base point (FIPS 186-5). -/
def p384Order : Nat := 0xFFFFFFFFFFFFFFFFFFFFFFFFFFFFFFFFFFFFFFFFFFFFFFFFC7634D81F4372DDF581A0DB248B0A77AECEC196ACCC52973

/-- A P-384 scalar from 56 bytes by FIPS 186-5 appendix A.2.1. -/
def p384Scalar (b : Bytes) : Bytes := toBE (beNat (b.take 56) % (p384Order - 1) + 1) 48

/-- A base slot filled, if its LCMASK admits the state in force. -/
def putBase (s : State) (i : Nat) (key : Bytes) (masters : BitVec 8) (use : BitVec 7) (lcmask : BitVec 16) : State :=
  if lcAdmits s lcmask then
    { s with slots := tset s.slots i { state := .live, key := key, masters := masters, use := use, lcmask := lcmask } }
  else s

/-- Slots 0 to 4: the roots from OTP, FLACON_KEK and TRIM_MAC. (DESIGN CHOICE, log entry 44) -/
def loadRoots (s : State) : State :=
  let dus := toLE s.otp.dus.toNat 32
  let creator := toLE s.otp.creator.toNat 32
  let s := putBase s 0 dus 0x20 0x04 0x01C0
  let s := putBase s 1 creator 0x20 0x04 0x03E0
  let s := putBase s 2 (toLE s.otp.owner.toNat 32) 0x20 0x04 0x01C0
  let s := putBase s 3 (derive dus { purpose := 0x04 }) 0x20 0x30 0x01C0
  let s := putBase s 4 (derive creator { purpose := 0x05 }) 0x01 0x08 0x03E0
  { s with rootsLoaded := lcAdmits s 0x01C0 || lcAdmits s 0x03E0 }

/-- Slots 6 to 9: the DICE layer keys, and the import keys of the measured firmware; without a measurement only CDI_0.
(DESIGN CHOICE, log entry 44) -/
def loadLayers (s : State) : State :=
  let dus := toLE s.otp.dus.toNat 32
  let ctx := bslice (toBE s.cfg.fwDigest.toNat 48) 0 32
  match lcClass s with
  | none => s
  | some cls =>
    let c0 := cdi0 s cls
    let s := putBase s 6 c0 0x01 0x40 0x03C0
    if s.cfg.recovery then s
    else
      let s := putBase s 7 (cdi1 s c0) 0x01 0x40 0x03C0
      let s := putBase s 8 (p384Scalar (kdf dus (labelBytes { purpose := 0x06 }) ctx 512)) 0x01 0x04 0x00C0
      putBase s 9 (kdf dus (labelBytes { purpose := 0x07 }) ctx 512) 0x01 0x04 0x00C0

/-- Slots 5 and 10 drawn, new at every block start. -/
def drawBase (s : State) : State :=
  let (s, k) := drawBytes s 32
  let s := putBase s 5 k 0x02 0x03 0x03FF
  let (s, h) := drawBytes s 32
  putBase s 10 h 0x20 0x04 0x03FF

end Sys2Proof.Machine
end

