-- ==== Sys2Proof/Machine/Host.lean ====
section
/-! DEFINITION. Host-resident pages (R335, R336), the move engine (R337, R343), the end of invalidations (R312), VF binding and
the changes of a VF's state (R323, R338 to R341), host doorbells and command slots (R321, R324), and the PF queue (R325). -/

namespace Sys2Proof.Machine

/-! ## Host-resident pages -/

/-- First DPA of an accord's host window (R335). -/
def hostWindow : Nat := 0xF000000000000

/-- Stack and region of the accord's shadow region. -/
def shadowRegion (s : State) (a : Nat) : Option (Nat × RtEntry) :=
  (List.range 8).findSome? fun n =>
    ((getMpe s n).rt.find? fun e => e.2.owner == a && e.2.cls == .c && e.2.id == 0xFFFE).map fun e => (n, e.2)

/-- Stack, brick and offset of the shadow entry of the stretcher at DPA `d`, if it lies in the shadow region. -/
def shadowAt (s : State) (a d : Nat) : Option (Nat × Nat × Nat) :=
  match shadowRegion s a with
  | none => none
  | some (n, e) =>
    let o := (d - hostWindow) / 16
    if d < hostWindow ∨ o / 4096 > e.limit - e.base then none else some (n, e.base + o / 4096, o % 4096 / 16 * 16)

/-- Key of an accord's host-resident pages (R336). -/
def hostPageKey (s : State) (a : Nat) : Option Bytes := bounceKey s a 0xFFFF

/-- IV of a host-resident stretcher. -/
def hostPageIv (s : State) (wseq : Nat) : Bytes := toBE s.chipId 2 ++ [0xFF, 0xFF] ++ toBE wseq 8

/-- What reading a host-resident stretcher came to. -/
inductive HostRead
  | ok (data : Bytes) | bad | err (n b : Nat) (e : MemErr)

/-- The stretcher at DPA `d`, held at host address `h` (R336): zeros when its WSEQ is 0, else decrypted when its tag verifies. The
second fetch of R187 reads the same bytes again. (DEDUCED, log entry 23) -/
def readHostStretcher (s : State) (a d : Nat) (h : BitVec 64) : State × HostRead :=
  match shadowAt s a d with
  | none => (s, .bad)
  | some (n, b, off) => match readBrickBytes s n b a off 16 with
    | (s, .error e) => (s, .err n b e)
    | (s, .ok en) =>
      let wseq := leField en 0 8
      if wseq = 0 then (s, .ok (zeros 256))
      else match hostPageKey s a with
        | none => (s, .bad)
        | some key =>
          let ct := hostRead s 0 h 256
          let iv := hostPageIv s wseq
          if (gcmTag key iv (toBE d 8) ct).take 8 = bslice en 8 8 then (s, .ok (gcmCrypt key iv ct)) else (s, .bad)

/-- The stretcher at DPA `d` written: the next WSEQ, the ciphertext to the host, then the shadow entry. -/
def writeHostStretcher (s : State) (o : Origin) (a d : Nat) (h : BitVec 64) (plain : Bytes) : State × Option (Nat × Nat × MemErr) :=
  match shadowAt s a d, hostPageKey s a with
  | some (n, b, off), some key =>
    let wseq := (getAccord s a).hostSeq
    let s := updAccord s a fun x => { x with hostSeq := wseq + 1 }
    let iv := hostPageIv s wseq.toNat
    let ct := gcmCrypt key iv plain
    let s := hostWrite s 0 h ct
    match writeBrickBytes s n b a off (toLE wseq.toNat 8 ++ (gcmTag key iv (toBE d 8) ct).take 8) o with
    | (s, some e) => (s, some (n, b, e))
    | (s, none) => (s, none)
  | _, _ => (s, none)

/-- A counted page's access counter raised, with the hot-page FIFO of R315. -/
def countAccess (s : State) (k : Nat) : State :=
  match tget s.hpe.counters k with
  | none => s
  | some c =>
    let n := satAdd 16 c.count 1
    let h := { s.hpe with counters := tset s.hpe.counters k { c with count := n } }
    let hot : Bool := h.hotThresh != 0 && n == h.hotThresh.toNat && n != c.count
    { s with hpe :=
        if !hot then h
        else if h.hotFifo.length < 64 then { h with hotFifo := h.hotFifo ++ [k] } else { h with hotOverflow := true } }

/-- A request refused by the HPE with a fault. -/
def pageRefuse (s : State) (r : Req) (code fence : BitVec 8) : State :=
  answer (raise s { originFault s r.origin code unitHpe 0 r.accord fence with
    rung := some 2, detail6 := if code = 0x53 then BitVec.ofNat 32 (fld r.dva 31 0) else 0
    detail7 := if code = 0x53 then BitVec.ofNat 32 (fld r.dva 56 32) else 0 }) r (some .lost) []

/-- A read of `len` bytes from offset `off` of a stretcher. -/
def pageRead (s : State) (r : Req) (d : Nat) (h : BitVec 64) (off len : Nat) : State :=
  match readHostStretcher s r.accord d h with
  | (s, .ok x) => answer s r none (bslice x off len)
  | (s, .bad) => pageRefuse s r 0x13 0x06
  | (s, .err n b e) => answer (raiseMem s n { r with brick := b } e) r (some e) []

/-- What the request's stretcher holds after a write of `new` in its place: merged under the mask when it covers less than all. -/
def pageMerge (s : State) (r : Req) (d : Nat) (h : BitVec 64) (off : Nat) : State × HostRead :=
  if r.op = .writeLine then
    match readHostStretcher s r.accord d h with
    | (s, .ok x) => (s, .ok (bput x off (mergeMask (bslice x off 64) r.data r.mask)))
    | y => y
  else (s, .ok (bslice r.data 0 256))

/-- A write of one stretcher. -/
def pageWrite (s : State) (r : Req) (d : Nat) (h : BitVec 64) (off : Nat) : State :=
  match pageMerge s r d h off with
  | (s, .bad) => pageRefuse s r 0x13 0x06
  | (s, .err n b e) => answer (raiseMem s n { r with brick := b } e) r (some e) []
  | (s, .ok x) => match writeHostStretcher s r.origin r.accord d h x with
    | (s, some (n, b, e)) => answer (raiseMem s n { r with brick := b } e) r (some e) []
    | (s, none) => answer s r none []

/-- A write of one brick: its sixteen stretchers in turn; the first refusal ends it. -/
def pageWriteBrick (s : State) (r : Req) (d : Nat) (h : BitVec 64) : State :=
  let x := (List.range 16).foldl
    (fun (x : State × Option (Nat × Nat × MemErr)) i =>
      if x.2.isSome then x
      else writeHostStretcher x.1 r.origin r.accord (d + 256 * i) (h + BitVec.ofNat 64 (256 * i)) (bslice r.data (256 * i) 256))
    (s, none)
  match x with
  | (s, some (n, b, e)) => answer (raiseMem s n { r with brick := b } e) r (some e) []
  | (s, none) => answer s r none []

/-- A request to a host-resident page served (R335, R336). -/
def servePage (s : State) (r : Req) : State :=
  let unitSize := if r.op = .writeBrick then 4096 else 256
  let d := r.dpa.toNat / unitSize * unitSize
  let h := r.haddr - BitVec.ofNat 64 (r.dpa.toNat - d)
  if (shadowAt s r.accord d).isNone ∨ (shadowAt s r.accord (d + unitSize - 1)).isNone then pageRefuse s r 0x53 0x07
  else
    let t := countAccess s r.counter
    match r.op with
    | .readLine => pageRead t r d h (r.dpa.toNat % 256 / 64 * 64) 64
    | .readStretcher => pageRead t r d h 0 256
    | .writeLine => if r.mask = 0 then answer t r none [] else pageWrite t r d h (r.dpa.toNat % 256 / 64 * 64)
    | .writeStretcher => pageWrite t r d h 0
    | .writeBrick => pageWriteBrick t r d h
    | .atomic => pageRefuse s r 0x10 0x0B
    | .reserved => pageRefuse s r 0x10 0x0B

/-- HOST_PAGE_REQUEST: the oldest request at the HPE; in dry-down it is answered ERROR, and while its accord is not resident it
waits (R62). -/
def hostPageRequest (s : State) : State :=
  match s.hpe.pages with
  | [] => s
  | r :: rest =>
    let s' := { s with hpe := { s.hpe with pages := rest } }
    if inDry s then answer s' r (some .lost) []
    else match makeResident s' r.accord with
      | (t, true) => servePage t r
      | (t, false) => { t with hpe := { t.hpe with pages := r :: t.hpe.pages } }

/-- HOST_PAGE_REQUEST. -/
def execHostPageRequest (s : State) : Host.Outcome State Fault Refusal :=
  if running s ∧ (inDry s ∨ hpeOk s) then .next (fabricSettle (hostPageRequest s)) else .next s

/-! ## The move engine (R337, Tables 12.10 and 12.11) -/

/-- First DPA of the page that the move registers name. -/
def moveBase (s : State) : Nat := fld s.hpe.moveDpa 30 0 * 2 ^ 21

/-- The host extent to be moved: 512 pages from the named DPA. -/
def moveExtent (s : State) : Option Extent :=
  s.extents.find? fun x => x.gid == s.hpe.moveGid && x.host && x.base == moveBase s && x.pages == 512

/-- Whether the 512 destination bricks lie in one class C or S region of accord `a`. -/
def moveDestOk (s : State) (a : Nat) : Bool :=
  let b := fld s.hpe.moveDest 23 0
  b % 512 == 0 && b + 511 ≤ maxBrick && (getMpe s (fld s.hpe.moveDest 26 24)).rt.any fun e =>
    e.2.owner == a && e.2.cls != .r && e.2.base ≤ b && b + 511 ≤ e.2.limit

/-- A move ended: DONE, its code and its count of zeroed stretchers (R343). -/
def moveEnd (s : State) (code : BitVec 8) (integ : Nat) : State :=
  { s with hpe := { s.hpe with moveBusy := false, moveDone := true, moveCode := code, moveInteg := integ, moveInv := none } }

/-- HPE_MOVE_CTRL.GO: the checks of Table 12.6, then the invalidation of step 2. (DEDUCED, log entry 23) -/
def moveGo (s : State) : State :=
  if s.hpe.moveBusy then s
  else match memberOf s s.hpe.moveGid.toNat with
    | none => moveEnd s 0x03 0
    | some a =>
      if (moveExtent s).isNone then moveEnd s 0x01 0
      else if !moveDestOk s a then moveEnd s 0x02 0
      else
        let (s, i) := startInvalidation s a (rootOtus s a) none none none []
        { s with hpe := { s.hpe with moveBusy := true, moveInv := some i } }

/-- MOVE: a write of HPE_MOVE_CTRL by ROOT or HOST (R342). -/
def execMove (w : World) (value : BitVec 32) (s : State) : Host.Outcome State Fault Refusal :=
  if running s ∧ bit value 0 ∧ (w = .root ∨ w = .host) then .next (settleAll (moveGo s)) else .next s

/-- Step 3: the 8,192 stretchers copied; the number written as zeros. -/
def moveCopy (s : State) (a n dest : Nat) (x : Extent) : State × Nat :=
  (List.range 8192).foldl
    (fun (y : State × Nat) i =>
      let d := x.base + 256 * i
      let (s, data, bad) := match readHostStretcher y.1 a d (x.target + BitVec.ofNat 64 (256 * i)) with
        | (s, .ok p) => (s, p, 0)
        | (s, _) => (s, zeros 256, 1)
      let q : Req := { origin := .block, accord := a, op := .writeStretcher, stack := n, brick := dest + i / 16, off := i % 16 * 256
                       mask := BitVec.allOnes 64, data := data }
      match writeNow s n q with
      | (s, none) => (s, y.2 + bad)
      | (s, some e) => (raiseMem s n q e, y.2 + bad))
    (s, 0)

/-- The shadow entries of a 2 MiB page zeroed: 32 bricks. -/
def moveClearShadow (s : State) (a : Nat) (x : Extent) : State :=
  (List.range 32).foldl
    (fun s i => match shadowAt s a (x.base + 65536 * i) with
      | none => s
      | some (n, b, _) =>
        let q : Req := { origin := .block, accord := a, op := .writeBrick, stack := n, brick := b, mask := BitVec.allOnes 64
                         data := zeros 4096 }
        match writeNow s n q with
        | (s, none) => s
        | (s, some e) => raiseMem s n q e)
    s

/-- The misses of accord `a` that the move held, answered under the new extent. -/
def moveRelease (s : State) (a : Nat) : State :=
  (List.range 9).foldl
    (fun s o => ((getOtu s o).misses.filter fun m => m.2.accord == a && m.2.moveHeld).foldl
      (fun s m => match translate s a o (BitVec.ofNat 57 (4096 * m.2.page)) with
        | (s, .ok e) => m.2.waiting.foldl (fun s r => throughEntry s o r e) (freeMiss (installEntry s o e) o m.1)
        | (s, .error f) => m.2.waiting.foldl (fun s r => xlateFault s o r f) (freeMiss s o m.1)) s) s

/-- Steps 3 to 5, once the move's invalidation is complete. (DEDUCED, log entry 23) -/
def moveFinish (s : State) : State :=
  match memberOf s s.hpe.moveGid.toNat, moveExtent s with
  | some a, some x =>
    let n := fld s.hpe.moveDest 26 24
    let dest := fld s.hpe.moveDest 23 0
    let (s, integ) := moveCopy s a n dest x
    let brick : Extent := { x with host := false, counters := []
                                   target := BitVec.ofNat 64 (s.chipId % 2 ^ 16 * 2 ^ 48 + n * 2 ^ 45 + dest * 2 ^ 21) }
    let s := { s with extents := s.extents.map fun y => if y = x then brick else y
                      hpe := { s.hpe with counters := s.hpe.counters.filter fun c => !x.counters.contains c.1 } }
    moveRelease (moveEnd (moveClearShadow s a x) 0x00 integ) a
  | _, _ => moveEnd s 0x03 0

/-- The block with the accord of the move that waits for invalidation `id` made resident; none while that has to wait (R62). -/
def moveReady (s : State) (id : Nat) : State × Bool :=
  match (if s.hpe.moveInv = some id then memberOf s s.hpe.moveGid.toNat else none) with
  | none => (s, true)
  | some a => makeResident s a

/-- INVALIDATION_DRAINED: invalidation `id` has nothing left to wait for (R304, R312, R314). -/
def invalidationDrained (s : State) (id : Nat) : State :=
  match tget s.invalidations id with
  | none => s
  | some x =>
    if !drainedInvalidation s x then s
    else if !(moveReady s id).2 then (moveReady s id).1
    else
      let s := (moveReady s id).1
      let s := { s with invalidations := tdel s.invalidations id
                        hpe := { s.hpe with counters := s.hpe.counters.filter fun c => !x.counters.contains c.1 } }
      let s := finishOpt s x.cmd .ok 0 0
      let s := match x.fence with
        | some f => fenceSignal s f 1 true
        | none => s
      advanceAccords (if s.hpe.moveInv = some id then moveFinish s else s)

/-- INVALIDATION_DRAINED. -/
def execInvalidationDrained (id : Nat) (s : State) : Host.Outcome State Fault Refusal :=
  if live s then .next (fabricSettle (runRecords (invalidationDrained s id))) else .next s

/-- ACCORD_RESIDENT: what waited for the accord at the MPEs and the HPE goes on (R62). -/
def execAccordResident (a : Nat) (s : State) : Host.Outcome State Fault Refusal :=
  if running s then .next (settleAll (runRecords (advanceAccords (accordResident s a)))) else .next s

/-! ## Virtual functions -/

/-- The VF that a world's HPE_VF_SEL selects. -/
def selectedVf (s : State) (w : World) : Nat := (tgetD s.sels (worldNum w * 2 ^ 24 + 0x100024) 0).toNat % 64

/-- A write of HPE_VF_BIND (R323): it binds the selected VF, or clears the binding. (DEDUCED, log entry 52) -/
def vfBind (s : State) (w : World) (value : BitVec 32) : State :=
  let v := selectedVf s w
  let a := fld value 9 0
  if v = 0 ∨ (getAccord s a).state ≠ .live then s
  else updVf s v fun x => { x with bound := if bit value 31 then some a else none, accord := a }

/-- VF_BIND. -/
def execVfBind (w : World) (value : BitVec 32) (s : State) : Host.Outcome State Fault Refusal :=
  if running s ∧ (w = .root ∨ w = .host) then .next (settle (vfBind s w value)) else .next s

/-- VF_QUIESCE (R339). -/
def vfQuiesceEff (_id : Nat) (c : Started) (s : State) : Eff :=
  let v := fld (wd c.words 8) 5 0
  if v = 0 then .fail .badOperand s
  else .wait (.vfQuiesce v) (updVf s v fun x => { x with state := .quiescing })

/-- VF_QUIESCE. -/
def execVfQuiesce (q : Nat) (s : State) : Host.Outcome State Fault Refusal := runCommand 0x3C q vfQuiesceEff s

/-- The messages held for a VF sent (R339). -/
def releaseMsix (s : State) (v : Nat) : State :=
  { s with bec := { s.bec with msix := s.bec.msix ++ s.bec.msixPending.filter (fun m => m.1 == v)
                               msixPending := s.bec.msixPending.filter fun m => m.1 != v } }

/-- VF_RESUME (R339). (DEDUCED, log entry 23) -/
def vfResumeEff (_id : Nat) (c : Started) (s : State) : Eff :=
  let v := fld (wd c.words 8) 5 0
  if v = 0 then .fail .badOperand s else .good (releaseMsix (updVf s v fun x => { x with state := .running }) v)

/-- VF_RESUME. -/
def execVfResume (q : Nat) (s : State) : Host.Outcome State Fault Refusal := runCommand 0x3D q vfResumeEff s

/-- Host bytes of one function, as `old` holds them, put back: what an aborted function would have written is dropped
(R341). (DESIGN CHOICE, log entry 46) -/
def keepHostOf (old s : State) (fn : Nat) : State :=
  let mine (c : Nat × Byte) : Bool := fn * 2 ^ 64 ≤ c.1 && c.1 < (fn + 1) * 2 ^ 64
  let below := s.hpe.mem.filter fun c => c.1 < fn * 2 ^ 64
  let above := s.hpe.mem.filter fun c => (fn + 1) * 2 ^ 64 ≤ c.1
  { s with hpe := { s.hpe with mem := below ++ old.hpe.mem.filter mine ++ above } }

/-- The sessions a function owns are aborted (R116); session 2 stays. -/
def abortFunction (s : State) (fn : Nat) : State :=
  let ids := (s.sessions.filter fun e => e.2.fn == some fn && 3 ≤ e.1).map (·.1)
  ids.foldl killSession s

/-- Bounce records of a function ended ABORTED (R341). (DESIGN CHOICE, log entry 46) -/
def abortRecords (s : State) (fn : Nat) : State :=
  let ids := (s.started.filter fun e => recordOf s fn e.2).map (·.1)
  fillLanes (ids.foldl (fun s id => finish s id .aborted 0 0) s)

/-- A function page and MSI-X table reset; a VF is RUNNING again (R340). -/
def resetFunction (s : State) (fn : Nat) : State :=
  let s := { s with bec := { s.bec with msixPending := s.bec.msixPending.filter fun m => m.1 != fn } }
  if fn = 0 then s else updVf s fn fun x => { x with state := .running }

/-- One function reset (R340, R341): while it is not QUIESCED its records end and its host writes are dropped. -/
def flrOne (s : State) (fn : Nat) : State :=
  if fn ≠ 0 ∧ (getVf s fn).state = .quiesced then resetFunction (abortFunction s fn) fn
  else resetFunction (keepHostOf s (abortFunction (abortRecords s fn) fn) fn) fn

/-- FLR_ABORT raised when one of the functions is not QUIESCED. (DEDUCED, log entry 23) -/
def flrFault (old s : State) (fns : List Nat) : State :=
  if fns.any fun f => f == 0 || (getVf old f).state != .quiesced then raise s { code := 0x81, unit := unitHpe } else s

/-- FLR of a function; of the PF, of every function, with the PF queue disabled. -/
def flr (s : State) (fn : Nat) : State :=
  let fns := if fn = 0 then List.range 64 else [fn]
  let t := fns.foldl flrOne s
  let t := if fn = 0 then { t with hpe := { t.hpe with pfqEnable := false } } else t
  flrFault s t [fn]

/-- FLR. -/
def execFlr (fn : Nat) (s : State) : Host.Outcome State Fault Refusal :=
  if running s ∧ fn < 64 then .next (settleAll (runRecords (flr s fn))) else .next s

/-- VF_DISABLE: NumVFs written (zero: VF Enable cleared); the VFs above it are reset as by FLR (R341). -/
def vfDisable (s : State) (n : Nat) : State :=
  let old := s.hpe.numVfs
  let fns := (List.range 64).filter fun v => n < v && v ≤ old
  let t := fns.foldl flrOne s
  flrFault s { t with hpe := { t.hpe with numVfs := Nat.min n 63 } } fns

/-- VF_DISABLE. -/
def execVfDisable (numVfs : Nat) (s : State) : Host.Outcome State Fault Refusal :=
  if running s then .next (settleAll (runRecords (vfDisable s numVfs))) else .next s

/-! ## Doorbells and slots of the function pages -/

/-- Whether a doorbell of function `fn` for queue `q` is accepted (R324). -/
def hostDoorbellOk (s : State) (fn q : Nat) : Bool :=
  match tget s.queues q with
  | none => false
  | some x =>
    let own : Bool := x.space == .host && (tget s.sessions x.session).any fun e => e.fn == some fn
    let primary : Bool := match (if fn = 0 then none else (getVf s fn).bound) with
      | some a => (getAccord s a).primary == some x.session && (tget s.sessions x.session).any (·.primary)
      | none => false
    own || primary

/-- HOST_DOORBELL applied: discarded in dry-down, while the HPE is out of service and while the VF is not RUNNING. (DEDUCED, log
entry 23) -/
def hostDoorbell (s : State) (fn : Nat) (w : Word) : State :=
  let q := fld w 9 0
  if inDry s ∨ !hpeOk s ∨ (fn ≠ 0 ∧ (getVf s fn).state ≠ .running) then s
  else if hostDoorbellOk s fn q then
    { s with queues := tupd s.queues q fun x => { x with tail := fld w 31 16 % 2 ^ x.log2 } }
  else { s with foreignDb := satAdd 8 s.foreignDb 1 }

/-- HOST_DOORBELL: a store that finds the islands asleep is kept and wakes the block (R442). -/
def execHostDoorbell (fn : Nat) (word : BitVec 32) (s : State) : Host.Outcome State Fault Refusal :=
  if fn ≥ 64 then .next s
  else if running s then .next (settle (hostDoorbell (takeWake s noSource) fn word))
  else if s.up ∧ s.dbg.stop = .running then
    .next (settle (takeWake { s with pwr := { s.pwr with wokenHost := s.pwr.wokenHost ++ [(fn, word)] } } noSource))
  else .next s

/-- The primary queue of an accord. -/
def primaryQueue (s : State) (a : Nat) : Option Nat := ((getAccord s a).primary.bind fun i => (queuesOf s i).head?)

/-- What a 32-bit load from the page of function `fn` returns (Table 12.2): the 64 completion entries, the head and the index of the
bound accord's primary queue; zero at every other offset, and while the VF is not bound. -/
def functionPageLoad (s : State) (fn off : Nat) : Word :=
  match (getVf s fn).bound.bind (primaryQueue s) with
  | none => 0
  | some q =>
    let x := tget s.queues q
    if fn = 0 ∨ off % 4 ≠ 0 then 0
    else if 0x2000 ≤ off ∧ off < 0x2400 then
      wd ((x.bind fun x => tget x.entries ((off - 0x2000) / 16)).getD []) (off % 16 / 4)
    else if off = 0x2400 then pack [((x.map (·.head)).getD 0 % 65536, 16), (q % 1024, 0)]
    else 0

/-- VF_COMMAND_SLOT_WRITE: 64 B stored to a command slot of the bound accord's primary queue (R321). -/
def vfSlotWrite (s : State) (vf slot : Nat) (words : List Word) : State :=
  match (getVf s vf).bound.bind (primaryQueue s) with
  | none => s
  | some q => { s with queues := tupd s.queues q fun x => { x with slots := tset x.slots slot ((List.range 16).map (wd words)) } }

/-- VF_COMMAND_SLOT_WRITE; ignored in B2 and B3 (R442). -/
def execVfCommandSlotWrite (vf slot : Nat) (words : List Word) (s : State) : Host.Outcome State Fault Refusal :=
  if s.up ∧ s.dbg.stop = .running ∧ s.pwr.current ≤ 1 ∧ 1 ≤ vf ∧ vf < 64 ∧ slot < 64 then .next (settle (vfSlotWrite s vf slot words))
  else .next s

/-! ## The PF queue (R325) -/

/-- A write of HPE_PFQ_CTRL; LOG2 changes only while ENABLE is clear, and ENABLE set starts the queue. (DEDUCED, log entry 23) -/
def pfqWrite (s : State) (value : BitVec 32) : State :=
  let h := s.hpe
  let n := fld value 4 0
  let log2 := if !h.pfqEnable ∧ 4 ≤ n ∧ n ≤ 16 then n else h.pfqLog2
  let s := { s with hpe := { h with pfqLog2 := log2, pfqEnable := bit value 31 } }
  if bit value 31 ∧ !h.pfqEnable then
    { s with queues := tupd s.queues 2 fun q =>
        { q with head := 0, tail := 0, ring := h.pfqRing, cpl := h.pfqCpl, log2 := log2, cplIndex := 0, cplPhase := true } }
  else s

/-- PFQ_ENABLE. -/
def execPfqEnable (w : World) (value : BitVec 32) (s : State) : Host.Outcome State Fault Refusal :=
  if running s ∧ (w = .root ∨ w = .host) then .next (settle (pfqWrite s value)) else .next s

end Sys2Proof.Machine
end

