-- ==== Sys2Proof/Machine/Recover.lean ====
section
/-! DEFINITION. The FRS (R405 to R422): accepting faults, the fault queue, the rungs; block reset (R414), dry-down (R425 to R429),
the fault record (R429), and the commands and events that lead there. -/

namespace Sys2Proof.Machine

/-! ## The fault record (Table 16.7) -/

/-- The record of an event of a kind. -/
def recordBytesOf (s : State) (kind : Nat) (entry : List Word) : Bytes :=
  toLE 0x44524346 4 ++ [0x01] ++ toLE kind 1 ++ toLE s.lcc.state 1 ++ [0] ++ toLE s.aon.time.toNat 8 ++ toLE s.frs.resetCount 4
    ++ zeros 12 ++ bslice (bytesOf entry) 0 32

/-- KIND of the record in place. -/
def recordKind (s : State) : Nat := leField s.frs.record 5 1

/-- The record written; none replaces one of KIND dry-down (R429). -/
def writeRecord (s : State) (kind : Nat) (entry : List Word) : State :=
  if recordKind s = 4 then s else { s with frs := { s.frs with record := recordBytesOf s kind entry } }

/-! ## The fault queue (R419 to R421) -/

/-- One 32 B entry mirrored to the ring (R420). -/
def mirrorEntry (s : State) (i : Nat) (e : List Word) : State :=
  if !s.frs.ringEnable then s
  else
    let a := s.frs.ring + BitVec.ofNat 64 (32 * i)
    if s.frs.ringSpace = 0 then (writeAt s .hub 0 0 a (bytesOf e) .block).1
    else if s.frs.ringSpace = 1 then (writeAt s .host 0 0 a (bytesOf e) .block).1
    else s

/-- Class of a fault code (R421). -/
def faultClass (code : BitVec 8) : Nat :=
  let n := code.toNat
  if n < 0x10 then 0 else if n < 0x30 then 1 else if n < 0x40 then 2 else if n < 0x50 then 3 else if n < 0x60 then 4
  else if n < 0x70 then 5 else if n < 0x80 then 6 else 7

/-- Context ID of a fault (R421). -/
def contextId (s : State) (f : Raised) : Word :=
  match f.session with
  | some i => handle s { type := .session, index := i }
  | none => 0xF0000000 + BitVec.ofNat 32 f.accord

/-- A fault that finds the queue full, counted (R421). -/
def countLost (s : State) (f : Raised) : State :=
  let r := s.frs
  let c := contextId s f
  let k := faultClass f.code
  { s with frs := { r with
    lostClass := (List.range 8).map fun i => if i = k then satAdd 16 ((r.lostClass[i]?).getD 0) 1 else (r.lostClass[i]?).getD 0
    lostTotal := satAdd 32 r.lostTotal 1
    lostLast := c
    lostFirst := if r.lostFirst = 0 then c else r.lostFirst
    lostMap := match f.session with
      | some i => if r.lostMap.contains i then r.lostMap else r.lostMap ++ [i]
      | none => r.lostMap } }

/-- An ordinary entry written at TAIL, or the fault counted as lost. -/
def recordFault (s : State) (f : Raised) (rung : Option Nat) : State :=
  let r := s.frs
  if r.entries.length ≥ 255 then countLost s f
  else
    let e := faultEntry s f rung r.phase
    let next := if r.tail + 1 = 255 then 0 else r.tail + 1
    mirrorEntry { s with frs := { r with entries := tset r.entries r.tail e, tail := next
                                         phase := if r.tail + 1 = 255 then !r.phase else r.phase } } r.tail e

/-- The words of entry 255 (Table 16.5). -/
def overflowWords (phase : Bool) (o : Word × Word × Nat × List Nat) : List Word :=
  let cls (i : Nat) : Nat := (o.2.2.2[i]?).getD 0
  [pack [(b2n phase, 31), (0xFF, 0)], o.1, o.2.1, BitVec.ofNat 32 o.2.2.1]
    ++ (List.range 4).map fun k => pack [(cls (2 * k + 1), 16), (cls (2 * k), 0)]

/-- The counts of lost faults moved into entry 255 (R421). -/
def moveLost (s : State) : State :=
  let r := s.frs
  if r.lostTotal = 0 then s
  else
    let o : Word × Word × Nat × List Nat := match r.overflow with
      | none => (r.lostFirst, r.lostLast, r.lostTotal, r.lostClass)
      | some o => (o.1, r.lostLast, satAdd 32 o.2.2.1 r.lostTotal
        , (List.range 8).map fun i => satAdd 16 ((o.2.2.2[i]?).getD 0) ((r.lostClass[i]?).getD 0))
    let phase := if r.overflow.isNone then !r.ovPhase else r.ovPhase
    mirrorEntry { s with frs := { r with overflow := some o, ovPhase := phase, lostFirst := 0, lostLast := 0, lostTotal := 0
                                         lostClass := List.replicate 8 0 } } 255 (overflowWords phase o)

/-- Distance of index `i` from the ring head. -/
def ringDist (s : State) (i : Nat) : Nat := (i + 255 - s.frs.head) % 255

/-- FAULT_ACK (R420). -/
def faultAckEff (_id : Nat) (c : Started) (s : State) : Eff :=
  let i := (wd c.words 8).toNat
  if i = 255 then
    if s.frs.overflow.isSome then .good { s with frs := { s.frs with overflow := none } } else .fail .badOperand s
  else if (tget s.frs.entries i).isNone then .fail .badOperand s
  else
    let d := ringDist s i
    let kept := s.frs.entries.filter fun e => d < ringDist s e.1
    .good (moveLost { s with frs := { s.frs with entries := kept, head := if i + 1 = 255 then 0 else i + 1 } })

/-- FAULT_ACK. -/
def execFaultAck (q : Nat) (s : State) : Host.Outcome State Fault Refusal := runCommand 0x49 q faultAckEff s

/-! ## Choosing a rung (R410) -/

/-- Tenant accords with a channel of stack `n`. -/
def accordsOfStack (s : State) (n : Nat) : List Nat :=
  (s.accords.filter fun a => a.1 ≥ 2 && a.2.state != .free
    && s.channels.any fun c => c.1 / 32 == n && c.2.owners.contains a.1).map (·.1)

/-- The rungs that a fault takes, and the number its entry reports. (DEDUCED, log entry 36) -/
def chooseRung (s : State) (f : Raised) : Option Nat × List Due :=
  let entry := faultEntry s f f.rung false
  let world := (f.session.bind (tget s.sessions ·)).map (·.world)
  match f.rung with
  | none => (none, [])
  | some 0 => match f.session with
    | some i => (some 0, [.rung0 i])
    | none => (none, [])
  | some 1 => match f.ref with
    | some u => (some 1, [.rung1 u])
    | none => (none, [])
  | some 2 =>
    if f.code = 0x1B ∧ f.unit = unitMpe then (some 2, (accordsOfStack s f.inst).map .rung2)
    else match f.session, world with
      | some i, some w =>
        if w ≠ .tenant ∨ f.accord < 2 then (some 0, [.rung0 i]) else (some 2, [.rung2 f.accord])
      | _, _ => if f.accord < 2 then (none, []) else (some 2, [.rung2 f.accord])
  | some 3 => (some 3, [.rung3 entry])
  | some 4 => (some 4, [.rung4 entry])
  | some _ => (some 5, [.rung5 entry])

/-! ## Zeroization and the end of a grant -/

/-- Key commands in flight end ABORTED (Table 5.10). -/
def abortKeyCommands (s : State) : State :=
  ((s.started.filter fun e => 0x28 ≤ opOf e.2.words && opOf e.2.words ≤ 0x2C).map (·.1)).foldl
    (fun s id => finish s id .aborted 0 0) s

/-- R147 on ZEROIZE_ALL and at dry-down entry: slots 16 to 255, the context cache and the engine keys; the GCE's jobs
end (R354). -/
def zeroizeAll (s : State) : State :=
  let s := abortJobs (abortKeyCommands (zeroizeKeys s))
  { s with bonds := tmap s.bonds fun _ b =>
      { b with root := [], rxRoot := [], nextRoot := none, oldRx := none, oldTx := none } }

/-- The watches that run end ABORTED (R379). -/
def abortWatches (s : State) : State :=
  let ids := (s.started.filter fun e => e.2.wait == .watch).map (·.1)
  ids.foldl (fun s id => finish s id .aborted 0 0) { s with dbg := { s.dbg with holding := none } }

/-- A debug grant ends (R379): its session is aborted, its watch ends, and a stopped block goes on unless a scan has run. -/
def endGrant (s : State) : State :=
  match s.dbg.grant with
  | none => s
  | some g =>
    let s := haltSession (abortWatches s) g.session
    { s with dbg := { s.dbg with grant := none
                                 stop := if s.dbg.stop = .scanned then .scanned else .running } }

/-- POWER_STATE commands that wait for the return to B0 (R441). -/
def endSleep (s : State) (source : Nat) : State :=
  let ids := (s.started.filter fun e => match e.2.wait with
    | .wakeUp _ => true
    | _ => false).map (·.1)
  ids.foldl (fun s id => finish s id .ok 0 (pack [(source, 16), (s.pwr.last, 0)])) s

/-! ## Dry-down (R425, R426) -/

/-- Every port DISABLED and every stream gone: what they held is answered ERROR. -/
def dryPorts (s : State) : State :=
  s.ports.foldl
    (fun s p =>
      let lost := portReqs p.2
      let s := updPort s p.1 fun x => { x with streams := [], tx := [], heldReqs := [], gwIn := [], gwOpen := [], gwSent := [], egress := [] }
      let s := setPortState s p.1 .disabled
      lost.foldl (fun s r => answer s r (some .lost) []) s) s

/-- Every bounce record in progress ends ABORTED. -/
def dryRecords (s : State) : State :=
  let s := ((bounceCmds s).map (·.1)).foldl (fun s id => finish s id .aborted 0 0) s
  { s with hpe := { s.hpe with active := [] } }

/-- BLOCK_RESET attached to every fence that `f` selects (R414, R426); one already in ERROR counts it. -/
def failAllFences (s : State) (f : Fence → Bool) : State :=
  let s := applyFences s
  applyFences ((s.fences.filter fun e => f e.2).foldl (fun s e => frsFenceError s e.1 0x0E) s)

/-- Dry-down wakes the block to B0 over the wires of R21 (R442); after B3 the KSF derives its base slots again (R147). -/
def dryWake (s : State) : State :=
  let s := if s.pwr.current = 3 ∨ s.pwr.entering = some 3 then loadLayers (loadRoots s) else s
  endSleep { s with pwr := { s.pwr with current := 0, entering := none, entry := none, vidReq := none, waking := none
                                        vid := vidCode s 0 } } 0x1FF

/-- Dry-down entered for a cause, once. (DEDUCED, log entry 14) -/
def enterDry (s : State) (code : BitVec 8) (unit : BitVec 4) : State :=
  if inDry s then s
  else
    let f : Raised := { code := code, unit := unit }
    let entry := faultEntry s f none false
    let s := raise s f
    let s := { s with frs := { s.frs with dryDown := some code, due := [] } }
    let s := endGrant s
    let s := { s with dbg := { s.dbg with stop := .running } }
    let s := dryWake s
    let s := dryRecords (dryPorts (zeroizeAll s))
    failAllFences (writeRecord s 4 entry) fun _ => true

/-! ## FAULT_ACCEPT -/

/-- A rung that falls into one under way is absorbed (R417). -/
def absorbed (s : State) (d : Due) : Bool :=
  match d with
  | .rung0 i => (tget s.sessions i).any fun x => x.world == .tenant && (getAccord s x.accord).state == .retiring
  | .rung2 a => (getAccord s a).state == .retiring
  | _ => false

/-- The fault attached to its fence (R408). (DEDUCED, log entry 36) -/
def attachFault (s : State) (f : Raised) : State :=
  match f.fence, f.fenceCode with
  | some i, some c => frsFenceError s i c
  | _, _ => s

/-- A capstone failure noted; the second stack's takes the block into dry-down (R209, R425). (DEDUCED, log entry 36) -/
def noteCapstone (s : State) (f : Raised) : State :=
  if f.code = 0x1B ∧ f.unit = unitMpe ∧ !s.frs.capFailed.contains f.inst then
    let s := { s with frs := { s.frs with capFailed := s.frs.capFailed ++ [f.inst] } }
    if s.frs.capFailed.length ≥ 2 then enterDry s 0x7A unitAon else s
  else s

/-- One fault accepted: attached, recorded, and its rung chosen (R407 to R410, R417, R419 to R422). (DEDUCED, log entry 36) -/
def acceptFault (s : State) (f : Raised) : State :=
  let s := attachFault s f
  let (n, ds) := chooseRung s f
  let s := recordFault s f n
  let ds := ds.filter fun d => !absorbed s d
  noteCapstone { s with frs := { s.frs with due := s.frs.due ++ ds } } f

/-- Index of the source of a fault (R417): the command processor, the stamp units, the MPEs, the LPE ports, the HPE, the mortar
switches, the always-on island. An OTU counts with the ports of its die, OTU 8 with the HPE. (DESIGN CHOICE, log entry 91) -/
def faultSource (f : Raised) : Nat :=
  match f.unit.toNat with
  | 0 => 0
  | 4 => 1 + f.inst % 16
  | 1 => 17 + f.inst % 8
  | 2 => 25 + f.inst % 32
  | 3 => 57
  | 5 => 58 + f.inst % 64
  | 7 => if f.inst < 8 then 25 + 4 * f.inst else 57
  | _ => 127

/-- How far the source of a fault stands behind the first source of the rotation. -/
def faultDist (s : State) (f : Raised) : Nat := (faultSource f + 128 - s.frs.turn) % 128

/-- The fault that the FRS accepts next (R417): of those that wait, one whose source comes first in the rotation, the oldest of
that source. -/
def nextFault (s : State) : Option Raised :=
  s.frs.raised.foldl
    (fun x f => match x with
      | none => some f
      | some g => if faultDist s f < faultDist s g then some f else some g) none

/-- That fault taken from those that wait; its source is put last in the rotation. (DESIGN CHOICE, log entry 91) -/
def takeFault (s : State) (f : Raised) : State :=
  { s with frs := { s.frs with raised := s.frs.raised.erase f, turn := (faultSource f + 1) % 128 } }

/-- FAULT_ACCEPT: one hub cycle of the FRS (R417). -/
def execFaultAccept (s : State) : Host.Outcome State Fault Refusal :=
  match nextFault s with
  | none => .next s
  | some f => if s.up then .next (settleAll (acceptFault (takeFault s f) f)) else .next s

/-! ## Rungs 0 to 2 -/

/-- Rung 0 on a session (R411): the fixed and primary sessions only lose what they have not started. (DEDUCED, log entry 36) -/
def runRung0 (s : State) (i : Nat) : State :=
  match tget s.sessions i with
  | none => s
  | some x =>
    if i < 3 ∨ x.primary then (queuesOf s i).foldl stopQueue s
    else haltSession { s with frs := { s.frs with active := s.frs.active ++ [.rung0 i] } } i

/-- A request discarded by rung 1: answered ERROR, its fence into ERROR with ENGINE_RESET, and its core group marked (R412). -/
def discardReq (s : State) (r : Req) : State :=
  let s := answer s r (some .lane) []
  let attach (s : State) (f : Option Nat) : State := match f with
    | some i => frsFenceError s i 0x0C
    | none => s
  match r.origin with
  | .core cg _ =>
    let f := ((getCore s cg).session.bind (tget s.sessions ·)).bind (·.faultFence)
    updCore (attach s f) cg fun c => { c with localMark := true }
  | .command id => attach s (commandFault s 0 unitMpe 0 id 0 0).fence
  | _ => s

/-- The reads of an MPE that pass a lane group: which those are is open, one free choice for each. (DEDUCED, log entry 50) -/
def groupReads (s : State) (m : Nat) : State × List Nat :=
  (getMpe s m).reads.foldl
    (fun (x : State × List Nat) e => let (s, k) := drawNat x.1; (s, if k % 2 = 1 then x.2 ++ [e.1] else x.2)) (s, [])

/-- Rung 1 on an MPE lane group: its reads are discarded; fills among them give their entries up. (DEDUCED, log entry 50) -/
def resetLaneGroup (s : State) (m g : Nat) : State :=
  let (s, ids) := groupReads s m
  let s := ids.foldl
    (fun s rid => match tget (getMpe s m).reads rid with
      | none => s
      | some r =>
        let s := updMpe s m fun x => { x with reads := tdel x.reads rid }
        match r.fill with
        | none => discardReq s r.req
        | some st =>
          let waiting := ((storeEntry s m st).map (·.waiting)).getD []
          waiting.foldl discardReq (updMpe s m fun x => { x with store := tdel x.store st })) s
  updMpe s m fun x => { x with resetGroups := if x.resetGroups.contains g then x.resetGroups else x.resetGroups ++ [g] }

/-- Rung 1 on a port: it is DRAINING while its streams FAIL (Tables 9.1 and 9.6), what it had built is gone, and it goes on in the state it
had. (DESIGN CHOICE, log entry 50) -/
def resetPort (s : State) (p : Nat) : State :=
  let st := (getPort s p).state
  let s := setPortState s p .draining
  let s := (streamsWhere s fun q _ => q == p).foldl (fun s pe => failStream s pe.1 pe.2) s
  setPortState (updPort s p fun x => { x with egress := [] }) p st

/-- Rung 1 on a record lane: its record ends ABORTED, and the lane is marked. -/
def resetHpeLane (s : State) (out : Bool) (lane : Nat) : State :=
  let ids := (s.hpe.active.filter fun x => x.1 == out && x.2.1 == lane).map (·.2.2)
  let s := ids.foldl (fun s id => finishWith s id .aborted 0 0 (some 0x0C)) s
  let n := (if out then 16 else 0) + lane
  let h := { s.hpe with active := s.hpe.active.filter fun x => !(x.1 == out && x.2.1 == lane) }
  { s with hpe := { h with marked := if h.marked.contains n then h.marked else h.marked ++ [n] } }

/-- Rung 1 on a unit (R412). (DEDUCED, log entry 36) -/
def runRung1 (s : State) (u : UnitRef) : State :=
  let s := { s with frs := { s.frs with active := s.frs.active ++ [.rung1 u] } }
  match u with
  | .laneGroup m g => resetLaneGroup s m g
  | .lpePort p => resetPort s p
  | .hpeLane out lane => runRecords (resetHpeLane s out lane)

/-- The units that rung 1 holds have reinitialized (R412). (DESIGN CHOICE, log entry 50) -/
def endRung1 (s : State) : State :=
  { s with frs := { s.frs with active := s.frs.active.filter fun d => match d with
    | .rung1 _ => false
    | _ => true } }

/-! ## Rungs 3 to 5 -/

/-- Everything outside the always-on island and the surroundings as block reset leaves it: down, until BLOCK_START. -/
def downState (s : State) (active : List Due) : State :=
  { State.reset with
    pending := s.pending, draws := s.draws, stamp := s.stamp, chipId := s.chipId, stepping := s.stepping
    linksDown := s.linksDown
    aon := s.aon, otp := s.otp, lcc := s.lcc, responses := s.responses
    cfg := { flash := s.cfg.flash, bigFlash := s.cfg.bigFlash }
    hpe := { mem := s.hpe.mem, marked := s.hpe.marked }
    mpes := tmap s.mpes fun _ m => { hbm := m.hbm, metaLines := m.metaLines, marked := m.marked }
    ports := tmap s.ports fun _ p => { marked := p.marked, linkUp := p.linkUp }
    bec := { msix := s.bec.msix, ibis := s.bec.ibis }
    pwr := { temp := s.pwr.temp }
    mgmt := { out := s.mgmt.out, pcie := { out := s.mgmt.pcie.out }, i3c := { out := s.mgmt.i3c.out } }
    frs := { resetCount := s.frs.resetCount, dryDown := s.frs.dryDown, record := s.frs.record, active := active } }

/-- Queued binds end ABORTED when the block resets (Table 2.7). -/
def abortBinds (s : State) : State :=
  [ResKind.channel, .port, .coreGroup].foldl (fun s k => (resTab s k).foldl (fun s e => abortPending s k e.1) s) s

/-- Rung 3 (R414): the record, the mirrored fences, the count, and the reset of every other island. (DEDUCED, log entry 36) -/
def blockReset (s : State) (entry : List Word) : State :=
  let s := writeRecord s 1 entry
  let s := if s.up then failAllFences (abortBinds s) fun f => f.mirror.isSome else s
  let s := { s with frs := { s.frs with resetCount := (s.frs.resetCount + 1) % 2 ^ 32 } }
  downState s [.rung3 entry]

/-- Rung 4 (R415). (DEDUCED, log entry 36) -/
def runRung4 (s : State) (entry : List Word) : State :=
  let s := writeRecord s 2 entry
  { s with aon := { s.aon with chipResetReq := true }, frs := { s.frs with active := [.rung4 entry] } }

/-- Rung 5 (R415). (DEDUCED, log entry 36) -/
def runRung5 (s : State) (entry : List Word) : State :=
  let s := writeRecord s 3 entry
  { s with aon := { s.aon with pwrCycleReq := true }, frs := { s.frs with active := [.rung5 entry] } }

/-- The first rung due that `f` selects runs. -/
def runDue (f : Due → Bool) (run : State → Due → State) (s : State) : Host.Outcome State Fault Refusal :=
  match s.frs.due.find? f with
  | none => .next s
  | some d => if running s then .next (fabricSettle (run { s with frs := { s.frs with due := s.frs.due.erase d } } d)) else .next s

/-- RUNG_0. -/
def execRung0 (s : State) : Host.Outcome State Fault Refusal :=
  runDue (fun d => match d with | .rung0 _ => true | _ => false)
    (fun s d => match d with | .rung0 i => if absorbed s d then s else runRung0 s i | _ => s) s

/-- RUNG_1. -/
def execRung1 (s : State) : Host.Outcome State Fault Refusal :=
  runDue (fun d => match d with | .rung1 _ => true | _ => false)
    (fun s d => match d with | .rung1 u => runRung1 s u | _ => s) s

/-- RUNG_2. -/
def execRung2 (s : State) : Host.Outcome State Fault Refusal :=
  runDue (fun d => match d with | .rung2 _ => true | _ => false)
    (fun s d => match d with | .rung2 a => runRung2 s a | _ => s) s

/-- RUNG_3: block reset for the first rung 3 due. -/
def execRung3 (s : State) : Host.Outcome State Fault Refusal :=
  match s.frs.due.findSome? fun d => match d with | .rung3 e => some e | _ => none with
  | some e => .next (settle (blockReset s e))
  | none => .next s

/-- RUNG_4. -/
def execRung4 (s : State) : Host.Outcome State Fault Refusal :=
  match s.frs.due.findSome? fun d => match d with | .rung4 e => some e | _ => none with
  | some e => .next (settle (runRung4 { s with frs := { s.frs with due := s.frs.due.erase (.rung4 e) } } e))
  | none => .next s

/-- RUNG_5. -/
def execRung5 (s : State) : Host.Outcome State Fault Refusal :=
  match s.frs.due.findSome? fun d => match d with | .rung5 e => some e | _ => none with
  | some e => .next (settle (runRung5 { s with frs := { s.frs with due := s.frs.due.erase (.rung5 e) } } e))
  | none => .next s

/-- The climb of a rung that has not completed in time (R416): up to rung 2 by a fault of its own, from rung 3 on by
the island. (DEDUCED, log entry 36) -/
def climb (s : State) (d : Due) : State :=
  let s := { s with frs := { s.frs with active := s.frs.active.erase d } }
  let f : Raised := { code := 0x73, unit := unitHub }
  match d with
  | .rung0 i =>
    let x := (tget s.sessions i).getD { world := .root }
    if x.world = .tenant then raise s { f with session := some i, accord := x.accord, rung := some 2 }
    else raise s { f with session := some i, rung := some 3 }
  | .rung1 _ => raise s { f with rung := some 3 }
  | .rung2 a => raise s { f with accord := a, rung := some 3 }
  | .rung3 _ => runRung4 s (faultEntry s f (some 4) false)
  | .rung4 _ => runRung5 s (faultEntry s f (some 5) false)
  | .rung5 _ => s

/-- RUNG_TIMEOUT. (DESIGN CHOICE, log entry 38) -/
def execRungTimeout (s : State) : Host.Outcome State Fault Refusal :=
  match s.frs.active with
  | [] => .next s
  | d :: _ => if s.aon.up then .next (settle (climb s d)) else .next s

/-! ## Events of the block itself -/

/-- A fault for which the always-on island itself takes the block to rung 3 (R418). -/
def islandReset (s : State) (f : Raised) : State :=
  let entry := faultEntry s f (some 3) false
  blockReset (recordFault s f (some 3)) entry

/-- WATCHDOG: a period passed without a kick; one with a kick only starts the next. -/
def execWatchdog (s : State) : Host.Outcome State Fault Refusal :=
  if !(running s ∧ s.frs.wdogEnable) then .next s
  else if s.frs.kicked then .next (settle { s with frs := { s.frs with kicked := false } })
  else .next (settle (islandReset s { code := 0x72, unit := unitAon }))

/-- LOCKSTEP: the two controller cores disagree. -/
def execLockstep (s : State) : Host.Outcome State Fault Refusal :=
  if running s then .next (settle (islandReset s { code := 0x71, unit := unitHub })) else .next s

/-! ### In-service bits (R39, Tables 1.14 and 1.15) -/

/-- The bit of an instance: in HUB_UNIT_OK0, or 32 and above in HUB_UNIT_OK1. (DESIGN CHOICE, log entry 44) -/
def unitBit (unit inst : Nat) : Option Nat :=
  match unit with
  | 0 => some 41
  | 1 => some (inst % 8)
  | 2 => some (8 + inst / 4 % 8)
  | 3 => some 39
  | 4 => some (16 + inst % 16)
  | 5 => some (32 + inst % 7)
  | 6 => some 40
  | 7 => some (if inst ≥ 8 then 39 else 8 + inst)
  | _ => none

/-- Bits of the instances behind a mortar link that is down. The spec numbers no links: 0 to 5 are the uplinks of MS0 to MS5,
8 to 15 the links of MPE0 to MPE7, 16 to 23 of LPE0 to LPE7, 24 to 39 of ST0 to ST15, and 40 the HPE's (Table 1.2).
(DESIGN CHOICE, log entry 44) -/
def linkBits (link : Nat) : List Nat :=
  let leaf (k : Nat) : List Nat :=
    [32 + k, 2 * k, 2 * k + 1, 8 + 2 * k, 9 + 2 * k, 16 + 4 * k, 17 + 4 * k, 18 + 4 * k, 19 + 4 * k]
  if link < 4 then leaf link
  else if link = 4 then 36 :: (leaf 0 ++ leaf 1)
  else if link = 5 then 37 :: (leaf 2 ++ leaf 3)
  else if link < 8 then []
  else if link < 40 then [link - 8]
  else if link = 40 then [39]
  else []

/-- A 32-bit mask of the bits `lo` to `lo + n - 1` that are not held out. (DESIGN CHOICE, log entry 44) -/
def serviceMask (out : List Nat) (lo n : Nat) : Word :=
  BitVec.ofNat 32 (((List.range n).filter fun i => !out.contains (lo + i)).foldl (fun a i => a + 2 ^ i) 0)

/-- What lies behind a link that is down leaves service. -/
def linkLost (s : State) (link : Nat) : State :=
  { s with linksDown := s.linksDown ++ [link]
           unitOk0 := s.unitOk0 &&& serviceMask (linkBits link) 0 32
           unitOk1 := s.unitOk1 &&& serviceMask (linkBits link) 32 10 }

/-- Whether a link joins two dies (Tables 1.1 and 1.2): the uplinks, the links of the instances whose switch lies on another
die, and those of the stamp units. (DESIGN CHOICE, log entry 44: the numbers of the links) -/
def dieLink (link : Nat) : Bool := link < 6 || (8 ≤ link && link < 24 && link % 2 == 1) || (24 ≤ link && link < 40)

/-- MORTAR_CRC_ERROR: attempt `attempt` of a transfer on a die-to-die link failed its CRC. A first attempt is a new transfer:
the one before it got through. The fifth failure of one transfer takes the link down (R20). (DESIGN CHOICE, log entry 68) -/
def mortarError (s : State) (link attempt : Nat) : State :=
  if s.linksDown.contains link ∨ (attempt ≠ 1 ∧ attempt ≠ tgetD s.linkTries link 0 + 1) then s
  else if attempt < 5 then { s with linkTries := tset s.linkTries link attempt }
  else
    raise (linkLost { s with linkTries := tdel s.linkTries link } link)
      { code := 0x70, unit := unitMortar, inst := link, rung := some 3 }

/-- MORTAR_CRC_ERROR. -/
def execMortarCrcError (link attempt : Nat) (s : State) : Host.Outcome State Fault Refusal :=
  if running s ∧ dieLink link then .next (settle (mortarError s link attempt)) else .next s

/-- TAMPER: a glitch line is low for an always-on cycle (R425). -/
def execTamper (die : Nat) (s : State) : Host.Outcome State Fault Refusal :=
  if s.aon.up ∧ die < 25 then
    let s := { s with aon := { s.aon with glitch := if s.aon.glitch.contains die then s.aon.glitch else s.aon.glitch ++ [die] } }
    .next (settle (enterDry s 0x78 unitAon))
  else .next s

/-- FW_SELFCHECK: the recomputed digest of the firmware against its measurement. -/
def execFwSelfcheck (digest : BitVec 384) (s : State) : Host.Outcome State Fault Refusal :=
  if running s ∧ digest ≠ s.cfg.fwDigest then .next (settle (enterDry s 0x7B unitHub)) else .next s

/-- ZEROIZE_ALL (R424): keys go, and outside dry-down rung 3 follows. -/
def zeroizeNow (s : State) : State :=
  let s := endGrant (zeroizeAll s)
  raise { s with dbg := { s.dbg with stop := .running } } { code := 0x75, unit := unitHub, rung := some 3 }

/-- ZEROIZE_ALL. -/
def zeroizeAllEff (_id : Nat) (_c : Started) (s : State) : Eff := .good (zeroizeNow s)

/-- ZEROIZE_ALL. -/
def execZeroizeAll (q : Nat) (s : State) : Host.Outcome State Fault Refusal := runCommand 0x48 q zeroizeAllEff s

/-- POWER_CYCLE: AON_PWR_CYCLE_REQ is raised (R415). -/
def powerCycleEff (_id : Nat) (_c : Started) (s : State) : Eff := .good { s with aon := { s.aon with pwrCycleReq := true } }

/-- POWER_CYCLE. -/
def execPowerCycle (q : Nat) (s : State) : Host.Outcome State Fault Refusal := runCommand 0x47 q powerCycleEff s

/-! ## Always-on messages (Table 16.9) -/

/-- A response of the always-on island. (DESIGN CHOICE, log entry 7) -/
def aonRespond (s : State) (code status : BitVec 8) (d : Bytes) : State :=
  { s with aon := { s.aon with out := s.aon.out ++ [(code, status, d)] } }

/-- LCC_STATE (Table 14.10). -/
def lccStateWord (s : State) : Word :=
  pack [(s.lcc.state, 28), (s.lcc.count, 23), (b2n s.lcc.voidPending, 22), (b2n s.lcc.target.isSome, 21), (b2n s.lcc.mismatch, 20)
       , (s.lcc.target.getD 0, 16), (s.lcc.copyErr, 8)]

/-- FRS_DRYDOWN. -/
def dryWord (s : State) : Word :=
  match s.frs.dryDown with
  | some c => pack [(1, 31), (c.toNat, 0)]
  | none => 0

/-- AON_STATUS. -/
def execAonStatus (s : State) : Host.Outcome State Fault Refusal :=
  if s.aon.up then
    .next (settle (aonRespond s 0x01 0x00 (bytesOf [lccStateWord s, BitVec.ofNat 32 s.frs.resetCount, dryWord s])))
  else .next s

/-- AON_FAULT_RECORD (R431): signed with the copy of the DeviceID parts, or unsigned without one. -/
def faultRecordAnswer (s : State) (nonce : BitVec 256) : State :=
  match s.aon.deviceKey with
  | none => aonRespond s 0x02 0x01 (s.frs.record ++ zeros 96 ++ zeros 3312)
  | some cdi =>
    let m := ascii "BLNL-FAULT-RECRD" ++ toLE nonce.toNat 32 ++ s.frs.record
    let ec := bslice (Config.ecdsaSign (ecSeed cdi) m) 0 96
    match Config.mldsaSign (mlSeed cdi) m with
    | some sig => aonRespond s 0x02 0x00 (s.frs.record ++ ec ++ bslice sig 0 3309 ++ zeros 3)
    | none => aonRespond s 0x02 0x02 (s.frs.record ++ ec ++ zeros 3312)

/-- AON_FAULT_RECORD. -/
def execAonFaultRecord (nonce : BitVec 256) (s : State) : Host.Outcome State Fault Refusal :=
  if s.aon.up then .next (settle (faultRecordAnswer s nonce)) else .next s

/-- AON_ZEROIZE: in any state, over the wires of R21. -/
def execAonZeroize (s : State) : Host.Outcome State Fault Refusal :=
  if s.aon.up then .next (settleAll (aonRespond (zeroizeNow s) 0x03 0x00 [])) else .next s

/-- AON_POWER_CYCLE. -/
def execAonPowerCycle (s : State) : Host.Outcome State Fault Refusal :=
  if s.aon.up then .next (settle (aonRespond { s with aon := { s.aon with pwrCycleReq := true } } 0x04 0x00 [])) else .next s

end Sys2Proof.Machine
end

