-- ==== Sys2Proof/Machine/Life.lean ====
section
/-! DEFINITION. The life cycle (chapter 14): the OTP encoding, its decode (R362 to R366), transitions word by word (R367 to R374),
and what a loss of power leaves of them. -/

namespace Sys2Proof.Machine

/-! ## OTP (R363, R364) -/

/-- Codewords of Table 14.2. -/
def codeword : Nat → Option (BitVec 64)
  | 0 => some 0x0000000000000000 | 1 => some 0x00000000000000FF | 2 => some 0x000000000000FFFF
  | 3 => some 0x0000000000FFFFFF | 4 => some 0x00000000FFFFFFFF | 5 => some 0x000000FFFFFFFFFF
  | 6 => some 0x0000FFFFFFFFFFFF | 7 => some 0x00FF00FFFFFFFFFF | 8 => some 0xFFFF00FFFFFFFFFF
  | 9 => some 0x00FFFFFFFFFFFFFF | 10 => some 0xFFFFFFFFFFFFFFFF | _ => none

/-- State values (Table 14.1). -/
def lcPilot : Nat := 6
/-- FIELD. -/
def lcField : Nat := 7
/-- SUNSET. -/
def lcSunset : Nat := 8
/-- RETURN. -/
def lcReturn : Nat := 9
/-- VOID. -/
def lcVoided : Nat := 10
/-- UNREADABLE. -/
def lcUnreadable : Nat := 11

/-- The state of a codeword. -/
def stateOfCode (c : BitVec 64) : Nat := ((List.range 11).find? fun k => codeword k == some c).getD lcUnreadable

/-- Bitwise majority. -/
def maj {n : Nat} (a b c : BitVec n) : BitVec n := (a &&& b) ||| (a &&& c) ||| (b &&& c)

/-- Number of set bits. -/
def ones {n : Nat} (a : BitVec n) : Nat := ((List.range n).filter fun i => a.getLsbD i).length

/-- START of slot `k`. -/
def slotStart (x : BitVec 224) (k : Nat) : Nat := fld x (8 * k + 3) (8 * k)
/-- DONE of slot `k`. -/
def slotDone (x : BitVec 224) (k : Nat) : Nat := fld x (8 * k + 7) (8 * k + 4)

/-- A decode: state, COUNT, COPY_ERR and VOID_PENDING. -/
structure Decoded where
  state : Nat
  count : Nat
  copyErr : Nat
  voidPending : Bool
deriving DecidableEq, Repr

/-- Bits in which one copy differs from the majority. -/
def copyDiff (x m : LcCopy) : Nat := ones (x.code ^^^ m.code) + ones (x.slots ^^^ m.slots) + ones (x.void ^^^ m.void)

/-- The majority of the three copies. -/
def majCopy (o : Otp) : LcCopy :=
  { code := maj o.a.code o.b.code o.c.code, slots := maj o.a.slots o.b.slots o.c.slots, void := maj o.a.void o.b.void o.c.void }

/-- R364. -/
def decodeOtp (o : Otp) : Decoded :=
  let m := majCopy o
  let started := (List.range 28).filter fun k => slotStart m.slots k != 0
  let unfinished := started.any fun k => slotStart m.slots k != 15 || slotDone m.slots k != 15
  let err := Nat.min 255 (copyDiff o.a m + copyDiff o.b m + copyDiff o.c m)
  let n := started.length
  let void : Bool := m.void.toNat % 16 != 0
  let state :=
    if void then lcVoided else if unfinished then lcUnreadable else if started ≠ List.range n then lcUnreadable
    else stateOfCode m.code
  { state := state, count := (started.filter fun k => slotStart m.slots k == 15 && slotDone m.slots k == 15).length, copyErr := err
    voidPending := void && m.void.toNat != 255 }

/-- The decode put into LCC_STATE; DECODED stays with the caller. -/
def putDecode (s : State) (d : Decoded) : State :=
  { s with lcc := { s.lcc with count := d.count, copyErr := d.copyErr, voidPending := d.voidPending } }

/-! ## Programming OTP words -/

/-- A copy changed by `f`. -/
def updCopy (s : State) (k : Fin 3) (f : LcCopy → LcCopy) : State :=
  match k with
  | 0 => { s with otp := { s.otp with a := f s.otp.a } }
  | 1 => { s with otp := { s.otp with b := f s.otp.b } }
  | 2 => { s with otp := { s.otp with c := f s.otp.c } }

/-- A 32-bit word `i` of a wide field. -/
def wordAt {n : Nat} (i : Nat) (v : BitVec 32) : BitVec n := BitVec.ofNat n (v.toNat * 2 ^ (32 * i))

/-- One OTP word programmed, as far as `mask` lets its bits be set; bits are only ever set. -/
def programWord (s : State) (w : OtpWord) (mask : BitVec 32) : State :=
  let nib (hi : Nat) : BitVec 8 := BitVec.ofNat 8 ((mask.toNat % 16) * (if hi = 1 then 16 else 1))
  let slotBits (k : Nat) (hi : Nat) : BitVec 224 := BitVec.ofNat 224 ((nib hi).toNat * 2 ^ (8 * k))
  match w with
  | .start c k => updCopy s c fun x => { x with slots := x.slots ||| slotBits k 0 }
  | .done c k => updCopy s c fun x => { x with slots := x.slots ||| slotBits k 1 }
  | .code c b => updCopy s c fun x => { x with code := x.code ||| (b &&& (mask ++ mask : BitVec 64)) }
  | .voidStart c => updCopy s c fun x => { x with void := x.void ||| nib 0 }
  | .voidDone c => updCopy s c fun x => { x with void := x.void ||| nib 1 }
  | .root k i v =>
    let v := wordAt i (v &&& mask)
    match k with
    | 0 => { s with otp := { s.otp with dus := s.otp.dus ||| v } }
    | 1 => { s with otp := { s.otp with creator := s.otp.creator ||| v } }
    | 2 => { s with otp := { s.otp with owner := s.otp.owner ||| v } }
  | .serial i v => { s with otp := { s.otp with serial := s.otp.serial ||| wordAt i (v &&& mask) } }
  | .ownerDigest i v => { s with otp := { s.otp with ownerDigest := s.otp.ownerDigest ||| wordAt i (v &&& mask) } }
  | .tokenDigest t i v =>
    { s with otp := { s.otp with tokens := tset s.otp.tokens t (tgetD s.otp.tokens t 0 ||| wordAt i (v &&& mask)) } }
  | .compare => s
  | .clearTenants => s

/-! ## Transitions (Table 14.3) -/

/-- The words of one copy's new codeword bits, low word first. -/
def codeWords (c : Fin 3) (b : BitVec 64) : List OtpWord :=
  let lo := b &&& 0x00000000FFFFFFFF
  let hi := b &&& 0xFFFFFFFF00000000
  (if lo = 0 then [] else [.code c lo]) ++ (if hi = 0 then [] else [.code c hi])

/-- The copies, in order. -/
def copies : List (Fin 3) := [0, 1, 2]

/-- A byte string's words as OTP words. -/
def otpWords (f : Nat → BitVec 32 → OtpWord) (d : Bytes) : List OtpWord :=
  (List.range (d.length / 4)).map fun i => f i (BitVec.ofNat 32 (leField d (4 * i) 4))

/-- All-ones words of a root or a digest. -/
def onesWords (f : Nat → BitVec 32 → OtpWord) (n : Nat) : List OtpWord := (List.range n).map fun i => f i 0xFFFFFFFF

/-- Steps 5 and 6 of R369: codeword bits, then DONE. -/
def finishWords (state target slot : Nat) : List OtpWord :=
  let b := (codeword target).getD 0 &&& ~~~((codeword state).getD 0)
  copies.flatMap (fun c => codeWords c b) ++ copies.map fun c => .done c slot

/-- Step 4's effects of a transition, from the drawn roots and the token block. -/
def effectWords (state target : Nat) (roots block : Bytes) : List OtpWord :=
  if target = 1 ∧ state = 0 then
    otpWords (.root 0) (bslice roots 0 32) ++ otpWords (.root 1) (bslice roots 32 32) ++ otpWords (.root 2) (bslice roots 64 32)
      ++ otpWords .serial (bslice block 16 16)
  else if state = 5 ∧ (target = lcPilot ∨ target = lcField) then otpWords .ownerDigest (bslice block 16 48)
  else if target = lcSunset then [.clearTenants]
  else if target = lcReturn then [.clearTenants] ++ onesWords (.root 0) 8 ++ onesWords (.root 2) 8
  else []

/-- The whole program of a transition (R369). -/
def transitionWords (s : State) (target : Nat) (token : Bool) (roots block : Bytes) : List OtpWord :=
  let slot := s.lcc.count
  copies.map (fun c => .start c slot) ++ (if token then [.compare] else [])
    ++ effectWords s.lcc.state target roots block ++ finishWords s.lcc.state target slot

/-- The program of the transition to VOID (R372). -/
def voidWords : List OtpWord :=
  copies.map .voidStart ++ copies.flatMap (fun c => codeWords c 0xFFFFFFFFFFFFFFFF)
    ++ (onesWords (.root 0) 8 ++ onesWords (.root 1) 8 ++ onesWords (.root 2) 8)
    ++ [1, 2, 3, 6, 7, 8, 9].flatMap (fun t => onesWords (.tokenDigest t) 12)
    ++ copies.map .voidDone

/-- Whether Table 14.3 has a token transition, and whether its digest is programmed; token 0's digest is in ROM. -/
def tokenAllowed (s : State) (target : Nat) : Bool :=
  let st := s.lcc.state
  let listed : Bool := (st == 0 && target == 1) || (1 ≤ st && st ≤ 3 && target == st + 1)
    || (st == 5 && (target == lcPilot || target == lcField)) || (st == lcField && target == lcSunset)
    || ((st == lcPilot || st == lcField) && target == lcReturn)
  listed && (st == 0 || tgetD s.otp.tokens (if target ≤ 4 then target - 1 else target) 0 != 0)

/-- Digest of the token of a target: token n by number, the others by their state. (DESIGN CHOICE, log entry 8) -/
def tokenDigestOf (s : State) (target : Nat) : Bytes :=
  if target = 1 then (List.range 48).map fun i => Config.romByte (48 + i)
  else toLE (tgetD s.otp.tokens (if target ≤ 4 then target - 1 else target) 0).toNat 48

/-- Whether Table 14.3 has a plain transition. -/
def plainAllowed (s : State) (target : Nat) : Bool := target == lcVoided || (target == 5 && 1 ≤ s.lcc.state && s.lcc.state ≤ 4)

/-- Whether a token block has the form of Table 14.4 for its transition. -/
def blockOk (s : State) (target : Nat) (b : Bytes) : Bool :=
  if s.lcc.state = 0 ∧ target = 1 then (bslice b 16 16).any (· != 0) && (bslice b 32 32).all (· == 0)
  else if s.lcc.state = 5 then (bslice b 16 48).any (· != 0)
  else (bslice b 16 48).all (· == 0)

/-- LC_TRANSITION commands that run. -/
def lcCommands (s : State) : List Nat := (s.started.filter fun e => e.2.wait == .lifeCycle).map (·.1)

/-- The end of a transition: CODE, the event, and the command. -/
def lcEnd (s : State) (code : BitVec 8) : State :=
  let s := pulse { s with lcc := { s.lcc with target := none, prog := [], block := [], clearing := false, code := code } } 3
  (lcCommands s).foldl (fun s id => if code = 0 then finish s id .ok 0 0 else finish s id .rejected (code.setWidth 32) 0) s

/-- A transition refused before it starts. -/
def lcRefuse (s : State) (code : BitVec 8) : State := pulse { s with lcc := { s.lcc with code := code } } 3

/-- A transition started: any debug grant ends (R371). -/
def lcBegin (s : State) (target : Nat) (prog : List OtpWord) (block : Bytes) : State :=
  let s := endGrant s
  { s with lcc := { s.lcc with target := some target, prog := prog, block := block, code := 0 } }

/-- The OTP word that a running transition is programming, if it is programming one. -/
def wordInProgress (s : State) : List OtpWord :=
  match s.lcc.target, s.lcc.prog with
  | some _, w :: _ => if w = .compare ∨ w = .clearTenants then [] else [w]
  | _, _ => []

/-- The transition to VOID started: VOID_PENDING is set until it completes (R372). A running one stops after the OTP word in progress,
without its DONE, and its command ends ABORTED (R373). (DEDUCED, log entry 39) -/
def beginVoid (s : State) : State :=
  let s := (lcCommands s).foldl (fun s id => finish s id .aborted 0 0) s
  lcBegin { s with lcc := { s.lcc with clearing := false, voidPending := true } } lcVoided (wordInProgress s ++ voidWords) []

/-- Code with which a plain transition is refused. -/
def plainRefusal (s : State) (target : Nat) : Option (BitVec 8) :=
  if !plainAllowed s target then some 0x01 else if target ≠ lcVoided ∧ s.lcc.count ≥ 28 then some 0x03 else none

/-- A plain transition begun. -/
def beginPlain (s : State) (target : Nat) : State :=
  if target = lcVoided then beginVoid s else lcBegin s target (transitionWords s target false [] []) []

/-- LC_TRANSITION (R367 to R369, R373). (DEDUCED, log entry 39) -/
def lcTransitionEff (_id : Nat) (c : Started) (s : State) : Eff :=
  let target := fld (wd c.words 8) 3 0
  let a := wd2 c.words 9
  let x := sessionOf s c
  if s.lcc.target.isSome ∧ ¬ (target = lcVoided ∧ s.lcc.target ≠ some lcVoided) then .fail .busy s
  else if a = 0 then
    match plainRefusal s target with
    | some e => .reject (e.setWidth 32) (lcRefuse s e)
    | none => .wait .lifeCycle (beginPlain s target)
  else if !tokenAllowed s target then .reject 0x01 (lcRefuse s 0x01)
  else if s.lcc.count ≥ 28 then .reject 0x03 (lcRefuse s 0x03)
  else match spaceCheck x (some .hub) a.toNat 64 with
    | some e => .fail e s
    | none => match readSpace s x .hub a 64 with
      | (s, none) => .fail .badOperand s
      | (s, some b) =>
        if !blockOk s target b then .reject 0x04 (lcRefuse s 0x04)
        else if target = 1 ∧ noEntropy s then .reject 0x05 (lcRefuse s 0x05)
        else
          let (s, roots) := if target = 1 then drawFresh s 96 else (s, [])
          .wait .lifeCycle (lcBegin s target (transitionWords s target true roots b) b)

/-- LC_TRANSITION. -/
def execLcTransition (q : Nat) (s : State) : Host.Outcome State Fault Refusal := runCommand 0x40 q lcTransitionEff s

/-- Whether a world may write LCC_PLAIN (R368). -/
def plainWorld (s : State) (w : World) : Bool :=
  w == .root || (w == .debug && ((1 ≤ s.lcc.state && s.lcc.state ≤ 4) || s.lcc.state == lcReturn))

/-- A write of LCC_PLAIN; during a transition only VOID is accepted (R373). (DEDUCED, log entry 39) -/
def lccPlain (s : State) (w : World) (target : Nat) : State :=
  if s.lcc.target.isSome ∧ ¬ (target = lcVoided ∧ s.lcc.target ≠ some lcVoided ∧ plainWorld s w) then s
  else if !plainWorld s w then lcRefuse s 0x01
  else match plainRefusal s target with
    | some e => lcRefuse s e
    | none => beginPlain s target

/-- LCC_PLAIN_PROBE_CLOSED. -/
def execLccPlainProbeClosed (w : World) (s : State) : Host.Outcome State Fault Refusal :=
  if running s then .next (settleAll (lccPlain s w 5)) else .next s

/-- LCC_PLAIN_VOID. -/
def execLccPlainVoid (w : World) (s : State) : Host.Outcome State Fault Refusal :=
  if running s then .next (settleAll (lccPlain s w lcVoided)) else .next s

/-- A decode that disagrees with the state in force (R366). -/
def lcMismatch (s : State) : State :=
  let s := { s with lcc := { s.lcc with state := lcUnreadable, mismatch := true } }
  enterDry (lcZeroize s) 0x79 unitAon

/-- Step 7 of R369: the decode; the target governs from here, and slots that it does not admit are zeroized (R125, R371). -/
def lcFinish (s : State) (target : Nat) : State :=
  let d := decodeOtp s.otp
  let s := putDecode s d
  let badToken : Bool := s.lcc.code == 0x02 && s.lcc.block.isEmpty
  if badToken ∧ d.state = s.lcc.state then lcEnd s 0x02
  else if d.state = target then
    let s := lcZeroize { s with lcc := { s.lcc with state := target } }
    lcEnd (if (lcClass s).isSome then s else { s with aon := { s.aon with deviceKey := none } }) 0x00
  else lcMismatch { s with lcc := { s.lcc with target := none, prog := [], block := [], clearing := false } }

/-- The token compared (R369 step 3); with R370's clearing begun where the transition asks for it. -/
def lcCompare (s : State) (target : Nat) : State :=
  let s := { s with lcc := { s.lcc with prog := s.lcc.prog.drop 1 } }
  if sha384 (bslice s.lcc.block 0 16) = tokenDigestOf s target then
    if s.lcc.prog.head? = some .clearTenants then
      let s := { s with lcc := { s.lcc with clearing := true } }
      let s := ((s.accords.filter fun a => a.1 ≥ 2).map (·.1)).foldl runRung2 s
      let s := (s.bonds.map (·.1)).foldl closeBond s
      -- a handshake that could still make a bond ends (DESIGN CHOICE, log entry 39)
      ((s.bonds.filter fun b => b.2.state == .attesting || b.2.state == .agreeing).map (·.1)).foldl
        (fun s b => failHandshake s b linkBondState) s
    else s
  else
    { s with lcc := { s.lcc with prog := copies.map fun c => .done c s.lcc.count, block := [], code := 0x02 } }

/-- Whether R370 is done: no tenant accord and no bond is left. -/
def tenantsCleared (s : State) : Bool :=
  s.accords.all (fun a => a.1 < 2 || a.2.state == .free)
    && s.bonds.all fun b => b.2.state == .free || b.2.state == .closed

/-- Steps that program nothing, taken as soon as they are at the front. -/
def lcAdvance (s : State) (target : Nat) : State :=
  let s := if s.lcc.prog.head? = some .compare then lcCompare s target else s
  if s.lcc.prog.isEmpty then lcFinish s target else s

/-- OTP_WORD_PROGRAMMED: the word in progress is complete, or the wait of R370 is over. -/
def otpWordProgrammed (s : State) : State :=
  match s.lcc.target, s.lcc.prog with
  | some t, w :: rest =>
    if w = .clearTenants then
      if tenantsCleared s then lcAdvance { s with lcc := { s.lcc with prog := rest } } t else s
    else lcAdvance { programWord s w 0xFFFFFFFF with lcc := { s.lcc with prog := rest } } t
  | _, _ => s

/-- OTP_WORD_PROGRAMMED. -/
def execOtpWordProgrammed (s : State) : Host.Outcome State Fault Refusal :=
  if s.aon.up then .next (fabricSettle (otpWordProgrammed s)) else .next s

/-- LC_DECODE: the periodic decode, while no transition runs (R366). -/
def lcDecode (s : State) : State :=
  let d := decodeOtp s.otp
  let s := putDecode s d
  if d.state = lcUnreadable ∨ d.state ≠ s.lcc.state then lcMismatch s else s

/-- LC_DECODE. (DEDUCED, log entry 39) -/
def execLcDecode (s : State) : Host.Outcome State Fault Refusal :=
  if s.aon.up ∧ s.lcc.target.isNone then .next (settleAll (lcDecode s)) else .next s

/-- AON_START: the island starts on its first power, decodes, and resumes a transition to VOID (R366, R372). -/
def aonStart (s : State) : State :=
  let d := decodeOtp s.otp
  let s := { s with aon := { up := true, out := s.aon.out }, lcc := { state := d.state } }
  let s := putDecode s d
  if d.state = lcUnreadable then enterDry { s with lcc := { s.lcc with mismatch := true } } 0x79 unitAon
  else if d.voidPending then { s with lcc := { s.lcc with target := some lcVoided, prog := voidWords } }
  else s

/-- AON_START; an island that runs does not start again. -/
def execAonStart (s : State) : Host.Outcome State Fault Refusal := if s.aon.up then .next s else .next (settle (aonStart s))

/-- POWER_LOSS: of an OTP word in progress any bits may have been set; the retention store and every island are lost
(R369, R428). (DEDUCED, log entry 39) -/
def powerLoss (s : State) : State :=
  let (s, k) := drawNat s
  let s := match s.lcc.target, s.lcc.prog with
    | some _, w :: _ => programWord s w (BitVec.ofNat 32 k)
    | _, _ => s
  let t := downState { s with aon := { out := s.aon.out }, lcc := {} } []
  { t with frs := {}, mpes := [], ports := [], linksDown := [] }

/-- POWER_LOSS. -/
def execPowerLoss (s : State) : Host.Outcome State Fault Refusal := .next (settle (powerLoss s))

end Sys2Proof.Machine
end

