-- ==== Sys2Proof/Machine/Debug.lean ====
section
/-! DEFINITION. Debug grants (R375 to R379), the global stop (R380 to R384) and the start of a tensor watch (R385). -/

namespace Sys2Proof.Machine

/-! ## The certificate (R376, Table 14.8) -/

/-- Level bit STOP. -/
def levelStop : Nat := 1
/-- Level bit WATCH. -/
def levelWatch : Nat := 2
/-- Level bit FULL. -/
def levelFull : Nat := 3

/-- Whether a level exists in a life-cycle state (Table 14.7). -/
def levelState (level lc : Nat) : Bool :=
  let probe : Bool := 1 ≤ lc && lc ≤ 4
  match level with
  | 0 => probe || (lcPilot ≤ lc && lc ≤ lcReturn)
  | 1 => probe || lc == lcPilot || lc == lcField || lc == lcReturn
  | 2 => lc == lcPilot || lc == lcField
  | _ => probe || lc == lcReturn

/-- Whether a signer (0 owner key, 1 Saldibex test key) is accepted in a state (R375). -/
def signerState (signer lc : Nat) : Bool :=
  if (1 ≤ lc ∧ lc ≤ 4) ∨ lc = lcReturn then signer == 1
  else if lc = lcPilot then true
  else if lc = lcField ∨ lc = lcSunset then signer == 0
  else false

/-- LEVELS of a certificate. -/
def certLevels (b : Bytes) : BitVec 4 := BitVec.ofNat 4 (leField b 5 1)

/-- Whether every byte of a field is zero. -/
def zeroAt (b : Bytes) (off len : Nat) : Bool := (bslice b off len).all (· == 0)

/-- The layout of Table 14.8. -/
def certLayout (b : Bytes) : Bool :=
  let watch := (certLevels b).getLsbD levelWatch
  leField b 0 4 == 0x43474244 && leField b 4 1 == 1 && leField b 5 1 < 16 && leField b 6 1 < 2 && leField b 7 1 == 0
    && 1 ≤ leField b 56 4 && leField b 56 4 ≤ 86400 && zeroAt b 68 60 && zeroAt b 5101 3
    && (watch || (leField b 64 4 == 0 && zeroAt b 128 1568 && zeroAt b 5104 3408))
    && (!watch || zeroAt b 8509 3)

/-- D of R376. -/
def certDigest (b : Bytes) : Bytes := sha384 (bslice b 0 1696)

/-- Digest of the signer's keys: the owner's from OTP, the test key's from ROM. (DESIGN CHOICE, log entry 8) -/
def signerDigest (s : State) (signer : Nat) : Bytes :=
  if signer = 0 then toLE s.otp.ownerDigest.toNat 48 else (List.range 48).map fun i => Config.romByte (96 + i)

/-- Whether the signer's two signatures verify. -/
def certSigned (s : State) (b : Bytes) : Bool :=
  let (ec, ml) := Config.keysOfDigest (signerDigest s (leField b 6 1))
  dualVerify ec ml (ascii "BLNL-DEBUG-CERT" ++ [0] ++ certDigest b) (bslice b 1696 96) (bslice b 1792 3309)

/-- Whether the tenant's countersignature verifies under the keys of accord `a`. -/
def certCountersigned (s : State) (b : Bytes) (a : Nat) : Bool :=
  let k := bytesOf (getAccord s a).tenantKey
  dualVerify (bslice k 0 96) (bslice k 96 1952) (ascii "BLNL-DEBUG-TENNT" ++ certDigest b) (bslice b 5104 96)
    (bslice b 5200 3309)

/-- The first check of R377 that a certificate fails, with its code of Table 14.9. (DEDUCED, log entry 41) -/
def certFailure (s : State) (b : Bytes) : Option Word :=
  let lv := certLevels b
  let signer := leField b 6 1
  if !certLayout b then some 0x01
  else if bslice b 8 16 ≠ serialBytes s then some 0x02
  else if bslice b 24 32 ≠ s.dbg.nonce then some 0x03
  else if !signerState signer s.lcc.state ∨ !certSigned s b then some 0x04
  else if (List.range 4).any (fun k => lv.getLsbD k && (!levelState k s.lcc.state || (k == levelFull && signer != 1))) then some 0x05
  else
    let member := memberOf s (leField b 64 4)
    if lv.getLsbD levelWatch ∧ member.isNone then some 0x07
    else if lv.getLsbD levelWatch ∧ !certCountersigned s b (member.getD 0) then some 0x06
    else if s.dbg.grant.isSome then some 0x08
    else none

/-- The DEBUG session with its queue, and the grant (R377, R378). -/
def grantNow (s : State) (issuer : World) (b : Bytes) (i q : Nat) : State :=
  let g : Grant :=
    { levels := certLevels b, signer := BitVec.ofNat 1 (leField b 6 1), issuer := issuer, session := i
      seconds := leField b 56 4, since := s.time, stopDomain := BitVec.ofNat 32 (leField b 60 4)
      watchGid := BitVec.ofNat 32 (leField b 64 4), recipient := bslice b 128 1568 }
  { s with sessions := tset s.sessions i { world := .debug, dref := 1, creator := i }
           queues := tset s.queues q { session := i, log2 := 4 }
           dbg := { s.dbg with grant := some g } }

/-- A new nonce drawn (R377). -/
def newNonce (s : State) : State :=
  let (s, n) := drawFresh s 32
  { s with dbg := { s.dbg with nonce := n } }

/-- A session as DEBUG_AUTH reads its certificate: from HOST space through the PF, whatever function owns it (R377). -/
def viaPf (x : Session) : Session := if x.world = .host then { x with fn := some 0 } else x

/-- DEBUG_AUTH, the nonce apart. (DEDUCED, log entry 41) -/
def debugAuthCheck (c : Started) (s : State) : Eff :=
  let x := viaPf (sessionOf s c)
  let a := wd2 c.words 8
  let sp := defaultSpace x
  match spaceCheck x (some sp) a.toNat 8512 with
  | some e => .fail e s
  | none => match readSpace s x sp a 8512 with
    | (s, none) => .fail .badOperand s
    | (s, some b) => match certFailure s b with
      | some e => .reject e s
      | none => match freeIndex s .session, freeIndex s .queue with
        | some i, some q =>
          let s := grantNow s x.world b i q
          .result (handle s { type := .session, index := i }) s
        | _, _ => .fail .limit s

/-- DEBUG_AUTH (R377): every one ends with a new nonce, and is refused without randomness (R145). -/
def debugAuthEff (_id : Nat) (c : Started) (s : State) : Eff :=
  if noEntropy s then .reject keyEntropyFail s
  else match debugAuthCheck c s with
    | .done st d r s => .done st d r (newNonce s)
    | .wait w s => .wait w s

/-- DEBUG_AUTH. -/
def execDebugAuth (q : Nat) (s : State) : Host.Outcome State Fault Refusal := runCommand 0x41 q debugAuthEff s

/-- Whether the active grant holds a level. -/
def holdsLevel (s : State) (k : Nat) : Bool := s.dbg.grant.any fun g => g.levels.getLsbD k

/-! ## The global stop (R380 to R384) -/

/-- A STOP flit to a peer (R382). -/
def stopFlitBytes (s : State) (peer : Nat) (domain seq hops : Nat) : Bytes :=
  flitHeader peer s.chipId 4 0 0 0 ++ toLE domain 4 ++ toLE seq 4 ++ toLE hops 1 ++ zeros 231

/-- The STOP flit on one UP port of every LIVE bond but that of chip `but`. -/
def sendStops (s : State) (but : Option Nat) (domain seq hops : Nat) : State :=
  (s.bonds.filter fun e => e.2.state == .live && some e.2.peer != but).foldl
    (fun s e => match controlPort s e.1 with
      | some p => updPort s p fun x => { x with egress := x.egress ++ [stopFlitBytes s e.2.peer domain seq hops] }
      | none => s) s

/-- Every island stopped (R380). (DEDUCED, log entry 41) -/
def stopNow (s : State) : State := { s with dbg := { s.dbg with stop := .stopped } }

/-- GLOBAL_STOP. -/
def globalStopEff (_id : Nat) (_c : Started) (s : State) : Eff :=
  match s.dbg.grant with
  | none => .reject 0x05 s
  | some g =>
    if !g.levels.getLsbD levelStop then .reject 0x05 s
    else if s.dbg.stop ≠ .running then .reject 0x0B s
    else if g.stopDomain = 0 then .good (stopNow s)
    else
      let n := s.dbg.stopSeq
      let s := sendStops s none g.stopDomain.toNat n 0
      let seen := s.dbg.seen ++ [BitVec.ofNat 32 n]
      .good (stopNow { s with dbg := { s.dbg with stopSeq := (n + 1) % 2 ^ 32, seen := seen } })

/-- GLOBAL_STOP. -/
def execGlobalStop (q : Nat) (s : State) : Host.Outcome State Fault Refusal := runCommand 0x42 q globalStopEff s

/-- A STOP flit received (R382). (DEDUCED, log entry 41) -/
def stopFlit (s : State) (f : Bytes) : State :=
  let domain := leField f 16 4
  let seq := leField f 20 4
  let hops := leField f 24 1
  match s.dbg.grant with
  | none => s
  | some g =>
    if g.levels.getLsbD levelStop ∧ g.stopDomain.toNat = domain ∧ domain ≠ 0 ∧ !s.dbg.seen.contains (BitVec.ofNat 32 seq)
        ∧ hops < 15 then
      let s := sendStops s (some (leField f 2 2)) domain seq (hops + 1)
      stopNow { s with dbg := { s.dbg with seen := s.dbg.seen ++ [BitVec.ofNat 32 seq] } }
    else s

/-- STOP_FLIT. -/
def execStopFlit (p : Nat) (flit : Bytes) (s : State) : Host.Outcome State Fault Refusal :=
  if running s ∧ portCarries s p then .next (fabricSettle (stopFlit s flit)) else .next s

/-- RESUME (R384): a stopped block continues from the cut; after a scan it has no effect. (DEDUCED, log entry 41) -/
def execResume (s : State) : Host.Outcome State Fault Refusal :=
  if holdsLevel s levelStop ∧ s.dbg.stop = .stopped then
    .next (settleAll { s with dbg := { s.dbg with stop := .running } })
  else .next s

/-- Every KEY chain zeroized: all slots, the key contexts, the GCE's key register and the engine roots. -/
def zeroKeyChains (s : State) : State :=
  { s with slots := [], mpeKeys := false
           gce := { s.gce with running := s.gce.running.map fun r => { r with key := [] } }
           accords := tmap s.accords fun _ a => { a with ctx := none }
           bonds := tmap s.bonds fun _ b =>
             { b with root := [], rxRoot := [], nextRoot := none, oldRx := none, oldTx := none, flipRoot := none, secret := [] } }

/-- Every DATA chain zeroized: lanes, the coalescing store, window and record buffers. -/
def zeroDataChains (s : State) : State :=
  { s with mpes := tmap s.mpes fun _ m => { m with store := [], sealBuf := [] }
           ports := tmap s.ports fun _ p =>
             { p with streams := tmap p.streams fun _ x => { x with win := none, sent := [], held := [] }
                      egress := [], gwOpen := [], gwSent := [], gwRx := [], landing := [] }
           bonds := tmap s.bonds fun _ b => { b with ctl := { b.ctl with win := none, sent := [], held := [] } } }

/-- SCAN (R384): keys go first, below FULL the data too, then the chains are written to the host; how many bytes and
which they are is open. (DEDUCED, log entry 41) -/
def scanNow (s : State) : State :=
  let full := holdsLevel s levelFull
  let s := zeroKeyChains s
  let s := if full then s else zeroDataChains s
  let (s, n) := drawNat s
  let (s, d) := drawFree s n
  let s := hostWrite s 0 s.dbg.scanDest d
  { s with dbg := { s.dbg with scans := s.dbg.scans ++ [if full then 3 else 1], stop := .scanned } }

/-- SCAN. -/
def execScan (s : State) : Host.Outcome State Fault Refusal :=
  if holdsLevel s levelStop ∧ s.dbg.stop = .stopped then .next (settle (scanNow s)) else .next s

/-- RESET of DBG_STOP_CTRL: the FRS takes the block to rung 3; no fault caused it, so the record's entry is zero.
(DEDUCED, log entry 41) -/
def execStopCtrlReset (s : State) : Host.Outcome State Fault Refusal :=
  if holdsLevel s levelStop ∧ (s.dbg.stop = .stopped ∨ s.dbg.stop = .scanned) then .next (settle (blockReset s [])) else .next s

/-! ## The tensor watch -/

/-- TENSOR_WATCH (R385). -/
def tensorWatchEff (_id : Nat) (c : Started) (s : State) : Eff :=
  match s.dbg.grant with
  | none => .reject 0x05 s
  | some g =>
    if !g.levels.getLsbD levelWatch then .reject 0x05 s
    else match watchRegion s c with
      | none => .reject 0x09 s
      | some (a, _) =>
        if a < 2 ∨ gidOf s a ≠ g.watchGid ∨ !watchFenceOk s a then .reject 0x09 s
        else .wait .watch { s with dbg := { s.dbg with chunks := 0 } }

/-- TENSOR_WATCH. -/
def execTensorWatch (q : Nat) (s : State) : Host.Outcome State Fault Refusal := runCommand 0x43 q tensorWatchEff s

/-! ## The end of a grant, and the DEBUG queue -/

/-- REVOKE: a write of DBG_CTRL.REVOKE by ROOT or HOST (R379, R389). -/
def revoke (s : State) (w : World) : State := if w = .root ∨ w = .host then endGrant s else s

/-- REVOKE. -/
def execRevoke (w : World) (s : State) : Host.Outcome State Fault Refusal :=
  if s.up then .next (settleAll (revoke s w)) else .next s

/-- GRANT_EXPIRY: only time in which the block is not stopped counts (R379). (DEDUCED, log entry 41) -/
def execGrantExpiry (s : State) : Host.Outcome State Fault Refusal :=
  if running s then .next (settleAll (endGrant s)) else .next s

/-- A write of DBG_DOORBELL: the new tail of the DEBUG queue (R378, Table 14.11). -/
def debugDoorbell (s : State) (w : World) (value : BitVec 32) : State :=
  match s.dbg.grant with
  | none => s
  | some g =>
    if w ≠ .debug then s
    else match (queuesOf s g.session).head? with
      | some q => { s with queues := tupd s.queues q fun x => { x with tail := fld value 31 16 % 16 } }
      | none => s

/-- DEBUG_DOORBELL. -/
def execDebugDoorbell (w : World) (value : BitVec 32) (s : State) : Host.Outcome State Fault Refusal :=
  if s.up then .next (settle (debugDoorbell s w value)) else .next s

end Sys2Proof.Machine
end

