-- ==== Sys2Proof/Machine/Flash.lean ====
section
/-! DEFINITION. Persistent configuration (R87 to R91): slots and their sections, what a slot must pass to be valid, and the writes
of CONFIG_UPDATE and TRIM_WRITE, one step of R90 at each tick of the block. -/

namespace Sys2Proof.Machine

/-! ## Slots (Tables 3.7 and 3.8) -/

/-- First address of a slot. -/
def slotBase (b : Bool) : Nat := if b then 0x01000000 else 0

/-- Size of a slot. -/
def slotSize : Nat := 0x01000000

/-- SEQUENCE of a header. -/
def headerSeq (h : Bytes) : Word := BitVec.ofNat 32 (leField h 4 4)

/-- A header with a SEQUENCE and its CRC. -/
def withSeq (h : Bytes) (n : Nat) : Bytes :=
  let h := bput (bslice h 0 60) 4 (toLE n 4)
  h ++ toLE (crc32c h).toNat 4

/-- Type and offset of the sections of a header. -/
def sectionHeads (h : Bytes) : List (Nat × Nat) :=
  (List.range (leField h 12 2)).map fun i => (leField h (16 + 8 * i) 2, leField h (20 + 8 * i) 4)

/-- Where a section that starts at `off` ends: at the next section, or at LENGTH. (DEDUCED, log entry 43) -/
def sectionEnd (h : Bytes) (off : Nat) : Nat :=
  (sectionHeads h).foldl (fun e x => if off < x.2 then Nat.min e x.2 else e) (leField h 8 4)

/-- The sections of a slot image (header and body). -/
def sectionsOf (b : Bytes) : List (Nat × Bytes) :=
  let h := bslice b 0 64
  (sectionHeads h).map fun x => (x.1, bslice b x.2 (sectionEnd h x.2 - x.2))

/-- Whether a section authenticates (Table 3.8). (DESIGN CHOICE, log entry 48) -/
def sectionAuthentic (s : State) (x : Nat × Bytes) : Bool :=
  let owner := toLE s.otp.ownerDigest.toNat 48
  match x.1 with
  | 1 => Config.firmwareSigned x.2 && s.otp.minSvn ≤ Config.firmwareSvn x.2
  | 2 => Config.ownerSigned owner x.2
  | 3 => Config.ownerSigned owner x.2
  | 4 => (trimKey s).any fun k => cmac k (bslice x.2 0 32) == bslice x.2 32 16
  | _ => false

/-- R88: whether a header is one of a slot. -/
def slotHeaderOk (h : Bytes) : Bool :=
  let seq := leField h 4 4
  leField h 0 4 == 0x47464342 && leField h 60 4 == (crc32c (bslice h 0 60)).toNat && 1 ≤ seq && seq ≤ 0xFFFFFFFE
    && leField h 12 2 ≤ 4 && 64 ≤ leField h 8 4 && leField h 8 4 ≤ slotSize

/-- R88: whether a slot image is valid. -/
def slotImageOk (s : State) (b : Bytes) : Bool := slotHeaderOk (bslice b 0 64) && (sectionsOf b).all (sectionAuthentic s)

/-- The header that a slot of the flash holds. -/
def slotHeader (s : State) (b : Bool) : Bytes := flashRead s (slotBase b) 64

/-- The image that a slot of the flash holds, as long as its LENGTH says. -/
def slotImage (s : State) (b : Bool) : Bytes :=
  let h := slotHeader s b
  h ++ flashRead s (slotBase b + 64) (Nat.min (leField h 8 4) slotSize - 64)

/-- A slot of the flash that is valid. -/
def validSlot (s : State) (b : Bool) : Option Bytes :=
  if slotHeaderOk (slotHeader s b) then
    let i := slotImage s b
    if slotImageOk s i then some i else none
  else none

/-- A section of an image by type. -/
def sectionOf (b : Bytes) (t : Nat) : Option Bytes := ((sectionsOf b).find? fun x => x.1 == t).map (·.2)

/-! ## Writing a slot (R90, R91) -/

/-- SEQUENCE of the slot in use at this start; 0 in configuration recovery, where none is. (DEDUCED, log entry 43) -/
def usedSeq (s : State) : Nat :=
  if s.cfg.recovery then 0 else ((if s.cfg.selected then s.cfg.seqB else s.cfg.seqA).map (·.toNat)).getD 0

/-- A slot erased. -/
def eraseSlot (s : State) (b : Bool) : State :=
  let lo := slotBase b
  { s with cfg := { s.cfg with flash := s.cfg.flash.filter fun c => c.1 < lo || lo + slotSize ≤ c.1 } }

/-- The write finished: CFG_DONE, and the command. A target that fails its check ends it REJECTED; the spec gives no
code. (DEDUCED, log entry 43) -/
def flashDone (s : State) (j : FlashJob) (ok : Bool) : State :=
  let s := pulse { s with cfg := { s.cfg with job := none } } 5
  if ok then finish s j.cmd .ok 0 0
  else let (s, k) := drawNat s; finish s j.cmd .rejected (BitVec.ofNat 32 k) 0

/-- One step of R90. The header goes in and the target is read back in one tick, so that a loss of power before the end of any step
leaves a target without a good header. (DEDUCED, log entry 43) -/
def flashStep (s : State) (j : FlashJob) : State :=
  let next : State := { s with cfg := { s.cfg with job := some { j with step := j.step + 1 } } }
  match j.step with
  | 0 => eraseSlot next j.slotB
  | 1 => flashWrite next (slotBase j.slotB + 64) j.body
  | _ =>
    let s := flashWrite s (slotBase j.slotB) j.header
    if (validSlot s j.slotB).isNone then flashDone s j false
    else match j.again with
      | some h => { s with cfg := { s.cfg with job := some { j with step := 0, slotB := !j.slotB, header := h, again := none } } }
      | none => flashDone s j true

/-- A tick of the flash write in progress. (DEDUCED, log entry 43) -/
def flashTick (s : State) : State :=
  match s.cfg.job with
  | some j => flashStep s j
  | none => s

/-- Whether a world may write a slot now: in recovery only management (R89). (DEDUCED, log entry 43) -/
def mayWriteSlot (s : State) (x : Session) : Bool := !s.cfg.recovery || x.world == .mgmt

/-- CONFIG_UPDATE (R90). -/
def configUpdateEff (id : Nat) (c : Started) (s : State) : Eff :=
  let x := sessionOf s c
  let a := wd2 c.words 8
  if !mayWriteSlot s x then .fail .world s
  else if s.cfg.job.isSome then .fail .busy s
  else if usedSeq s = 0xFFFFFFFE then .fail .sequenceExhausted s
  else match spaceCheck x (some .hub) a.toNat 64 with
    | some e => .fail e s
    | none => match readSpace s x .hub a 64 with
      | (s, none) => .fail .badOperand s
      | (s, some h) =>
        let len := leField h 8 4
        if len < 64 ∨ slotSize < len then .fail .badOperand s
        else match spaceCheck x (some .hub) a.toNat len with
          | some e => .fail e s
          | none => match readSpace s x .hub (a + 64) (len - 64) with
            | (s, none) => .fail .badOperand s
            | (s, some body) =>
              let j : FlashJob := { cmd := id, slotB := !s.cfg.selected, header := withSeq h (usedSeq s + 1), body := body }
              .wait .configWrite { s with cfg := { s.cfg with job := some j } }

/-- CONFIG_UPDATE. -/
def execConfigUpdate (q : Nat) (s : State) : Host.Outcome State Fault Refusal := runCommand 0x44 q configUpdateEff s

/-- The slot in use with its TRIMS section replaced, or with one added at its end. -/
def withTrims (s : State) (t : Bytes) : Bytes :=
  let i := if s.cfg.recovery then bslice (toLE 0x47464342 4 ++ zeros 4 ++ toLE 64 4) 0 64 else slotImage s s.cfg.selected
  let h := bslice i 0 64
  match (sectionHeads h).find? fun x => x.1 == 4 with
  | some x => bput i x.2 t
  | none =>
    let len := leField h 8 4
    let n := leField h 12 2
    let h := bput (bput (bput (bput h 8 (toLE (len + 48) 4)) 12 (toLE (n + 1) 2)) (16 + 8 * n) (toLE 4 2)) (20 + 8 * n) (toLE len 4)
    h ++ i.drop 64 ++ t

/-- TRIM_WRITE (R91). -/
def trimWriteEff (id : Nat) (c : Started) (s : State) : Eff :=
  let x := sessionOf s c
  let a := wd2 c.words 8
  let n := usedSeq s
  if s.cfg.job.isSome then .fail .busy s
  else if n ≥ 0xFFFFFFFD then .fail .sequenceExhausted s
  else match spaceCheck x (some .hub) a.toNat 48 with
    | some e => .fail e s
    | none => match readSpace s x .hub a 48 with
      | (s, none) => .fail .badOperand s
      | (s, some t) =>
        let i := withTrims s t
        let h := bslice i 0 64
        let j : FlashJob := { cmd := id, slotB := !s.cfg.selected, header := withSeq h (n + 1), body := i.drop 64
                              again := some (withSeq h (n + 2)) }
        .wait .configWrite { s with cfg := { s.cfg with job := some j } }

/-- TRIM_WRITE. -/
def execTrimWrite (q : Nat) (s : State) : Host.Outcome State Fault Refusal := runCommand 0x45 q trimWriteEff s

end Sys2Proof.Machine
end

