-- ==== Sys2Proof/Machine/Keys.lean ====
section
/-! DEFINITION. Key commands (R124, R126 to R132, Table 5.6); what KEY_STAGE and KEY_DERIVE do stands in KeyOps.lean. -/

namespace Sys2Proof.Machine

/-- KEY_STAGE. (DEDUCED, log entry 25) -/
def execKeyStage (q : Nat) (s : State) : Host.Outcome State Fault Refusal := runCommand 0x28 q keyStageEff s

/-- The shadow of a slot after a check that failed (Table 5.6). -/
def dropShadow (k : Slot) : Slot := if k.state = .staged then {} else { k with shadow := .empty, shadowKey := [] }

/-- KEY_CHECK. (DEDUCED, log entry 25) -/
def keyCheckEff (_id : Nat) (c : Started) (s : State) : Eff :=
  let i := fld (wd c.words 8) 7 0
  match namedSlot s (sessionOf s c) i with
  | .error e => .reject e s
  | .ok k =>
    if k.shadow ≠ .staged then .reject keySlotState s
    else if kcv k.shadowKey = wd c.words 9 then .good (updSlot s i fun k => { k with shadow := .checked })
    else .reject keyKcvMismatch (updSlot s i dropShadow)

/-- KEY_CHECK. -/
def execKeyCheck (q : Nat) (s : State) : Host.Outcome State Fault Refusal := runCommand 0x29 q keyCheckEff s

/-- The halves of a slot swapped; a LIVE slot's old key drains in the shadow (R130). -/
def commitSlot (k : Slot) : Slot :=
  let (m, w, u, l, o) := k.shadowAttr
  let n := { k with key := k.shadowKey, masters := m, worlds := w, use := u, lcmask := l, owner := o, state := .live, users := [] }
  if k.state = .live then settleSlot { n with shadow := .draining, shadowKey := k.key, shadowUsers := k.users }
  else { n with shadow := .empty, shadowKey := [] }

/-- KEY_COMMIT. (DEDUCED, log entry 25) -/
def keyCommitEff (_id : Nat) (c : Started) (s : State) : Eff :=
  let i := fld (wd c.words 8) 7 0
  match namedSlot s (sessionOf s c) i with
  | .error e => .reject e s
  | .ok k => if k.shadow ≠ .checked then .reject keySlotState s else .good (updSlot s i commitSlot)

/-- KEY_COMMIT. -/
def execKeyCommit (q : Nat) (s : State) : Host.Outcome State Fault Refusal := runCommand 0x2A q keyCommitEff s

/-- KEY_RETIRE: completes when both halves are released and zeroized. (DEDUCED, log entry 25) -/
def keyRetireEff (_id : Nat) (c : Started) (s : State) : Eff :=
  let i := fld (wd c.words 8) 7 0
  match namedSlot s (sessionOf s c) i with
  | .error e => .reject e s
  | .ok k =>
    if k.state = .live ∨ k.state = .staged then .wait (.keyRetire i) (updSlot s i retireSlot) else .reject keySlotState s

/-- KEY_RETIRE. -/
def execKeyRetire (q : Nat) (s : State) : Host.Outcome State Fault Refusal := runCommand 0x2B q keyRetireEff s

/-- KEY_DERIVE. (DEDUCED, log entry 25) -/
def execKeyDerive (q : Nat) (s : State) : Host.Outcome State Fault Refusal := runCommand 0x2C q keyDeriveEff s

end Sys2Proof.Machine
end

