-- ==== Sys2Proof/Machine/SelfTest.lean ====
section
/-! DEFINITION. What self-test found and what the hub makes of it: the record in flash (R446, R447, R449), soft repair (R448), and
the in-service bits (R39). -/

namespace Sys2Proof.Machine

/-! ## Failure entries (Table 17.4) -/

/-- KIND. -/
def failKind (f : BitVec 64) : Nat := fld f 63 60
/-- UNIT. -/
def failUnit (f : BitVec 64) : Nat := fld f 59 56
/-- INSTANCE. -/
def failInst (f : BitVec 64) : Nat := fld f 55 48
/-- ELEMENT. -/
def failElement (f : BitVec 64) : Nat := fld f 47 40
/-- REPAIR. -/
def failRepair (f : BitVec 64) : Nat := fld f 1 0

/-- An entry whose failure has no spare left. -/
def noSpare (f : BitVec 64) : BitVec 64 := (f &&& ~~~3) ||| 2

/-- A lane by UNIT, instance and number. -/
structure Lane where
  unit : Nat
  inst : Nat
  lane : Nat
deriving DecidableEq, Repr

/-- The spares' group of a lane: a lane group of an MPE, a direction of a port or of the HPE (R412, R448). (DESIGN
CHOICE, log entry 44) -/
def laneGroup (l : Lane) : Nat := if l.unit = 1 then l.lane / 20 else if l.unit = 2 then l.lane / 9 else l.lane / 18

/-- Spares of a group. (DESIGN CHOICE, log entry 44) -/
def laneSpares (l : Lane) : Nat := if l.unit = 3 then 2 else 1

/-- Whether two lanes share their spares. -/
def sameGroup (a b : Lane) : Bool := a.unit == b.unit && a.inst == b.inst && laneGroup a == laneGroup b

/-- The lane of a failure entry. -/
def failLane (f : BitVec 64) : Lane := { unit := failUnit f, inst := failInst f, lane := failElement f }

/-- Lanes marked under R33 since the last start. -/
def markedLanes (s : State) : List Lane :=
  s.mpes.flatMap (fun e => e.2.marked.map fun l => { unit := 1, inst := e.1, lane := l })
    ++ s.ports.flatMap (fun e => e.2.marked.map fun l => { unit := 2, inst := e.1, lane := l })
    ++ s.hpe.marked.map fun l => { unit := 3, inst := 0, lane := l }

/-- Lanes to substitute, taken in order as long as their group has a spare, and those without one. -/
def substitute (ls : List Lane) : List Lane × List Lane :=
  ls.foldl
    (fun (x : List Lane × List Lane) l =>
      if x.1.contains l ∨ x.2.contains l then x
      else if (x.1.filter (sameGroup l)).length < laneSpares l then (x.1 ++ [l], x.2) else (x.1, x.2 ++ [l])) ([], [])

/-- The entries with REPAIR as soft repair leaves it. -/
def repaired (bad : List Lane) (fails : List (BitVec 64)) : List (BitVec 64) :=
  fails.map fun f => if failKind f = 1 ∧ bad.contains (failLane f) then noSpare f else f

/-! ## In-service bits (R39, Tables 1.14 and 1.15) -/

/-- Instances held out: failures without a spare, and what lies behind mortar links that are down. -/
def heldOut (s : State) (fails : List (BitVec 64)) : List Nat :=
  (fails.filterMap fun f => if failRepair f = 2 then unitBit (failUnit f) (failInst f) else none) ++ s.linksDown.flatMap linkBits

/-- Soft repair (R448): failing and marked lanes take the spares of their groups, which then check no more; what cannot be
repaired is held out. -/
def applyRepairs (s : State) (fails : List (BitVec 64)) : State :=
  let (good, bad) := substitute (markedLanes s ++ (fails.filter fun f => failKind f == 1).map failLane)
  let fails := repaired bad fails
  let lost := bad.filter fun l => !(fails.any fun f => failKind f == 1 && failLane f == l)
  let out := heldOut s fails ++ lost.filterMap fun l => unitBit l.unit l.inst
  let groups (m : Nat) : List Nat := ((good.filter fun l => l.unit == 1 && l.inst == m).map laneGroup).eraseDups
  let s := (List.range 8).foldl (fun s m => updMpe s m fun x => { x with marked := [], resetGroups := groups m }) s
  let s := (List.range 32).foldl
    (fun s p => updPort s p fun x => { x with marked := [], unchecked := ((good.filter fun l => l.unit == 2 && l.inst == p).map laneGroup).eraseDups }) s
  { s with hpe := { s.hpe with marked := [] }
           bist := { s.bist with fails := fails }
           unitOk0 := serviceMask out 0 32, unitOk1 := serviceMask out 32 10 }

/-- A failure in the masked datapath of the GCE or the KDF takes the block into dry-down (R425, R448). -/
def bistLadder (s : State) : State := if s.bist.fails.any fun f => failKind f == 5 then enterDry s 0x7C unitHub else s

/-! ## The record (R447, R449) -/

/-- The failures of the record in flash, when it may be used. -/
def readRecord (s : State) : Option (List (BitVec 64)) :=
  let b := flashRead s recordAddr 592
  match trimKey s with
  | none => none
  | some k =>
    if s.cfg.bigFlash ∧ leField b 0 4 = 0x54534942 ∧ leField b 4 4 = 0xFFFFFFFF
        ∧ cmac k (bslice b 0 4 ++ bslice b 8 568) = bslice b 576 16 ∧ bslice b 8 48 = toBE s.cfg.fwDigest.toNat 48 then
      some ((List.range (Nat.min 64 (leField b 56 1))).map fun i => BitVec.ofNat 64 (leField b (64 + 8 * i) 8))
    else none

/-- CONSUMED programmed to zero. -/
def consumeRecord (s : State) : State := if s.cfg.bigFlash then flashWrite s (recordAddr + 4) (zeros 4) else s

end Sys2Proof.Machine
end

