-- ==== Sys2Proof/Machine/Power.lean ====
section
/-! DEFINITION. Power states (R440 to R445, R449): POWER_STATE, wake events, the VID handshake and what a wake restores; the
temperature sources (R451); and the tick of the block. -/

namespace Sys2Proof.Machine

/-! ## POWER_STATE -/

/-- POWER_STATE (R441). (DEDUCED, log entry 42) -/
def powerStateEff (id : Nat) (c : Started) (s : State) : Eff :=
  let n := fld (wd c.words 8) 1 0
  if inDry s then .reject 0x02 s
  else if n = 0 then .good s
  else if n = 3 ∧ !lcAdmits s maskPFS then .reject 0x04 s
  else if s.cfg.job.isSome then .reject 0x03 s
  else
    let s := if n = 3 then endGrant s else s
    .wait (.wakeUp n) { s with pwr := { s.pwr with entry := some { cmd := id, target := n, since := s.time } } }

/-- POWER_STATE. -/
def execPowerState (q : Nat) (s : State) : Host.Outcome State Fault Refusal := runCommand 0x46 q powerStateEff s

/-! ## Waking (R445, R449) -/

/-- Streams of a port that a wake finds gone: their requests are lost, and the entries close. -/
def dropStreams (s : State) (p : Nat) : State :=
  (streamsWhere s fun q _ => q == p).foldl (fun s pe => closeEntry (unqueue (loseOutstanding s pe.1 pe.2) pe.1 pe.2) pe.1 pe.2) s

/-- A port after a wake: NO_LINK if it was enabled, else DISABLED. (DEDUCED, log entry 42) -/
def wakePort (s : State) (p : Nat) : State :=
  let s := updPort (dropStreams s p) p fun x => { x with linkUp := false, egress := [] }
  setPortState s p (if s.pwr.portsOn.contains p ∨ (getPort s p).state ≠ .disabled then .noLink else .disabled)

/-- TLBs empty, frame counters restarted at phases that are open. (DEDUCED, log entry 54) -/
def wakeEngines (s : State) : State :=
  let s := { s with mpeKeys := true, otus := tmap s.otus fun _ o => { o with tlb := [] } }
  (List.range 8).foldl
    (fun s m => let (s, k) := drawNat s; updMpe s m fun x => { x with slot := 0, phase := BitVec.ofNat 10 k }) s

/-- A key of the B3 state image given back: unwrapped under slot 3. -/
def unwrapHalf (kek k : Bytes) : Bytes := if k.isEmpty then [] else (kwUnwrap kek k).getD []

/-- Keys after B3: the base slots again, and the numbered slots of the state image, with no users (R147, R445). An image that
stack 0 can no longer give back, or that differs from its digest, is a FW_SELFCHECK dry-down. -/
def wakeKeys (s : State) : State :=
  let s := loadLayers (loadRoots s)
  let kek := (getSlot s 3).key
  let image := s.pwr.image.getD []
  let kept := image.map fun e =>
    (e.1, { e.2 with key := unwrapHalf kek e.2.key, shadowKey := unwrapHalf kek e.2.shadowKey, users := [], shadowUsers := [] })
  let good : Bool := s.pwr.imageDigest == imageDigest image
  let s := { s with pwr := { s.pwr with image := none } }
  if (getMpe s 0).capState = 2 ∨ !good then enterDry s 0x7B unitHub else { s with slots := s.slots ++ kept }

/-- The repairs of the record that B3 entry wrote (R449). -/
def wakeRepairs (s : State) : State :=
  match readRecord s with
  | some f => bistLadder (consumeRecord (applyRepairs s f))
  | none => consumeRecord s

/-- What a wake from B-state `b` restores. -/
def restoreFrom (s : State) (b : Nat) : State :=
  let s := wakeEngines ((s.ports.map (·.1)).foldl wakePort s)
  let s := if b ≥ 2 then (List.range 8).foldl capstoneRestore s else s
  let s := if b = 3 then wakeRepairs (wakeKeys s) else s
  let s := if b ≥ 2 then (s.accords.map (·.1)).foldl loadPins s else s
  { s with pwr := { s.pwr with portsOn := [] } }

/-- What woke the block, applied after the wake (R442). -/
def applyWoken (s : State) : State :=
  let p := s.pwr
  let s := { s with pwr := { s.pwr with wokenDb := [], wokenHost := [], wokenReq := [] } }
  let s := p.wokenDb.foldl (fun s e => doorbellNow s e.1 e.2) s
  let s := p.wokenHost.foldl (fun s e => hostDoorbell s e.1 e.2) s
  p.wokenReq.foldl (fun s e => stamp s e.1 e.2) s

/-- The rail is up again: the block is back in B0, and POWER_STATE completes. PWR_TIMES holds a measured time, open
here. (DEDUCED, log entry 42) -/
def wakeDone (s : State) (source : Nat) : State :=
  let b := s.pwr.current
  let (s, k) := drawNat s
  let s := { s with pwr := { s.pwr with current := 0, waking := none, wakeSource := source, wake10us := BitVec.ofNat 16 k }
                    bec := { s.bec with latched := [] } }
  let s := restoreFrom s b
  applyWoken (pulse (endSleep s source) 8)

/-- VID_ACK (R444): the rail has settled at the code asked for. (DEDUCED, log entry 42) -/
def vidAck (s : State) : State :=
  match s.pwr.vidReq with
  | none => s
  | some v =>
    let s := { s with pwr := { s.pwr with vid := v, vidReq := none } }
    match s.pwr.entering, s.pwr.waking with
    | some n, w =>
      let (s, k) := drawNat s
      let s := { s with pwr := { s.pwr with entering := none, current := n, last := n, entry10us := BitVec.ofNat 16 k } }
      if w.isSome then { s with pwr := { s.pwr with vidReq := some (vidCode s 0) } } else s
    | none, some source => wakeDone s source
    | none, none => s

/-- VID_ACK. -/
def execVidAck (s : State) : Host.Outcome State Fault Refusal :=
  if s.up ∧ s.pwr.vidReq.isSome then .next (settleAll (vidAck s)) else .next s

/-- Whether a source may wake the block: enabled, with its WAKE bit. -/
def mayWake (s : State) (n : Nat) : Bool := let c := tgetD s.bec.cfg n 0; bit c 31 && bit c 28

/-- WAKE: a wake event, of a source or of a host access (R442). -/
def wake (s : State) (source : Option Nat) : State :=
  match source with
  | none => takeWake s noSource
  | some n => if mayWake s n then takeWake { s with bec := { s.bec with latched := mark s.bec.latched n true } } n else s

/-- WAKE; a block that is awake does not wake. -/
def execWake (source : Option Nat) (s : State) : Host.Outcome State Fault Refusal :=
  if s.up ∧ asleep s then .next (settleAll (wake s source)) else .next s

/-- AON_WAKE: the always-on message (Table 16.9). -/
def execAonWake (s : State) : Host.Outcome State Fault Refusal :=
  if s.aon.up then .next (settleAll (takeWake (aonRespond s 0x05 0x00 []) noSource)) else .next s

/-- TEMPERATURE_THRESHOLD: the hottest sensor, against the limits of the trims in force (R451, Table 17.1). -/
def execTemperatureThreshold (celsius : Nat) (s : State) : Host.Outcome State Fault Refusal :=
  .next (settle { s with pwr := { s.pwr with temp := celsius } })

/-! ## The tick -/

/-- What the block does while no command waits: a microsecond passes, requests that a watch held go on, the job that the GCE runs ends, the
flash write takes its next step, units under rung 1 are ready again, and what was waiting for time completes. (DESIGN CHOICE, log entries
2, 26 and 50) -/
def idle (s : State) : State := if running s then settleAll (flashTick (endJob (endRung1 (releaseHolds (tick s))))) else tick s

end Sys2Proof.Machine
end

