-- ==== Sys2Proof/Machine/Start.lean ====
section
/-! DEFINITION. Block start (R447): slot selection (R88, R89), keys (R122, R390), self-test (R446 to R448), the format of every stack
(R166); and the entropy source (R144, R145). -/

namespace Sys2Proof.Machine

/-! ## Slot selection (R89) -/

/-- The slots read, one chosen, and its sections in force. (The VERSION of a BOND_POLICY or TRIMS section is not tested: DESIGN
CHOICE, log entry 86.) -/
def selectSlot (s : State) : State :=
  let a := validSlot s false
  let b := validSlot s true
  let seq (x : Option Bytes) : Option Word := x.map headerSeq
  let useB : Bool := match a, b with
    | some x, some y => (headerSeq x).toNat < (headerSeq y).toNat
    | none, some _ => true
    | _, _ => false
  let image := (if useB then b else a).getD []
  let fw := sectionOf image 1
  { s with cfg := { s.cfg with
      recovery := a.isNone && b.isNone, seqA := seq a, seqB := seq b, selected := useB
      fwDigest := (fw.map fun x => sha384W (Config.firmwareImage x)).getD 0
      svn := (fw.map fun x => BitVec.ofNat 8 (Config.firmwareSvn x)).getD 0
      trust := sectionOf image 2, policy := sectionOf image 3, trims := sectionOf image 4 } }

/-! ## BLOCK_START -/

/-- Every key the block starts with, and the DeviceID copy of the always-on island (R122, R390, R431). (DESIGN CHOICE,
log entry 48) -/
def startKeys (s : State) : State :=
  let s := { startDrbg s with mpeKeys := true }
  let s := loadLayers (selectSlot (drawBase (loadRoots s)))
  { s with aon := { s.aon with deviceKey := (lcClass s).map (cdi0 s) } }

/-- Every stack formatted, with its frame phase, which is open (R70, R166). -/
def startStacks (s : State) : State :=
  (List.range 8).foldl
    (fun s m => let (s, k) := drawNat s; updMpe (formatStack s m) m fun x => { x with phase := BitVec.ofNat 10 k }) s

/-- Self-test skipped for a good record, or run now with what it found (R447). -/
def startTest (s : State) (failures : List (BitVec 64)) : State :=
  let r := readRecord s
  let fails := r.getD (failures.take 64)
  let last : BitVec 2 := if r.isSome then 0 else if failures.isEmpty then 1 else 2
  let s := applyRepairs (consumeRecord s) fails
  { s with bist := { s.bist with lastStart := last, record := r.isSome } }

/-- Port modes by the policy in force, with the stages of the gateway ports reserved (R237). -/
def startPorts (s : State) : State :=
  let mask := (s.cfg.policy.map fun b => leField b 4 4).getD 0
  (List.range 32).foldl
    (fun s p => let g : Bool := mask / 2 ^ p % 2 == 1; updPort s p fun x => { x with gateway := g, stages := g }) s

/-- The start of the block from reset, whatever brought it there. A block that was in dry-down starts in it (R428).
(DEDUCED, log entry 54) -/
def blockStart (s : State) (failures : List (BitVec 64)) : State :=
  let s := downState { s with aon := { s.aon with chipResetReq := false } } []
  let s := startPorts (startTest (startStacks (startKeys s)) failures)
  newNonce (bistLadder { s with up := true })

/-- BLOCK_START: after reset, once the always-on island runs; also the start that a chip reset request leads to.
(DESIGN CHOICE, log entry 48) -/
def execBlockStart (failures : List (BitVec 64)) (s : State) : Host.Outcome State Fault Refusal :=
  if s.aon.up ∧ (!s.up ∨ s.aon.chipResetReq) then .next (settle (blockStart s failures)) else .next s

/-! ## The entropy source (R144, R145) -/

/-- APT_CUTOFF of the trims in force, the adaptive proportion test's cutoff, or its ROM default (R144, Table 17.5). -/
def proportionLimit (s : State) : Nat :=
  match s.cfg.trims with
  | some b => leField b 2 2
  | none => 796

/-- The DRBG stops, and jobs of the GCE end (R145, R352). -/
def entropyStop (s : State) : State :=
  raise (failJobs { s with entropyFail := true, drbgReady := false }) { code := 0x61, unit := unitHub }

/-- ENTROPY_FAIL: the continuous tests on the 1,024 raw bits the source gave last; where one fails, the DRBG stops. (DEDUCED,
log entry 3) -/
def execEntropyFail (bits : BitVec 1024) (s : State) : Host.Outcome State Fault Refusal :=
  if running s ∧ !s.entropyFail ∧ noiseFails (proportionLimit s) bits then .next (settleAll (entropyStop s)) else .next s

/-- DRBG_RESEED: fresh entropy is mixed in, and requests that waited for it are served (R145). -/
def execDrbgReseed (s : State) : Host.Outcome State Fault Refusal :=
  if running s ∧ s.drbgReady then .next (settleAll (reseedDrbg s)) else .next s

/-- ENTROPY_SOURCE_RESTART: the source restarted, its first 1,024 raw bits tested; where they pass, the DRBG serves again (R144, R145).
(DEDUCED, log entry 3) -/
def execEntropySourceRestart (bits : BitVec 1024) (s : State) : Host.Outcome State Fault Refusal :=
  if running s ∧ s.entropyFail ∧ !noiseFails (proportionLimit s) bits then .next (settleAll (startDrbg s)) else .next s

end Sys2Proof.Machine
end

