-- ==== Sys2Proof/Machine/RegRead.lean ====
section
/-! DEFINITION. What the registers of the window read as (R4, R5, R36 and the register tables of every chapter). Nothing here changes
state: the reads that do are in Registers.lean. -/

namespace Sys2Proof.Machine

/-! ## Selection registers and captured halves -/

/-- Key of a world's copy of a register. (DESIGN CHOICE, log entry 35) -/
def worldKey (w : World) (off : Nat) : Nat := worldNum w * 2 ^ 24 + off

/-- A world's copy of a selection register. (DESIGN CHOICE, log entry 35) -/
def selOf (s : State) (w : World) (off : Nat) : Word := tgetD s.sels (worldKey w off) 0

/-- A captured half (R118). (DESIGN CHOICE, log entry 35) -/
def capOf (s : State) (w : World) (off : Nat) : Word := tgetD s.caps (worldKey w off) 0

/-- Bits 31:0 of a wide value. -/
def loHalf (n : Nat) : Word := BitVec.ofNat 32 (n % 2 ^ 32)
/-- Bits 63:32 of a wide value. -/
def hiHalf (n : Nat) : Word := BitVec.ofNat 32 (n / 2 ^ 32 % 2 ^ 32)

/-! ## The HUB frame -/

/-- Number of objects of a type (Tables 4.16 and 4.17). -/
def objCount (s : State) : ObjType → Nat
  | .session => s.sessions.length | .queue => s.queues.length | .fence => s.fences.length
  | .region => s.regions.length | .bond => s.bonds.length | .key => s.keyObjs.length

/-- STATE of an accord. -/
def accordStateNum : AccordState → Nat
  | .free => 0 | .composing => 1 | .live => 2 | .retiring => 3

/-- HUB_ACCORD_STATUS (Table 2.9). A resource in DRAIN or ERASE is bound no more and does not count (DEDUCED, log entry 83). ROOT and OPEN
read as LIVE, and not RESIDENT, since they take no entry of the hot set (DEDUCED, log entry 84). -/
def accordStatus (s : State) (a : Nat) : Word :=
  let x := getAccord s a
  let resident : Bool := a ≥ 2 && isResident s a
  let mine (r : Res) : Bool := r.state == .bound && r.owners.contains a
  let bound (k : ResKind) : Nat := ((resTab s k).filter fun e => mine e.2).length
  let stackBits := ((List.range 8).filter fun n => s.channels.any fun c => c.1 / 32 == n && mine c.2).foldl (fun m n => m + 2 ^ n) 0
  pack [ (accordStateNum x.state, 28), (b2n x.scheduled, 27), (b2n resident, 26), (b2n (x.scheduled && resident), 25)
       , (b2n x.shortfall, 24), (stackBits, 16), (bound .coreGroup % 512, 7), (bound .port % 128, 0) ]

/-- The resource that a HUB_RES_SEL value names. -/
def resOfSel (w : Word) : Option (ResKind × Nat) :=
  match fld w 31 30 with
  | 0 => some (.channel, fld w 7 0)
  | 1 => if fld w 7 0 < 32 then some (.port, fld w 7 0) else none
  | 2 => some (.coreGroup, fld w 7 0)
  | _ => none

/-- STATE of a resource. -/
def resStateNum : ResState → Nat
  | .free => 0 | .bound => 1 | .drain => 2 | .erase => 3

/-- HUB_RES_STATUS (Table 2.12). OWNER of a port that several accords share is the one bound first (DESIGN CHOICE, log entry 85). -/
def resStatus (s : State) (w : World) : Word :=
  match resOfSel (selOf s w 0x110) with
  | none => 0
  | some (k, i) =>
    let r := getRes s k i
    let excl : Bool := if k = .port then r.exclusive else r.state == .bound
    pack [ (resStateNum r.state, 29), (b2n r.scrub.isSome, 28), (b2n r.pending.isSome, 27), (b2n excl, 26)
         , ((r.pending.map (·.accord)).getD 0, 10), (if r.state = .free then 0 else r.owners.head?.getD 0, 0) ]

/-- The fence that a world has selected. -/
def selFence (s : State) (w : World) : Option Fence := tget s.fences (selOf s w 0x210).toNat

/-- STATE of a bond. -/
def bondStateNum : BondState → Nat
  | .free => 0 | .attesting => 1 | .agreeing => 2 | .live => 3 | .stale => 4 | .closing => 5 | .closed => 6

/-- HUB_BOND_STATUS (Table 9.17). -/
def bondStatus (s : State) (b : Nat) : Word :=
  let x := getBond s b
  pack [ (bondStateNum x.state, 29), (b2n x.initiator, 28), (x.version % 16, 24)
       , (b2n (x.flipping || x.rxFlipping || x.reagreeing), 23), ((bondStreams s b).length % 32, 17), (x.peer % 65536, 0) ]

/-- HUB_CFG_STATUS (Table 3.9). -/
def cfgStatus (s : State) : Word :=
  pack [ (b2n s.cfg.job.isSome, 7), (b2n s.cfg.recovery, 6), (b2n s.cfg.seqB.isSome, 5), (b2n s.cfg.seqA.isSome, 4)
       , (b2n s.cfg.selected, 0) ]

/-- HUB_S2_STATUS of a world (Table 11.12). -/
def s2Status (s : State) (w : World) : Word :=
  match mailbox s w with
  | some m => pack [(b2n m.busy, 31), (m.code.toNat, 16), (s.extents.length % 2 ^ 15, 0)]
  | none => 0

/-- PQ_BOUND (Table 15.8). -/
def pqBound (s : State) : Bool := s.mgmt.sec == .bound

/-- The HUB frame. -/
def readHub (s : State) (w : World) (off : Nat) : Word :=
  let fence := selFence s w
  let bond := (selOf s w 0x300).toNat
  match off with
  | 0x000 => 0xB10E1300 + s.stepping.setWidth 32
  | 0x004 => 0x00001111
  | 0x008 => if s.cfg.recovery then 0 else s.fwVersion
  | 0x00C => pack [(8, 28), (8, 24), (32, 17), (16, 11), (10, 7)]
  | 0x010 => if inDry s then 0 else s.unitOk0
  | 0x014 => if inDry s then s.unitOk1 &&& 0x300 else s.unitOk1
  | 0x100 => selOf s w off
  | 0x104 => accordStatus s (selOf s w 0x100).toNat
  | 0x108 => (getAccord s (selOf s w 0x100).toNat).gid
  | 0x110 => selOf s w off
  | 0x114 => resStatus s w
  | 0x118 => s.scrubRate.setWidth 32
  | 0x140 => cfgStatus s
  | 0x144 => s.cfg.seqA.getD 0xFFFFFFFF
  | 0x148 => s.cfg.seqB.getD 0xFFFFFFFF
  | 0x200 => pack [(objCount s .session % 2 ^ 13, 16), (objCount s .queue % 2 ^ 11, 0)]
  | 0x204 => pack [(s.foreignDb % 256, 24), (objCount s .fence % 2 ^ 17, 0)]
  | 0x210 => selOf s w off
  | 0x214 => (fence.map fenceStatus).getD 0
  | 0x218 => (fence.map fun f => loHalf f.value.toNat).getD 0
  | 0x21C => capOf s w off
  | 0x220 => (fence.map fun f => pack [(f.href % 65536, 16), (f.dref % 65536, 0)]).getD 0
  | 0x300 => selOf s w off
  | 0x304 => bondStatus s bond
  | 0x308 => (getBond s bond).mask
  | 0x30C => pack [((getBond s bond).rxGen % 65536, 16), ((getBond s bond).txGen % 65536, 0)]
  | 0x400 => ((mailbox s w).map fun m => loHalf m.desc.toNat).getD 0
  | 0x404 => ((mailbox s w).map fun m => hiHalf m.desc.toNat).getD 0
  | 0x40C => s2Status s w
  | 0x500 =>
    pack [(b2n (mgmtSession s), 31), (b2n (pqBound s), 30), (s.mgmt.unread.length % 128, 16), (s.mgmt.sessions % 65536, 0)]
  | 0x504 => if mgmtSession s then BitVec.ofNat 32 (leField (toBE s.mgmt.reqDigest.toNat 48) 0 4) else 0
  | _ => if 0x120 ≤ off ∧ off < 0x140 then (getMpe s ((off - 0x120) / 4)).phase.setWidth 32 else 0

/-! ## LCC, KSF, KDF, GCE, CVU -/

/-- The LCC frame (Table 14.10). -/
def readLcc (s : State) (off : Nat) : Word :=
  match off with
  | 0x00 => lccStateWord s
  | 0x08 => s.lcc.code.setWidth 32
  | _ => if 0x10 ≤ off ∧ off < 0x20 then BitVec.ofNat 32 (s.otp.serial.toNat / 2 ^ (8 * (off - 0x10))) else 0

/-- STATE of a slot. -/
def slotStateNum : SlotState → Nat
  | .empty => 0 | .staged => 1 | .live => 2 | .retiring => 3
/-- SHADOW of a slot. -/
def shadowNum : ShadowState → Nat
  | .empty => 0 | .staged => 1 | .checked => 2 | .draining => 3

/-- Slots in use between two numbers. -/
def slotsUsed (s : State) (lo limit : Nat) : Nat := (s.slots.filter fun e => lo ≤ e.1 && e.1 < limit && e.2.state != .empty).length

/-- The KSF frame (Tables 5.12 to 5.17). -/
def readKsf (s : State) (w : World) (off : Nat) : Word :=
  let i := (selOf s w 0x20004).toNat
  let k := getSlot s i
  match off with
  | 0x00 => pack [(b2n s.rootsLoaded, 31), (slotsUsed s 64 256, 16), (slotsUsed s 16 64, 8), (slotsUsed s 0 16, 0)]
  | 0x04 => selOf s w 0x20004
  | 0x08 =>
    pack [ (slotStateNum k.state, 30), (shadowNum k.shadow, 28), (if k.state = .empty then 0 else lenCode (if k.key = [] then k.shadowKey else k.key), 26)
         , (k.use.toNat, 19), (k.worlds.toNat, 14), (k.masters.toNat, 0) ]
  | 0x0C => pack [(k.lcmask.toNat, 16), (k.owner % 1024, 0)]
  | 0x10 => if k.state = .empty ∨ k.key = [] ∨ i ≤ 4 ∨ (8 ≤ i ∧ i ≤ 10) then 0 else kcv k.key
  | 0x14 => pack [(k.shadowUsers.length % 65536, 16), (k.users.length % 65536, 0)]
  | _ => 0

/-- The KDF frame (Tables 5.18 and 5.19). -/
def readKdf (s : State) (off : Nat) : Word :=
  let res := residents s
  match off with
  | 0x00 =>
    pack [ (b2n s.drbgReady, 23), (b2n s.entropyFail, 22), (res.length % 128, 15)
         , ((res.filter fun a => (getAccord s a).scheduled).length % 64, 9) ]
  | 0x04 => pack [(s.fills.toNat, 16), (s.spills.toNat, 0)]
  | _ => 0

/-- The GCE frame (Table 13.5). -/
def readGce (s : State) (off : Nat) : Word :=
  match off with
  | 0x00 => pack [ (b2n s.gce.running.isSome, 31), ((s.gce.running.map fun r => leField r.desc 0 1 % 128).getD 0, 24)
                 , (Nat.min s.gce.jobs.length 65535, 0) ]
  | 0x04 => BitVec.ofNat 32 s.gce.done
  | 0x08 => pack [(s.gce.tagFailed % 65536, 16), (s.gce.other % 65536, 0)]
  | _ => 0

/-- The CVU frame (Table 13.6). -/
def readCvu (s : State) (w : World) (off : Nat) : Word :=
  let c := getCvu s (off / 0x100)
  if off / 0x100 ≥ 4 then 0
  else match off % 0x100 with
    | 0x00 => c.poly.setWidth 32
    | 0x10 => loHalf c.value.toNat
    | 0x14 => capOf s w (0x50000 + off)
    | 0x18 => loHalf (cvuResult c)
    | 0x1C => capOf s w (0x50000 + off)
    | 0x20 => c.count
    | _ => 0

/-! ## BEC, FRS, DBG, PWR, BIST -/

/-- BEC_ACK as it reads now. -/
def ackWord (s : State) : Word :=
  match (if s.bec.stack.length < 16 then selected s else none) with
  | some n => pack [(1, 31), (n, 0)]
  | none => 0x1FF

/-- 32 pending bits (BEC_PENDINGk). -/
def pendingWord (s : State) (k : Nat) : Word :=
  BitVec.ofNat 32 (((List.range 32).filter fun j => pendingSource s (32 * k + j)).foldl (fun a j => a + 2 ^ j) 0)

/-- The BEC frame (Table 17.6). -/
def readBec (s : State) (w : World) (off : Nat) : Word :=
  let n := (selOf s w 0x60020).toNat
  let b := s.bec
  match off with
  | 0x000 => pack [(b2n b.enable, 31), (b.rankBits, 0)]
  | 0x004 => pack [(b2n b.frozen, 31), (b.stack.length % 32, 16), (b.stack.head?.getD 0x1FF, 0)]
  | 0x008 => ackWord s
  | 0x020 => selOf s w 0x60020
  | 0x024 => tgetD b.cfg n 0
  | 0x028 => pack [ (b2n (pendingSource s n), 31), (b2n (b.stack.contains n), 30), (b2n (level s n), 29)
                  , (b2n (b.latched.contains n), 28) ]
  | 0x200 => selOf s w 0x60200
  | 0x204 => (getAccord s (selOf s w 0x60200).toNat).ownerEvents.setWidth 32
  | _ => if 0x100 ≤ off ∧ off < 0x140 then pendingWord s ((off - 0x100) / 4) else 0

/-- Whether a rung of at least 3 is starting. -/
def blockRung (s : State) : Bool :=
  (s.frs.due ++ s.frs.active).any fun d => match d with
    | .rung3 _ | .rung4 _ | .rung5 _ => true
    | _ => false

/-- FRS_RUNG_STATUS (Table 16.11). -/
def rungStatus (s : State) : Word :=
  let ones := s.frs.active.any fun d => match d with
    | .rung1 _ => true
    | _ => false
  let accords := (s.frs.active.filter fun d => match d with
    | .rung2 _ => true
    | _ => false).length
  pack [(b2n (blockRung s), 31), (b2n ones, 30), (accords % 1024, 10), (s.frs.lastRung2 % 1024, 0)]

/-- A word of a fault queue entry; an entry that is not valid reads zero. -/
def queueWord (s : State) (off : Nat) : Word :=
  let i := off / 32
  let e := if i = 255 then (s.frs.overflow.map (overflowWords s.frs.ovPhase)).getD [] else tgetD s.frs.entries i []
  wd e (off % 32 / 4)

/-- The FRS frame (Tables 16.10 and 16.11). -/
def readFrs (s : State) (off : Nat) : Word :=
  let r := s.frs
  match off with
  | 0x00 => pack [ (r.head % 256, 24), (r.tail % 256, 16), (r.entries.length % 256, 8), (b2n r.overflow.isSome, 7)
                 , (b2n (r.entries.length ≥ 255), 6) ]
  | 0x04 => pack [(b2n r.ringEnable, 31), (r.ringSpace.toNat, 0)]
  | 0x08 => loHalf r.ring.toNat
  | 0x0C => hiHalf r.ring.toNat
  | 0x10 => r.lostFirst
  | 0x14 => r.lostLast
  | 0x28 => rungStatus s
  | 0x30 => pack [(b2n r.wdogEnable, 31), (r.wdogPeriod.toNat, 0)]
  | 0x38 => BitVec.ofNat 32 r.resetCount
  | 0x3C => dryWord s
  | _ =>
    if 0x18 ≤ off ∧ off < 0x28 then
      let k := (off - 0x18) / 4
      pack [((r.lostClass[2 * k + 1]?).getD 0, 16), ((r.lostClass[2 * k]?).getD 0, 0)]
    else if 0x100 ≤ off ∧ off < 0x140 then BitVec.ofNat 32 (leField r.record (off - 0x100) 4)
    else if 0x200 ≤ off ∧ off < 0x400 then
      let k := (off - 0x200) / 4
      BitVec.ofNat 32 (((List.range 32).filter fun j => r.lostMap.contains (32 * k + j)).foldl (fun a j => a + 2 ^ j) 0)
    else if 0x8000 ≤ off ∧ off < 0xA000 then queueWord s (off - 0x8000)
    else 0

/-- REMAINING of the active grant. -/
def remaining (s : State) (g : Grant) : Nat := g.seconds - (s.time - g.since) / 1000000

/-- DBG_GRANT. -/
def grantWord (s : State) : Word :=
  match s.dbg.grant with
  | none => 0
  | some g => pack [(1, 31), (g.levels.toNat, 27), (g.signer.toNat, 26), (remaining s g, 0)]

/-- STATE of a global stop. -/
def stopNum : StopState → Nat
  | .running => 0 | .stopping => 1 | .stopped => 2 | .scanned => 3

/-- The DEBUG queue of the active grant. -/
def debugQueue (s : State) : Option Nat := s.dbg.grant.bind fun g => (queuesOf s g.session).head?

/-- The DBG frame, but for the aperture (Table 14.11). -/
def readDbg (s : State) (w : World) (off : Nat) : Word :=
  let d := s.dbg
  let issuer : Bool := d.grant.any fun g => g.issuer == w
  let dbgWorld : Bool := w == .debug
  let q := (debugQueue s).bind (tget s.queues ·)
  match off with
  | 0x00 => grantWord s
  | 0x30 => if issuer then d.winAddr else 0
  | 0x40 => if dbgWorld && holdsLevel s levelStop then pack [(stopNum d.stop, 30)] else 0
  | 0x48 => if dbgWorld && holdsLevel s levelStop then loHalf d.scanDest.toNat else 0
  | 0x4C => if dbgWorld && holdsLevel s levelStop then hiHalf d.scanDest.toNat else 0
  | 0x50 => if dbgWorld && holdsLevel s levelWatch then d.watchFence else 0
  | 0x54 => if dbgWorld && holdsLevel s levelWatch then loHalf d.watchDest.toNat else 0
  | 0x58 => if dbgWorld && holdsLevel s levelWatch then hiHalf d.watchDest.toNat else 0
  | 0x5C => if dbgWorld && holdsLevel s levelWatch then BitVec.ofNat 32 d.chunks else 0
  | _ =>
    if 0x10 ≤ off ∧ off < 0x30 then BitVec.ofNat 32 (leField d.nonce (off - 0x10) 4)
    else if dbgWorld ∧ 0x1000 ≤ off ∧ off < 0x1400 then
      (q.map fun x => wd (tgetD x.slots ((off - 0x1000) / 64) []) (off % 64 / 4)).getD 0
    else if dbgWorld ∧ 0x1400 ≤ off ∧ off < 0x1500 then
      (q.map fun x => wd (tgetD x.entries ((off - 0x1400) / 16) []) (off % 16 / 4)).getD 0
    else 0

/-- The PWR frame (Table 17.7). -/
def readPwr (s : State) (off : Nat) : Word :=
  let p := s.pwr
  match off with
  | 0x00 => pack [ (p.current, 30), (p.last, 28), (b2n p.vidReq.isSome, 27), (p.wakeSource % 512, 16), (p.vid.toNat, 0) ]
  | 0x04 => p.vidTable
  | 0x08 => pack [(p.wake10us.toNat, 16), (p.entry10us.toNat, 0)]
  | _ => 0

/-- R450: whether a world reaches the test engine. -/
def testEngineOpen (s : State) (w : World) : Bool :=
  let probe : Bool := 1 ≤ s.lcc.state && s.lcc.state ≤ 4
  (w == .root && probe) || (w == .debug && holdsLevel s levelFull && (probe || s.lcc.state == lcReturn))

/-- The failure entry selected. -/
def selFailure (s : State) : BitVec 64 := (s.bist.fails[s.bist.failSel.toNat]?).getD 0

/-- The BIST frame (Table 17.7). -/
def readBist (s : State) (w : World) (off : Nat) : Word :=
  let b := s.bist
  match off with
  | 0x000 => pack [ (b.lastStart.toNat, 30), (b2n b.record, 29), (b2n (testEngineOpen s w), 28)
                  , (Nat.min 255 b.fails.length, 20) ]
  | 0x004 => b.failSel.setWidth 32
  | 0x008 => loHalf (selFailure s).toNat
  | 0x00C => capOf s w 0xA000C
  | 0x100 => if testEngineOpen s w then b.teCmd else 0
  | 0x104 => if testEngineOpen s w then b.teData else 0
  | _ => 0

/-! ## HPE, MPE, LPE, OTU -/

/-- STATE of a VF. -/
def vfStateNum : VfState → Nat
  | .running => 0 | .quiescing => 1 | .quiesced => 2

/-- HPE_VF_BIND of the selected VF. -/
def vfWord (s : State) (w : World) : Word :=
  let v := getVf s (selectedVf s w)
  pack [(b2n v.bound.isSome, 31), (vfStateNum v.state, 29), (v.accord % 1024, 0)]

/-- The access counter that a world has selected. -/
def selCounter (s : State) (w : World) : Option HostCounter := tget s.hpe.counters (selOf s w 0x1F0508).toNat

/-- An OTU's registers (Table 11.10), at `off` from 0x400. -/
def readOtu (s : State) (n off : Nat) : Word :=
  let o := getOtu s n
  match off with
  | 0x0 => pack [(o.tlb.length % 2 ^ 13, 19), (o.misses.length % 512, 8)]
  | 0x4 => BitVec.ofNat 32 o.hits
  | 0x8 => BitVec.ofNat 32 o.missCount
  | 0xC => pack [(o.timeouts % 65536, 16), (o.faults % 65536, 0)]
  | _ => 0

/-- The HPE frame (Tables 12.8 to 12.11, 11.10 and 11.11). -/
def readHpe (s : State) (w : World) (off : Nat) : Word :=
  let h := s.hpe
  let active (out : Bool) : Nat := (h.active.filter fun x => x.1 == out).length
  match off with
  | 0x00 => loHalf h.pfqRing.toNat
  | 0x04 => hiHalf h.pfqRing.toNat
  | 0x08 => loHalf h.pfqCpl.toNat
  | 0x0C => hiHalf h.pfqCpl.toNat
  | 0x10 => pack [(b2n h.pfqEnable, 31), (h.pfqLog2, 0)]
  | 0x20 => pack [(h.numVfs % 64, 26), (active true % 32, 5), (active false % 32, 0)]
  | 0x24 => selOf s w 0x100024
  | 0x28 => vfWord s w
  | 0x2C => pack [(h.tagFail % 65536, 16), (h.nonceStale % 65536, 0)]
  | 0x30 => BitVec.ofNat 32 h.sessions.length
  | 0x40 => h.moveGid
  | 0x44 => h.moveDpa
  | 0x48 => h.moveDest
  | 0x50 => pack [(b2n h.moveBusy, 31), (b2n h.moveDone, 30), (h.moveCode.toNat, 22), (h.moveInteg % 2 ^ 14, 0)]
  | 0xF0500 => h.hotThresh.setWidth 32
  | 0xF0504 => pack [(b2n (!h.hotFifo.isEmpty), 31), (b2n h.hotOverflow, 30), (h.hotFifo.head?.getD 0 % 2 ^ 14, 0)]
  | 0xF0508 => selOf s w 0x1F0508
  | 0xF050C => ((selCounter s w).map fun c => pack [(1, 31), (c.count % 65536, 0)]).getD 0
  | 0xF0510 => ((selCounter s w).map (·.gid)).getD 0xFFFFFFFF
  | 0xF0514 => ((selCounter s w).map fun c => BitVec.ofNat 32 (c.dpa % 2 ^ 31)).getD 0
  | _ => if 0xF0400 ≤ off ∧ off < 0xF0410 then readOtu s 8 (off - 0xF0400) else 0

/-- A word of a region table entry (Table 6.11). -/
def rtWord (e : RtEntry) (k : Nat) : Word :=
  let sealNum : Nat := match e.sealState with
    | .opened => 0
    | .sealing => 1
    | .sealed => 2
  let r : Bool := e.cls == .r
  match k with
  | 0 => pack [ (1, 31), (clsNum e.cls, 29), (sealNum, 27), (b2n e.sched, 26), (if r then e.epoch % 4 else 0, 24)
              , (if r then e.grants.length % 32 else 0, 19), (e.owner % 1024, 0) ]
  | 1 => pack [(e.id % 65536, 16), (e.f.toNat, 8)]
  | 2 => BitVec.ofNat 32 e.base
  | 3 => BitVec.ofNat 32 e.limit
  | 4 => if r then loHalf e.sealVal.toNat else 0
  | 5 => if r then hiHalf e.sealVal.toNat else 0
  | _ => 0

/-- Next data brick of an epoch pass: the lowest that a channel still has to do. -/
def passNext (p : EpochPass) : Nat :=
  (p.next.map (·.2)).foldl (fun b x => match b with
    | none => some x
    | some y => some (Nat.min x y)) none |>.getD 0

/-- MPE_LOSTk (Table 7.19). -/
def lostWord (m : Mpe) (k : Nat) : Word :=
  match tget m.lost k with
  | none => 0
  | some r => pack [(1, 31), (if r.size = 4 then 0 else if r.size = 32 then 1 else 2, 29), (r.base % 2 ^ 24, 0)]

/-- Store entries that `f` selects. -/
def storeCount (m : Mpe) (f : StoreEntry → Bool) : Nat := (m.store.filter fun e => f e.2).length

/-- MPE `n`'s frame (Tables 6.13 to 6.17, 7.13 to 7.19, 8.14 to 8.16). -/
def readMpe (s : State) (w : World) (n off : Nat) : Word :=
  let m := getMpe s n
  let base := 0x400000 + n * 0x100000
  let rt := tget m.rt (selOf s w (base + 0x10)).toNat
  let cell := tget m.rt (selOf s w (base + 0x1020)).toNat
  let pass := m.passes.head?
  match off with
  | 0x00 => pack [ (m.capState.toNat, 30), (b2n m.formatted, 29), (b2n m.bootReady, 28), (m.sticky.length % 2 ^ 11, 0) ]
  | 0x04 => pack [(m.shadowUses, 16), (m.repairs, 0)]
  | 0x10 => selOf s w (base + 0x10)
  | 0x80 => loHalf m.root.1
  | 0x84 => hiHalf m.root.1
  | 0x88 => loHalf m.root.2
  | 0x8C => hiHalf m.root.2
  | 0x90 => BitVec.ofNat 32 m.ccHits
  | 0x94 => BitVec.ofNat 32 m.ccMisses
  | 0x98 => pack [(m.retryOk, 16), (m.fails, 0)]
  | 0x9C => pack [(m.reencSched, 16), (m.reencInline, 0)]
  | 0xA0 => loHalf m.majorFloor
  | 0xA4 => hiHalf m.majorFloor
  | 0xA8 => loHalf m.treeFloor
  | 0xAC => hiHalf m.treeFloor
  | 0xB0 => pack [ (b2n pass.isSome, 31), (b2n m.walk.isSome, 30), ((pass.map fun p => clsNum p.cls).getD 0, 28)
                 , ((pass.map (·.accord)).getD 0, 0) ]
  | 0xB4 => BitVec.ofNat 32 ((pass.map passNext).getD 0)
  | 0xB8 => BitVec.ofNat 32 m.sealBuf.length
  | 0xBC => pack [(b2n m.stackLost, 31), (m.lost.length, 0)]
  | 0x1000 => pack [ (storeCount m (fun e => e.state == .valid || e.state == .held), 16), (storeCount m (·.dirty), 0) ]
  | 0x1004 => BitVec.ofNat 32 (storeCount m fun e => e.state == .held)
  | 0x1008 => BitVec.ofNat 32 m.axuOps
  | 0x100C => BitVec.ofNat 32 m.axuHits
  | 0x1010 => BitVec.ofNat 32 m.axuFills
  | 0x1014 => BitVec.ofNat 32 m.axuWritebacks
  | 0x1020 => selOf s w (base + 0x1020)
  | 0x1024 => (cell.map fun e => pack [(b2n e.overflow, 31), (b2n e.invalid, 30)]).getD 0
  | 0x1028 => (cell.map fun e => BitVec.ofNat 32 e.loss).getD 0
  | _ =>
    if 0x20 ≤ off ∧ off < 0x40 then (rt.map fun e => rtWord e ((off - 0x20) / 4)).getD 0
    else if 0x40 ≤ off ∧ off < 0x80 then (rt.bind fun e => e.grants[(off - 0x40) / 4]?).getD 0xFFFFFFFF
    else if 0x100 ≤ off ∧ off < 0x200 then lostWord m ((off - 0x100) / 4)
    else 0

/-- STATE of a port. -/
def portStateNum : PortState → Nat
  | .disabled => 0 | .noLink => 1 | .unidentified => 2 | .up => 3 | .draining => 4

/-- STATE of a stream. -/
def streamStateNum : StreamState → Nat
  | .closed => 0 | .opening => 1 | .opened => 2 | .draining => 3 | .failed => 4

/-- LPE_PORT_STATUS (Table 9.12). -/
def portStatus (p : Port) : Word :=
  let n := (p.streams.filter fun e => e.2.state != .closed).length
  pack [ (portStateNum p.state, 29), (b2n p.gateway, 28), (b2n p.linkUp, 27), (b2n (!p.marked.isEmpty), 26), (n % 512, 16) ]

/-- LPE_STREAM_STATUS (Table 9.16). -/
def streamStatus (x : Stream) : Word :=
  pack [ (streamStateNum x.state, 29), (x.txGen % 2, 28), (x.rxGen % 2, 27), (x.accord % 1024, 16), (x.bond % 4096, 0) ]

/-- The gateway registers of a port (Tables 10.10 and 10.11); zero in BOND mode. -/
def readGateway (p : Port) (cap : Word) (off : Nat) : Word :=
  if !p.gateway then 0
  else match off with
    | 0x210 => pack [((p.gwSent.filter (·.sent)).length % 128, 25), (p.landing.length % 128, 18), (b2n p.stages, 1), (b2n p.stages, 0)]
    | 0x214 => loHalf p.txRec.toNat
    | 0x218 => cap
    | 0x21C => loHalf p.rxRec.toNat
    | 0x220 => cap
    | 0x224 => pack [(p.gwTagFail, 16), (p.gwResent, 0)]
    | 0x228 => pack [(p.gwDup, 16), (p.gwStale, 0)]
    | 0x22C => BitVec.ofNat 32 p.gwLost
    | _ => 0

/-- Port `n`'s frame (Tables 9.12 to 9.16, 10.8 to 10.11), with its cluster's OTU in the frame of port 4k. -/
def readPort (s : State) (w : World) (n off : Nat) : Word :=
  let p := getPort s n
  let base := 0xC00000 + n * 0x10000
  let x := getStream s n (selOf s w (base + 0x100)).toNat
  let out := p.streams.foldl (fun k e => k + e.2.outstanding.length) 0
  match off with
  | 0x00 => portStatus p
  | 0x04 => p.idleCycles.setWidth 32
  | 0x20 => BitVec.ofNat 32 p.upHours
  | 0x30 => loHalf p.txWin.toNat
  | 0x38 => loHalf p.rxWin.toNat
  | 0x34 => capOf s w (base + off)
  | 0x3C => capOf s w (base + off)
  | 0x40 => pack [(p.tagFail, 16), (p.retx, 0)]
  | 0x44 => pack [(p.dup, 16), (p.gap, 0)]
  | 0x100 => selOf s w (base + 0x100)
  | 0x104 => streamStatus x
  | 0x108 => if x.state = .closed then 0 else pack [((getBond s x.bond).peer % 65536, 16), (x.peerStream % 8192, 0)]
  | 0x10C => x.txSalt
  | 0x110 => loHalf x.txSeq
  | 0x114 => capOf s w (base + off)
  | 0x118 => loHalf x.rxSeq
  | 0x11C => capOf s w (base + off)
  | 0x200 => pack [(out % 2 ^ 15, 16), (Nat.min p.heldReqs.length 16383, 0)]
  | 0x204 => BitVec.ofNat 32 p.lost
  | 0x208 => BitVec.ofNat 32 p.refused
  | _ =>
    if 0x10 ≤ off ∧ off < 0x20 then
      (if p.state = .up then BitVec.ofNat 32 (p.moduleId.toNat / 2 ^ (8 * (off - 0x10))) else 0)
    else if 0x210 ≤ off ∧ off < 0x230 then readGateway p (capOf s w (base + off)) off
    else if 0x400 ≤ off ∧ off < 0x410 ∧ n % 4 = 0 then readOtu s (n / 4) (off - 0x400)
    else 0

/-! ## The window (Table 1.9) -/

/-- What the register at an offset reads as for a world; a reserved offset reads zero (R5). (DEDUCED, log entry 32) -/
def regValue (s : State) (w : World) (off : Nat) : Word :=
  let o := off % 0x10000
  if off % 4 ≠ 0 then 0
  else if off < 0x10000 then readHub s w o
  else if off < 0x20000 then readLcc s o
  else if off < 0x30000 then readKsf s w o
  else if off < 0x40000 then readKdf s o
  else if off < 0x50000 then readGce s o
  else if off < 0x60000 then readCvu s w o
  else if off < 0x70000 then readBec s w o
  else if off < 0x80000 then readFrs s o
  else if off < 0x90000 then readDbg s w o
  else if off < 0xA0000 then readPwr s o
  else if off < 0xB0000 then readBist s w o
  else if off < 0x100000 then 0
  else if off < 0x200000 then readHpe s w (off - 0x100000)
  else if off < 0x400000 then 0
  else if off < 0xC00000 then readMpe s w ((off - 0x400000) / 0x100000) (off % 0x100000)
  else if off < 0xE00000 then readPort s w ((off - 0xC00000) / 0x10000) o
  else 0

/-- What a read of `width` bytes at an offset answers to a world: the register for an aligned read of 4 bytes, zero for any
other width or alignment (R4). -/
def readAt (s : State) (w : World) (off width : Nat) : Word := if width = 4 then regValue s w off else 0

end Sys2Proof.Machine
end

