-- ==== Sys2Proof/Machine/Registers.lean ====
section
/-! DEFINITION. Register accesses that change state: writes by access type (R4 to R8, R37), reads that capture, pop or push, the
aperture (R378), and the registers that have steps of their own. -/

namespace Sys2Proof.Machine

/-! ## Selection registers -/

/-- The fields of a selection register of which every world holds its own copy; reserved fields read zero. -/
def selMask (off : Nat) : Option Word :=
  match off with
  | 0x100 => some 0x3FF
  | 0x110 => some 0xC00000FF
  | 0x210 => some 0xFFFF
  | 0x300 => some 0xFFF
  | 0x20004 => some 0xFF
  | 0x60020 => some 0x1FF
  | 0x60200 => some 0x3FF
  | 0x100024 => some 0x3F
  | 0x1F0508 => some 0x3FFF
  | _ =>
    if 0x400000 ≤ off ∧ off < 0xC00000 then
      (if off % 0x100000 = 0x10 ∨ off % 0x100000 = 0x1020 then some 0xFF else none)
    else if 0xC00000 ≤ off ∧ off < 0xE00000 then (if off % 0x10000 = 0x100 then some 0xFF else none)
    else none

/-- Whether a world holds a copy: HPE_VF_SEL and OTU_CTR_SEL have none for DEBUG (R318, R342). (DESIGN CHOICE, log entry 35) -/
def hasSel (w : World) (off : Nat) : Bool := !(w == .debug && (off == 0x100024 || off == 0x1F0508)) && w != .tenant

/-- A world's copy written. -/
def writeSel (s : State) (w : World) (off : Nat) (v : Word) : State :=
  match selMask off with
  | some m => if hasSel w off then { s with sels := tset s.sels (worldKey w off) (v &&& m) } else s
  | none => s

/-! ## The event controller (R438) -/

/-- A read of BEC_ACK by ROOT: the selected source goes on the stack and its edge is acknowledged. -/
def becAck (s : State) : State :=
  match (if s.bec.stack.length < 16 then selected s else none) with
  | some n => { s with bec := { s.bec with stack := n :: s.bec.stack, edges := s.bec.edges.filter (· != n) } }
  | none => s

/-- A write of BEC_EOI. -/
def becEoi (s : State) (n : Nat) : State :=
  if s.bec.frozen then s
  else if s.bec.stack.head? = some n then { s with bec := { s.bec with stack := s.bec.stack.drop 1 } }
  else raise { s with bec := { s.bec with frozen := true } } { code := 0x74, unit := unitHub }

/-- BEC_REPAIR.POP. -/
def becPop (s : State) : State := { s with bec := { s.bec with stack := s.bec.stack.drop 1 } }

/-- BEC_REPAIR.UNFREEZE. -/
def becUnfreeze (s : State) : State := { s with bec := { s.bec with frozen := false } }

/-- BEC_SRC_CFG of source `n`; a source configured for the first time starts from its input as it is. (DEDUCED, log entry 32) -/
def writeSrcCfg (s : State) (w : World) (n : Nat) (v : Word) : State :=
  if w = .root ∨ (w = .host ∧ 256 ≤ n ∧ n ≤ 510) then
    let b := s.bec
    let inputs := if (tget b.cfg n).isSome then b.inputs else mark b.inputs n (level s n)
    { s with bec := { b with cfg := tset b.cfg n (v &&& 0xFFFC07FF), inputs := inputs } }
  else s

/-! ## Reads that change state -/

/-- The _HI register that a read of a _LO register captures (R118, R270, R294, R361, Table 17.7). -/
def hiOf (off : Nat) : Option Nat :=
  if off = 0x218 then some 0x21C
  else if off = 0xA0008 then some 0xA000C
  else if 0x50000 ≤ off ∧ off < 0x50400 ∧ (off % 0x100 = 0x10 ∨ off % 0x100 = 0x18) then some (off + 4)
  else if 0xC00000 ≤ off ∧ off < 0xE00000 ∧ [0x30, 0x38, 0x110, 0x118, 0x214, 0x21C].contains (off % 0x10000) then some (off + 4)
  else none

/-- The upper half that a read of a _LO register captures. -/
def hiValue (s : State) (w : World) (off : Nat) : Word :=
  let c := getCvu s (off / 0x100 % 0x100)
  let n := (off - 0xC00000) / 0x10000
  let p := getPort s n
  let x := getStream s n (selOf s w (0xC00000 + n * 0x10000 + 0x100)).toNat
  if off = 0x218 then ((selFence s w).map fun f => hiHalf f.value.toNat).getD 0
  else if off = 0xA0008 then hiHalf (selFailure s).toNat
  else if off < 0xC00000 then (if off % 0x100 = 0x10 then hiHalf c.value.toNat else hiHalf (cvuResult c))
  else match off % 0x10000 with
    | 0x30 => hiHalf p.txWin.toNat
    | 0x38 => hiHalf p.rxWin.toNat
    | 0x110 => hiHalf x.txSeq
    | 0x118 => hiHalf x.rxSeq
    | 0x214 => if p.gateway then hiHalf p.txRec.toNat else 0
    | _ => if p.gateway then hiHalf p.rxRec.toNat else 0

/-- The capture of a _LO read by a world. (DEDUCED, log entry 32) -/
def loCapture (s : State) (w : World) (off : Nat) : State :=
  match hiOf off with
  | some hi => { s with caps := tset s.caps (worldKey w hi) (hiValue s w off) }
  | none => s

/-- A read of OTU_HOT_FIFO: a valid entry is popped (Table 11.11). (DEDUCED, log entry 32) -/
def hotPop (s : State) : State := { s with hpe := { s.hpe with hotFifo := s.hpe.hotFifo.drop 1 } }

/-- A read by a world, with what it does to the state; BEC_ACK pushes for ROOT only (R452). A read of another width than 4
answers zero and does nothing (R4). (DEDUCED, log entry 32) -/
def readReg (s : State) (w : World) (off width : Nat) : State × Word :=
  if width ≠ 4 then (s, 0)
  else
  let v := regValue s w off
  let s := loCapture s w off
  if off = 0x1F0504 then (hotPop s, v)
  else if off = 0x60008 ∧ w = .root then (becAck s, v)
  else (s, v)

/-! ## Writes by frame -/

/-- The HUB frame. -/
def writeHub (s : State) (w : World) (off : Nat) (v : Word) : State :=
  let rh : Bool := w == .root || w == .host
  match off with
  | 0x008 => if w = .root ∧ !s.fwWritten then { s with fwVersion := v, fwWritten := true } else s
  | 0x104 =>
    if rh ∧ bit v 24 then updAccord s (selOf s w 0x100).toNat fun a => { a with shortfall := false } else s
  | 0x118 => if w = .root then { s with scrubRate := v.setWidth 8 } else s
  | 0x204 => if rh ∧ fld v 31 24 ≠ 0 then { s with foreignDb := 0 } else s
  | 0x400 => match mailbox s w with
    | some m => setMailbox s w { m with desc := (m.desc &&& 0xFFFFFFFF00000000) ||| (v &&& 0xFFFFFFE0).setWidth 64 }
    | none => s
  | 0x404 => match mailbox s w with
    | some m => setMailbox s w { m with desc := (m.desc &&& 0x00000000FFFFFFFF) ||| (v.setWidth 64 <<< 32) }
    | none => s
  | 0x408 => if bit v 0 then mailboxGo s w else s
  | _ => s

/-- VALUE of a check-value unit written; bits above its width keep reading zero (R356). -/
def cvuSetValue (c : Cvu) (hi : Bool) (v : Word) : Cvu :=
  let width := ((crcParams c.poly.toNat).map (·.1)).getD 32
  let n := if hi then c.value.toNat % 2 ^ 32 + v.toNat * 2 ^ 32 else c.value.toNat / 2 ^ 32 * 2 ^ 32 + v.toNat
  { c with value := BitVec.ofNat 64 (n % 2 ^ width) }

/-- The CVU frame. -/
def writeCvu (s : State) (w : World) (off : Nat) (v : Word) : State :=
  let n := off / 0x100
  let upd (f : Cvu → Cvu) : State := if cvuMayWrite w n then setCvu s n (f (getCvu s n)) else s
  match off % 0x100 with
  | 0x00 => upd fun c => cvuControl c (fld v 2 0) (bit v 31)
  | 0x04 => upd fun c => cvuFeed c (toLE v.toNat 1)
  | 0x08 => upd fun c => cvuFeed c (toLE v.toNat 2)
  | 0x0C => upd fun c => cvuFeed c (toLE v.toNat 4)
  | 0x10 => upd fun c => cvuSetValue c false v
  | 0x14 => upd fun c => cvuSetValue c true v
  | _ => s

/-- The BEC frame. -/
def writeBec (s : State) (w : World) (off : Nat) (v : Word) : State :=
  let root : Bool := w == .root
  match off with
  | 0x000 =>
    if root then
      let n := fld v 3 0
      { s with bec := { s.bec with enable := bit v 31, rankBits := if n ≤ 8 then n else s.bec.rankBits } }
    else s
  | 0x00C => if root then becEoi s (fld v 8 0) else s
  | 0x010 =>
    if root then
      let s := if bit v 0 then becPop s else s
      if bit v 1 then becUnfreeze s else s
    else s
  | 0x024 => writeSrcCfg s w (selOf s w 0x60020).toNat v
  | 0x204 =>
    if root ∨ w = .host then
      updAccord s (selOf s w 0x60200).toNat fun a => { a with ownerEvents := a.ownerEvents &&& ~~~(v.setWidth 6) }
    else s
  | _ => s

/-- FRS_WDOG_CTRL (R418): once armed, nothing changes it until block reset. -/
def armWatchdog (s : State) (v : Word) : State :=
  let n := fld v 13 0
  if s.frs.wdogEnable then s
  else
    { s with frs := { s.frs with wdogEnable := bit v 31, kicked := false
                                 wdogPeriod := if 1 ≤ n ∧ n ≤ 10000 then BitVec.ofNat 14 n else s.frs.wdogPeriod } }

/-- The FRS frame. -/
def writeFrs (s : State) (w : World) (off : Nat) (v : Word) : State :=
  let rh : Bool := w == .root || w == .host
  let r := s.frs
  match off with
  | 0x04 =>
    if rh then
      { s with frs := { r with ringEnable := bit v 31, ringSpace := if r.ringEnable then r.ringSpace else v.setWidth 2 } }
    else s
  | 0x08 =>
    if rh ∧ !r.ringEnable then
      { s with frs := { r with ring := (r.ring &&& 0xFFFFFFFF00000000) ||| (v &&& 0xFFFFE000).setWidth 64 } }
    else s
  | 0x0C =>
    if rh ∧ !r.ringEnable then
      { s with frs := { r with ring := (r.ring &&& 0x00000000FFFFFFFF) ||| (v.setWidth 64 <<< 32) } }
    else s
  | 0x30 => if w = .root then armWatchdog s v else s
  | 0x34 => if w = .root ∧ bit v 0 then { s with frs := { r with kicked := true } } else s
  | _ =>
    if rh ∧ 0x200 ≤ off ∧ off < 0x400 then
      let k := (off - 0x200) / 4
      { s with frs := { r with lostMap := r.lostMap.filter fun i => !(i / 32 == k && bit v (i % 32)) } }
    else s

/-- The DBG frame, as the DEBUG world writes it through the aperture (R384, R389). -/
def writeDbgWorld (s : State) (off : Nat) (v : Word) : State :=
  let stop := holdsLevel s levelStop
  let watch := holdsLevel s levelWatch
  let d := s.dbg
  match off with
  | 0x44 =>
    if bit v 2 then (if stop ∧ (d.stop = .stopped ∨ d.stop = .scanned) then blockReset s [] else s)
    else if bit v 1 then (if stop ∧ d.stop = .stopped then scanNow s else s)
    else if bit v 0 then (if stop ∧ d.stop = .stopped then { s with dbg := { d with stop := .running } } else s)
    else s
  | 0x48 => if stop then { s with dbg := { d with scanDest := (d.scanDest &&& 0xFFFFFFFF00000000) ||| v.setWidth 64 } } else s
  | 0x4C =>
    if stop then { s with dbg := { d with scanDest := (d.scanDest &&& 0x00000000FFFFFFFF) ||| (v.setWidth 64 <<< 32) } } else s
  | 0x50 => if watch then { s with dbg := { d with watchFence := v } } else s
  | 0x54 => if watch then { s with dbg := { d with watchDest := (d.watchDest &&& 0xFFFFFFFF00000000) ||| v.setWidth 64 } } else s
  | 0x58 =>
    if watch then { s with dbg := { d with watchDest := (d.watchDest &&& 0x00000000FFFFFFFF) ||| (v.setWidth 64 <<< 32) } } else s
  | 0x60 => debugDoorbell s .debug v
  | _ =>
    if 0x1000 ≤ off ∧ off < 0x1400 then
      match debugQueue s with
      | some q =>
        { s with queues := tupd s.queues q fun x =>
            let i := (off - 0x1000) / 64
            let old := (List.range 16).map (wd (tgetD x.slots i []))
            { x with slots := tset x.slots i (old.set (off % 64 / 4) v) } }
      | none => s
    else s

/-- The DBG frame as ROOT, HOST and the issuing world write it, but for the aperture itself. -/
def writeDbg (s : State) (w : World) (off : Nat) (v : Word) : State :=
  if w = .debug then writeDbgWorld s off v
  else match off with
    | 0x04 => if bit v 0 then revoke s w else s
    | 0x30 =>
      if s.dbg.grant.any fun g => g.issuer == w then { s with dbg := { s.dbg with winAddr := v &&& 0x00FFFFFC } } else s
    | _ => s

/-- Words that a test engine command programs: token digests, in PROBE_0 only (R450), or repair words. (DESIGN CHOICE,
log entry 47) -/
def engineWord (s : State) (x : Nat × Nat × BitVec 32) : State :=
  if x.1 < 10 then
    if s.lcc.state = 1 then programWord s (.tokenDigest x.1 (x.2.1 % 12) x.2.2) 0xFFFFFFFF else s
  else { s with otp := { s.otp with repairs := s.otp.repairs ++ [BitVec.ofNat 64 (x.2.1 * 2 ^ 32 + x.2.2.toNat)] } }

/-- A write of BIST_TE_CMD where the engine is open. The spec gives no command set, so which words a command programs and what
it leaves in the data register are open. (DESIGN CHOICE, log entry 47) -/
def engineCommand (s : State) (v : Word) : State :=
  let d := s.bist.teData
  let s := (Config.testEngine v d).foldl engineWord s
  { s with bist := { s.bist with teCmd := v, teData := Config.testEngineData v d } }

/-- The PWR and BIST frames. -/
def writeBist (s : State) (w : World) (off : Nat) (v : Word) : State :=
  match off with
  | 0x90004 =>
    if w = .root ∧ 1 ≤ s.lcc.state ∧ s.lcc.state ≤ lcPilot then { s with pwr := { s.pwr with vidTable := v &&& 0xFFFFFF00 } } else s
  | 0xA0004 => { s with bist := { s.bist with failSel := v.setWidth 6 } }
  | 0xA0100 => if testEngineOpen s w then engineCommand s v else s
  | 0xA0104 => if testEngineOpen s w then { s with bist := { s.bist with teData := v } } else s
  | _ => s

/-- The HPE frame; only ROOT and HOST write it (R318, R342). -/
def writeHpe (s : State) (w : World) (off : Nat) (v : Word) : State :=
  let h := s.hpe
  let wide (old : BitVec 64) (hi : Bool) (lo : Word) : BitVec 64 :=
    if hi then (old &&& 0x00000000FFFFFFFF) ||| (v.setWidth 64 <<< 32) else (old &&& 0xFFFFFFFF00000000) ||| lo.setWidth 64
  if w ≠ .root ∧ w ≠ .host then s
  else match off with
    | 0x00 => if h.pfqEnable then s else { s with hpe := { h with pfqRing := wide h.pfqRing false (v &&& 0xFFFFF000) } }
    | 0x04 => if h.pfqEnable then s else { s with hpe := { h with pfqRing := wide h.pfqRing true 0 } }
    | 0x08 => if h.pfqEnable then s else { s with hpe := { h with pfqCpl := wide h.pfqCpl false (v &&& 0xFFFFF000) } }
    | 0x0C => if h.pfqEnable then s else { s with hpe := { h with pfqCpl := wide h.pfqCpl true 0 } }
    | 0x10 => pfqWrite s v
    | 0x28 => vfBind s w v
    | 0x40 => { s with hpe := { h with moveGid := v } }
    | 0x44 => { s with hpe := { h with moveDpa := v &&& 0x7FFFFFFF } }
    | 0x48 => { s with hpe := { h with moveDest := v &&& 0x07FFFFFF } }
    | 0x4C => if bit v 0 then moveGo s else s
    | 0x50 => if bit v 30 then { s with hpe := { h with moveDone := false } } else s
    | 0xF0500 => { s with hpe := { h with hotThresh := v.setWidth 16 } }
    | 0xF0504 => if bit v 30 then { s with hpe := { h with hotOverflow := false } } else s
    | 0xF050C =>
      { s with hpe := { h with counters := tupd h.counters (selOf s w 0x1F0508).toNat fun c => { c with count := fld v 15 0 } } }
    | _ => s

/-- LPE_PORT_CTRL.IDLE_CYCLES (R270): only ROOT, only 4 to 32. -/
def writePort (s : State) (w : World) (n off : Nat) (v : Word) : State :=
  if off = 0x04 ∧ w = .root ∧ 4 ≤ fld v 5 0 ∧ fld v 5 0 ≤ 32 then updPort s n fun p => { p with idleCycles := v.setWidth 6 } else s

/-- A 32-bit aligned write by a world; a register that is read-only or reserved keeps its value (R5, R8). (DEDUCED, log
entry 30) -/
def writeReg (s : State) (w : World) (off : Nat) (v : Word) : State :=
  if off % 4 ≠ 0 then s
  else if (selMask off).isSome then writeSel s w off v
  else if off < 0x10000 then writeHub s w off v
  else if off < 0x20000 then (if off = 0x10004 ∧ (v &&& 0xF = 5 ∨ v &&& 0xF = 10) then lccPlain s w (fld v 3 0) else s)
  else if off < 0x50000 then s
  else if off < 0x60000 then writeCvu s w (off - 0x50000) v
  else if off < 0x70000 then writeBec s w (off - 0x60000) v
  else if off < 0x80000 then writeFrs s w (off - 0x70000) v
  else if off < 0x90000 then writeDbg s w (off - 0x80000) v
  else if off < 0xB0000 then writeBist s w off v
  else if 0x100000 ≤ off ∧ off < 0x200000 then writeHpe s w (off - 0x100000) v
  else if 0xC00000 ≤ off ∧ off < 0xE00000 then writePort s w ((off - 0xC00000) / 0x10000) (off % 0x10000) v
  else s

/-! ## The aperture (R378) -/

/-- Performance and error counters, which level COUNTERS opens (Table 14.7). -/
def isCounter (off : Nat) : Bool :=
  let o := off % 0x10000
  if off < 0x10000 then off == 0x204
  else if off < 0x40000 then off == 0x30004
  else if off < 0x50000 then off == 0x40004 || off == 0x40008
  else if off < 0x80000 then 0x70010 ≤ off && off < 0x70028
  else if off < 0x200000 then off == 0x10002C || (0x1F0404 ≤ off && off < 0x1F0410)
  else if off < 0xC00000 then
    off % 0x100000 == 0x04 || (0x90 ≤ off % 0x100000 && off % 0x100000 < 0xA0)
      || (0x1008 ≤ off % 0x100000 && off % 0x100000 < 0x1018) || off % 0x100000 == 0x1028
  else o == 0x20 || (0x30 ≤ o && o < 0x48) || o == 0x204 || o == 0x208 || (0x214 ≤ o && o < 0x230) || (0x404 ≤ o && o < 0x410)

/-- Whether the DEBUG world reaches a register under the grant's levels. (DEDUCED, log entry 32) -/
def levelCovers (s : State) (off : Nat) : Bool := !isCounter off || holdsLevel s 0

/-- Whether a world may use the aperture now. -/
def mayAperture (s : State) (w : World) : Bool :=
  s.up && s.pwr.current == 0 && s.pwr.entering.isNone && s.dbg.grant.any fun g => g.issuer == w

/-- A read through the aperture; the value stays in DBG_WIN_DATA's last read. -/
def apertureRead (s : State) : State × Word :=
  let off := s.dbg.winAddr.toNat
  if !levelCovers s off then ({ s with dbg := { s.dbg with winData := 0 } }, 0)
  else
    let (s, v) := readReg s .debug off 4
    ({ s with dbg := { s.dbg with winData := v } }, v)

/-- A write through the aperture. While the block is stopped, whether a write of a stopped island's register lasts is
open. (DESIGN CHOICE, log entry 51) -/
def apertureWrite (s : State) (v : Word) : State :=
  let off := s.dbg.winAddr.toNat
  if !levelCovers s off then s
  else if s.dbg.stop = .running ∨ (0x80000 ≤ off ∧ off < 0x90000) then writeReg s .debug off v
  else let (s, k) := drawNat s; if k % 2 = 1 then writeReg s .debug off v else s

/-- APERTURE_ACCESS: only by the world that issued DEBUG_AUTH, and only under its grant; an access of another width than 4 has
no effect (R4). -/
def execApertureAccess (w : World) (width : Nat) (write : Option (BitVec 32)) (s : State) : Host.Outcome State Fault Refusal :=
  if !mayAperture s w ∨ width ≠ 4 then .next s
  else match write with
    | none => .next (settleAll (apertureRead s).1)
    | some v => .next (settleAll (apertureWrite s v))

/-! ## Register rows -/

/-- Whether a world's access reaches the register interface: worlds with the window (R37), the block up and awake; in a stopped
block only the DBG frame. Dry-down takes no register write away (R426 names doorbells and DMA; DEDUCED, log entry 30). -/
def mayWriteReg (s : State) (w : World) (off : Nat) : Bool :=
  (w == .root || w == .host) && s.up && s.pwr.current == 0 && s.pwr.entering.isNone
    && (s.dbg.stop == .running || (0x80000 ≤ off && off < 0x90000))

/-- REGISTER_WRITE: 4 bytes wide and aligned, or without effect (R4). The DEBUG world comes in by APERTURE_ACCESS. -/
def execRegisterWrite (w : World) (offset : BitVec 24) (width : Nat) (value : BitVec 32) (s : State) :
    Host.Outcome State Fault Refusal :=
  if width = 4 ∧ mayWriteReg s w offset.toNat then .next (settleAll (writeReg s w offset.toNat value)) else .next s

/-- Whether a world's read reaches the register interface. (DEDUCED, log entry 32) -/
def mayReadReg (s : State) (w : World) : Bool := (w == .root || w == .host || w == .debug) && running s

/-- LO_CAPTURE_READ (R118); a read of another width than 4 captures nothing, and answers zero (R4, `readAt`). -/
def execLoCaptureRead (w : World) (offset : BitVec 24) (width : Nat) (s : State) : Host.Outcome State Fault Refusal :=
  if mayReadReg s w ∧ width = 4 then .next (settle (loCapture s w offset.toNat)) else .next s

/-- HOT_FIFO_POP. -/
def execHotFifoPop (w : World) (width : Nat) (s : State) : Host.Outcome State Fault Refusal :=
  if mayReadReg s w ∧ width = 4 then .next (settle (hotPop s)) else .next s

/-- BEC_ACK. -/
def execBecAck (w : World) (width : Nat) (s : State) : Host.Outcome State Fault Refusal :=
  if running s ∧ w = .root ∧ width = 4 then .next (settle (becAck s)) else .next s

/-- BEC_EOI. -/
def execBecEoi (w : World) (value : BitVec 32) (s : State) : Host.Outcome State Fault Refusal :=
  if running s ∧ w = .root then .next (settle (becEoi s (fld value 8 0))) else .next s

/-- POP. -/
def execPop (w : World) (s : State) : Host.Outcome State Fault Refusal :=
  if running s ∧ w = .root then .next (settle (becPop s)) else .next s

/-- UNFREEZE. -/
def execUnfreeze (w : World) (s : State) : Host.Outcome State Fault Refusal :=
  if running s ∧ w = .root then .next (settle (becUnfreeze s)) else .next s

/-- KICK. -/
def execKick (w : World) (s : State) : Host.Outcome State Fault Refusal :=
  if running s ∧ w = .root then .next (settle { s with frs := { s.frs with kicked := true } }) else .next s

/-- WATCHDOG_ARM. -/
def execWatchdogArm (w : World) (value : BitVec 32) (s : State) : Host.Outcome State Fault Refusal :=
  if running s ∧ w = .root then .next (settle (armWatchdog s value)) else .next s

/-- TEST_ENGINE_COMMAND (R450). -/
def execTestEngineCommand (w : World) (value : BitVec 32) (s : State) : Host.Outcome State Fault Refusal :=
  if running s ∧ testEngineOpen s w then .next (settle (engineCommand s value)) else .next s

end Sys2Proof.Machine
end

