-- ==== Sys2Proof/Machine/Manage.lean ====
section
/-! DEFINITION. Management messages (R399 to R402): they travel in the bound secured session, and the hub handles them one at a
time in arrival order. A message that comes while a COMMAND's response is outstanding, or while the hub sleeps or is stopped, is
held until its turn. -/

namespace Sys2Proof.Machine

/-- STATUS of a response: OK. -/
def mgmtOk : BitVec 8 := 0x00
/-- STATUS BUSY. -/
def mgmtBusy : BitVec 8 := 0x01
/-- STATUS RANGE. -/
def mgmtRange : BitVec 8 := 0x02
/-- STATUS NOT_PERMITTED. -/
def mgmtNotPermitted : BitVec 8 := 0x03
/-- STATUS STATE. -/
def mgmtState : BitVec 8 := 0x04

/-- A response sent. -/
def answerMgmt (s : State) (st : BitVec 8) (d : Bytes) : State := { s with mgmt := { s.mgmt with out := s.mgmt.out ++ [(st, d)] } }

/-! ## COMMAND and CPL_READ -/

/-- Whether dry-down admits a command: ZEROIZE_ALL and POWER_CYCLE (R427). (DEDUCED, log entry 14) -/
def dryCommand (words : List Word) : Bool := opOf words == 0x47 || opOf words == 0x48

/-- COMMAND: the next slot of queue 1; its response waits for the completion. (DESIGN CHOICE, log entry 33) -/
def commandMessage (s : State) (words : List Word) : State :=
  let w := (List.range 16).map (wd words)
  if inDry s ∧ !dryCommand w then answerMgmt s mgmtState []
  else match tget s.queues 1 with
    | none => answerMgmt s mgmtState []
    | some q =>
      let next := (q.tail + 1) % 2 ^ q.log2
      if s.mgmt.unread.length ≥ 64 ∨ next = q.head then answerMgmt s mgmtBusy []
      else
        { s with queues := tset s.queues 1 { q with slots := tset q.slots q.tail w, tail := next }
                 mgmt := { s.mgmt with awaits := some (q.tail, s.time) } }

/-- The response with the ring index, when the command has not completed within 10 ms. (DESIGN CHOICE, log entry 33) -/
def commandLate (s : State) : State :=
  match s.mgmt.awaits with
  | some (ring, since) =>
    if s.time > since + 10000 then answerMgmt { s with mgmt := { s.mgmt with awaits := none } } mgmtOk (toLE ring 2) else s
  | none => s

/-- CPL_READ: up to 16 unread entries, oldest first. (DESIGN CHOICE, log entry 33) -/
def cplReadMessage (s : State) : State :=
  answerMgmt { s with mgmt := { s.mgmt with unread := s.mgmt.unread.drop 16 } } mgmtOk ((s.mgmt.unread.take 16).flatMap bytesOf)

/-! ## The staging area (R400) -/

/-- First address of the staging area. -/
def stagingBase : Nat := 0x80000000

/-- Whether a length is one of R399 and the bytes lie in the area. (DESIGN CHOICE, log entry 33) -/
def stagingFits (offset len : Nat) : Bool := 1 ≤ len && len ≤ 1024 && inStaging (stagingBase + offset) len

/-- STAGE_WRITE. -/
def stageWriteMessage (s : State) (offset : BitVec 32) (d : Bytes) : State :=
  if inDry s then answerMgmt s mgmtState []
  else if stagingFits offset.toNat d.length then
    answerMgmt { s with hubMem := memWriteBytes s.hubMem 0 (stagingBase + offset.toNat) d } mgmtOk []
  else answerMgmt s mgmtRange []

/-- STAGE_READ. -/
def stageReadMessage (s : State) (offset : BitVec 32) (len : BitVec 16) : State :=
  if inDry s then answerMgmt s mgmtState []
  else if stagingFits offset.toNat len.toNat then
    answerMgmt s mgmtOk (memReadBytes s.hubMem 0 (stagingBase + offset.toNat) len.toNat)
  else answerMgmt s mgmtRange []

/-! ## REG_READ (R401) -/

/-- Registers of the HUB to BIST frames that ROOT, HOST and DEBUG may all read. -/
def openHubReg (off : Nat) : Bool :=
  let between (a b : Nat) : Bool := a ≤ off && off ≤ b
  between 0 0x14 || [0x100, 0x104, 0x108, 0x110, 0x114, 0x118].contains off || between 0x120 0x148 || between 0x200 0x204
    || between 0x210 0x220 || between 0x300 0x30C || between 0x500 0x504
    || between 0x10000 0x10008 || between 0x10010 0x1001C || between 0x20000 0x20014 || between 0x30000 0x30004
    || between 0x40000 0x40008 || (between 0x50000 0x503FC && off % 0x100 ≤ 0x20)
    || between 0x60000 0x60010 || between 0x60020 0x60028 || between 0x60100 0x6013C || between 0x60200 0x60204
    || between 0x70000 0x7003C && off != 0x7002C || between 0x70100 0x7013C || between 0x70200 0x703FC || between 0x78000 0x79FFC
    || off == 0x80000 || between 0x80010 0x8002C
    || between 0x90000 0x90008 || between 0xA0000 0xA000C

/-- Registers of the HPE frame. -/
def openHpeReg (o : Nat) : Bool :=
  o ≤ 0x10 || (0x20 ≤ o && o ≤ 0x30) || (0x40 ≤ o && o ≤ 0x50) || (0xF0400 ≤ o && o ≤ 0xF040C) || (0xF0500 ≤ o && o ≤ 0xF0514)

/-- Registers of an MPE frame. -/
def openMpeReg (o : Nat) : Bool :=
  o ≤ 0x04 || o == 0x10 || (0x20 ≤ o && o ≤ 0xBC) || (0x100 ≤ o && o ≤ 0x1FC) || (0x1000 ≤ o && o ≤ 0x1014)
    || (0x1020 ≤ o && o ≤ 0x1028)

/-- Registers of the frame of port `p`; the OTU's lie in the frame of every fourth port. -/
def openPortReg (p o : Nat) : Bool :=
  o ≤ 0x04 || (0x10 ≤ o && o ≤ 0x20) || (0x30 ≤ o && o ≤ 0x44) || (0x100 ≤ o && o ≤ 0x11C) || (0x200 ≤ o && o ≤ 0x208)
    || (0x210 ≤ o && o ≤ 0x22C) || (p % 4 == 0 && 0x400 ≤ o && o ≤ 0x40C)

/-- Whether an offset is a register that the tables open to ROOT, HOST and DEBUG. -/
def openReg (off : Nat) : Bool :=
  off % 4 == 0 &&
  (if off < 0xB0000 then openHubReg off
  else if off < 0x100000 then false
  else if off < 0x200000 then openHpeReg (off - 0x100000)
  else if off < 0x400000 then false
  else if off < 0xC00000 then openMpeReg (off % 0x100000)
  else if off < 0xE00000 then openPortReg ((off - 0xC00000) / 0x10000) (off % 0x10000)
  else false)

/-- Registers read one after the other in the MGMT world. (DESIGN CHOICE, log entry 33) -/
def readRegs (s : State) (first : Nat) : Nat → State × Bytes
  | 0 => (s, [])
  | n + 1 =>
    let (s, v) := readReg s .mgmt first 4
    let (s, d) := readRegs s (first + 4) n
    (s, toLE v.toNat 4 ++ d)

/-- REG_READ: MGMT's selection is written first. (DESIGN CHOICE, log entry 33) -/
def regReadMessage (s : State) (selOffset selValue first : BitVec 32) (count : BitVec 8) : State :=
  let n := count.toNat
  if n = 0 ∨ n > 16 then answerMgmt s mgmtRange []
  else if selOffset ≠ 0 ∧ (selMask selOffset.toNat).isNone then answerMgmt s mgmtNotPermitted []
  else
    let s := if selOffset = 0 then s else writeSel s .mgmt selOffset.toNat selValue
    if (List.range n).all fun i => openReg (first.toNat + 4 * i) then
      let (s, d) := readRegs s first.toNat n
      answerMgmt s mgmtOk d
    else answerMgmt s mgmtNotPermitted []

/-! ## MODULE_REPORT (R239 to R241) -/

/-- MODULE_ID of the bytes a module presents. -/
def moduleIdOf (cmis : Bytes) : BitVec 128 := BitVec.ofNat 128 (leNat ((sha384 cmis).take 16))

/-- A report applied to a port: its identity, the hours it counts, UP, and the bonds whose record differs. -/
def reportModule (s : State) (p : Nat) (m : BitVec 128) : State :=
  let s := updPort s p fun x =>
    { x with moduleId := m, upHours := if x.lastModule = m then x.upHours else 0, lastModule := m }
  let s := if (getPort s p).state = .unidentified then setPortState s p .up else s
  swapModule s p m

/-- MODULE_REPORT. (DESIGN CHOICE, log entry 33) -/
def moduleReportMessage (s : State) (port : BitVec 8) (cmis : Bytes) : State :=
  let p := port.toNat
  let st := (getPort s p).state
  if cmis.length ≠ 61 then answerMgmt s mgmtRange []
  else if p < 32 ∧ (st = .unidentified ∨ st = .up) then answerMgmt (reportModule s p (moduleIdOf cmis)) mgmtOk []
  else answerMgmt s mgmtState []

/-! ## DBG_ACCESS (R378, R401) -/

/-- DBG_ACCESS: one aperture access at a window offset. -/
def dbgAccessMessage (s : State) (offset : BitVec 32) (write : Bool) (d : BitVec 32) : State :=
  if !mayAperture s .mgmt then answerMgmt s mgmtNotPermitted []
  else
    let s := { s with dbg := { s.dbg with winAddr := offset &&& 0x00FFFFFC } }
    if write then answerMgmt (apertureWrite s d) mgmtOk []
    else
      let (s, v) := apertureRead s
      answerMgmt s mgmtOk (toLE v.toNat 4)

/-! ## Order of handling -/

/-- One message handled. (DESIGN CHOICE, log entry 33) -/
def handleMessage (s : State) (m : Instr) : State :=
  match m with
  | .command words => commandMessage s words
  | .cplRead => cplReadMessage s
  | .stageWrite offset d => stageWriteMessage s offset d
  | .stageRead offset len => stageReadMessage s offset len
  | .regRead so sv first count => regReadMessage s so sv first count
  | .moduleReport port cmis => moduleReportMessage s port cmis
  | .dbgAccess offset write d => dbgAccessMessage s offset write d
  | _ => s

/-- Whether the next message may be handled: the hub runs, the session is bound, and no response is outstanding. -/
def mayHandle (s : State) : Bool := running s && s.mgmt.sec == .bound && s.mgmt.awaits.isNone

/-- The oldest held message handled, if it may be. -/
def serveOne (s : State) : State :=
  match s.mgmt.held with
  | [] => s
  | m :: rest => if mayHandle s then fabricSettle (handleMessage { s with mgmt := { s.mgmt with held := rest } } m) else s

/-- Held messages handled until one has to wait. (DESIGN CHOICE, log entry 33) -/
def serveMessages (s : State) : State := (List.range s.mgmt.held.length).foldl (fun s _ => serveOne s) s

/-- A message arrives. It is not accepted outside the bound session (R398); what follows an outstanding response or a hub that
does not run is held. -/
def message (m : Instr) (s : State) : Host.Outcome State Fault Refusal :=
  if s.mgmt.sec = .bound ∧ s.up then
    .next (settle (applyFences (serveMessages { s with mgmt := { s.mgmt with held := s.mgmt.held ++ [m] } })))
  else .next s

/-- COMMAND. -/
def execCommand (words : List Word) (s : State) : Host.Outcome State Fault Refusal := message (.command words) s

/-- CPL_READ. -/
def execCplRead (s : State) : Host.Outcome State Fault Refusal := message .cplRead s

/-- STAGE_WRITE. -/
def execStageWrite (offset : BitVec 32) (data : Bytes) (s : State) : Host.Outcome State Fault Refusal :=
  message (.stageWrite offset data) s

/-- STAGE_READ. -/
def execStageRead (offset : BitVec 32) (length : BitVec 16) (s : State) : Host.Outcome State Fault Refusal :=
  message (.stageRead offset length) s

/-- REG_READ. -/
def execRegRead (selOffset selValue first : BitVec 32) (count : BitVec 8) (s : State) : Host.Outcome State Fault Refusal :=
  message (.regRead selOffset selValue first count) s

/-- MODULE_REPORT. -/
def execModuleReport (port : BitVec 8) (cmis : Bytes) (s : State) : Host.Outcome State Fault Refusal :=
  message (.moduleReport port cmis) s

/-- DBG_ACCESS. In a stopped block the debug unit still serves it, so that the stop can be ended (R384). -/
def execDbgAccess (offset : BitVec 32) (write : Bool) (data : BitVec 32) (s : State) : Host.Outcome State Fault Refusal :=
  if s.mgmt.sec = .bound ∧ s.up ∧ s.dbg.stop ≠ .running then .next (settleAll (dbgAccessMessage s offset write data))
  else message (.dbgAccess offset write data) s

/-! ## The end of the session (R402) -/

/-- The session ends: what it still held goes; commands already accepted run on, and their entries stay. -/
def endMgmtSession (s : State) : State :=
  { s with mgmt := { s.mgmt with sec := .none, reqDigest := 0, th2 := 0, reqRoot := [], reqLeaf := [], reqMldsa := []
                                 dhe := [], reqKeys := 0, rspKeys := 0, awaits := none, held := [] } }

/-- MGMT_SESSION_END. -/
def execMgmtSessionEnd (s : State) : Host.Outcome State Fault Refusal :=
  if s.mgmt.sec = .none then .next s else .next (settle (endMgmtSession s))

/-- The idle tick of the block, with the management messages whose turn has come. -/
def idleBlock (s : State) : State := settle (applyFences (serveMessages (commandLate (idle s))))

end Sys2Proof.Machine
end

