-- ==== Sys2Proof/Machine/Spdm.lean ====
section
/-! DEFINITION. The SPDM responder (R392 to R398): what each request changes and what the response holds. A response is kept as its
SPDM code with the content the manual gives it; DSP0274's framing of a message, its transcript hashes and its key schedule are
uninterpreted (PRESUMED, log entry 24). -/

namespace Sys2Proof.Machine

/-! ## Transports -/

/-- The responder's state on a transport; each bond handshake has its own (R393). -/
def getSpdm (s : State) : Transport → Spdm
  | .pcie => s.mgmt.pcie
  | .i3c => s.mgmt.i3c
  | .bond _ src => ((handshakeWith s src).map fun b => (getBond s b).spdm).getD {}
  | .answer _ _ _ => {}

/-- That state replaced. -/
def setSpdm (s : State) (t : Transport) (x : Spdm) : State :=
  match t with
  | .pcie => { s with mgmt := { s.mgmt with pcie := x } }
  | .i3c => { s with mgmt := { s.mgmt with i3c := x } }
  | .bond _ src => (match handshakeWith s src with
      | some b => updBond s b fun y => { y with spdm := x }
      | none => s)
  | .answer _ _ _ => s

/-- SPDM ERROR codes of DSP0274: InvalidRequest. -/
def errInvalid : Byte := 0x01
/-- UnexpectedRequest. -/
def errUnexpected : Byte := 0x04
/-- Unspecified. -/
def errUnspecified : Byte := 0x05
/-- DecryptError. -/
def errDecrypt : Byte := 0x06
/-- UnsupportedRequest. -/
def errUnsupported : Byte := 0x07
/-- SessionLimitExceeded. -/
def errSessionLimit : Byte := 0x0A

/-- A response put on the wire: in a bond handshake it goes out in CTRL flits and joins the handshake's transcript (R244, R246). -/
def sendReply (s : State) (t : Transport) (code : Nat) (body : Bytes) : State :=
  let x := getSpdm s t
  let s := setSpdm s t { x with out := x.out ++ [(BitVec.ofNat 8 code, body)] }
  match t with
  | .bond _ src => (match handshakeWith s src with
      | some b => record (sendHandshake s b 1 (Config.spdmMessage code body)) b 1 (Config.spdmMessage code body)
      | none => s)
  | _ => s

/-- A response of a code sent on a transport; request and response join the transcript. (PRESUMED, log entry 24) -/
def reply (s : State) (t : Transport) (req : Nat) (args : Bytes) (code : Nat) (body : Bytes) : State :=
  let x := getSpdm s t
  sendReply (setSpdm s t { x with transcript := x.transcript ++ Config.spdmMessage req args ++ Config.spdmMessage code body }) t code body

/-- ERROR sent; the transcript keeps what it held. (PRESUMED, log entry 24) -/
def replyError (s : State) (t : Transport) (e : Byte) : State := sendReply s t 0x7F [e]

/-- A signature that a later GET_PQ_SIGNATURE would repeat is forgotten (R394). -/
def clearPending (s : State) (t : Transport) : State := setSpdm s t { getSpdm s t with pending := none }

/-! ## What is offered (R396) -/

/-- PILOT, FIELD, SUNSET or RETURN: everything of R393 to R395. -/
def fullOffer (s : State) : Bool := (lcClass s).isSome

/-- A request `m` served. In a bond handshake it is part of its transcript, and one that belongs to no handshake is answered ABORT
(R243); a response of the peer that answers no request of this hub changes nothing. (PRESUMED, log entry 24) -/
def serveRequest (t : Transport) (m : Bytes) (f : State → State) (s : State) : Host.Outcome State Fault Refusal :=
  if !running s then .next s
  else match t with
    | .bond p src => .next (fabricSettle (onHandshake s p src fun b _ => f (record s b 1 m)))
    | .answer _ _ _ => .next s
    | _ => .next (fabricSettle (f s))

/-- One of the seven requests of R245 step 1, request number `step` with answer code `code`: served, or the peer's answer to this hub's
own request taken. -/
def serveOrTake (t : Transport) (step code : Nat) (m : Bytes) (f : State → State) (s : State) : Host.Outcome State Fault Refusal :=
  match t with
  | .answer p src body =>
    if running s ∧ portHears s p then
      match handshakeWith s src with
      | some b => .next (fabricSettle (takeAnswer s b step code body))
      | none => .next s
    else .next s
  | _ => serveRequest t m f s

/-- A request that needs the negotiation of R393 behind it, and a state that offers everything. (PRESUMED, log entry 24) -/
def negotiated (s : State) (t : Transport) (f : State → State) : State :=
  let s := clearPending s t
  if !fullOffer s then replyError s t errUnsupported
  else if (getSpdm s t).stage < 3 then replyError s t errUnexpected
  else f s

/-- A request of Table 15.3's capabilities that exist on I3C only. -/
def onI3c (s : State) (t : Transport) (f : State → State) : State :=
  if t = .i3c then negotiated s t f else replyError (clearPending s t) t errUnsupported

/-! ## Negotiation (R393) -/

/-- GET_VERSION: only 1.2; a new exchange begins. -/
def versionRequest (t : Transport) (s : State) : State :=
  let x := getSpdm s t
  reply (setSpdm s t { x with stage := 1, transcript := [], pending := none }) t 0x84 [] 0x04 (toLE 0x1200 2)

/-- GET_VERSION, the first request of a peer's handshake: unless this hub's own goes on, a bond's exchange begins with it (R245). -/
def firstVersion (t : Transport) (s : State) : State :=
  match t with
  | .bond p src => onHandshake s p src fun b _ =>
      if (takeFirst s b).2 then versionRequest t (record (takeFirst s b).1 b 1 (Config.spdmMessage 0x84 [])) else s
  | _ => versionRequest t s

/-- GET_VERSION. -/
def execGetVersion (t : Transport) (s : State) : Host.Outcome State Fault Refusal :=
  match t with
  | .bond _ _ => if running s then .next (fabricSettle (firstVersion t s)) else .next s
  | _ => serveOrTake t 1 0x04 (Config.spdmMessage 0x84 []) (versionRequest t) s

/-- GET_CAPABILITIES. -/
def capabilitiesRequest (t : Transport) (s : State) : State :=
  let s := clearPending s t
  let x := getSpdm s t
  if x.stage < 1 then replyError s t errUnexpected
  else reply (setSpdm s t { x with stage := Nat.max 2 x.stage }) t 0xE1 [] 0x61 (toLE (capabilityFlags t) 4)

/-- GET_CAPABILITIES. -/
def execGetCapabilities (t : Transport) (s : State) : Host.Outcome State Fault Refusal := serveOrTake t 2 0x61 (Config.spdmMessage 0xE1 []) (capabilitiesRequest t) s

/-- NEGOTIATE_ALGORITHMS. -/
def algorithmsRequest (t : Transport) (s : State) : State :=
  let s := clearPending s t
  let x := getSpdm s t
  if x.stage < 2 then replyError s t errUnexpected
  else reply (setSpdm s t { x with stage := 3 }) t 0xE3 [] 0x63 (algorithmSelection t)

/-- NEGOTIATE_ALGORITHMS. -/
def execNegotiateAlgorithms (t : Transport) (s : State) : Host.Outcome State Fault Refusal := serveOrTake t 3 0x63 (Config.spdmMessage 0xE3 []) (algorithmsRequest t) s

/-! ## Certificates (R392) -/

/-- Public keys of a key pair's seeds: P-384 X then Y, and ML-DSA-65. -/
def publicKeys (ec ml : Bytes) : Bytes × Bytes := (bslice (Config.ecdsaPublic ec) 0 96, bslice (Config.mldsaPublic ml) 0 1952)

/-- Seeds of a layer's key pair: from CDI_0, from CDI_1. -/
def layerSeeds (s : State) (layer : Nat) : Bytes × Bytes :=
  let cdi := (getSlot s (6 + layer)).key
  (ecSeed cdi, mlSeed cdi)

/-- FWID and MEASUREMENT of layers 0 and 1. -/
def layerMeasurement (s : State) (layer : Nat) : Bytes := if layer = 0 then romDigest else toBE s.cfg.fwDigest.toNat 48

/-- X.509 certificate of layer 0 or 1: DeviceID certifies itself and Alias. -/
def layerX509 (s : State) (layer : Nat) : Bytes :=
  let subject := layerSeeds s layer
  Config.x509 layer (layerSeeds s 0).1 (publicKeys subject.1 subject.2).1 (serialBytes s) (layerMeasurement s layer)

/-- A PQ certificate (Table 15.2). -/
def pqCert (s : State) (layer : Nat) (issuer subject : Bytes × Bytes) (gid : Word) (meas : Bytes) : Bytes :=
  let ipk := publicKeys issuer.1 issuer.2
  let spk := publicKeys subject.1 subject.2
  let body := toLE 0x54514342 4 ++ toLE layer 1 ++ zeros 3 ++ serialBytes s ++ toLE gid.toNat 4 ++ zeros 4 ++ bslice meas 0 48
    ++ (if layer = 0 then zeros 48 else sha384 (ipk.1 ++ ipk.2)) ++ spk.1 ++ spk.2
  body ++ bslice ((Config.mldsaSign issuer.2 (ascii "BLNL-PQ-CERT" ++ body)).getD []) 0 3309 ++ zeros 3

/-- PQ certificate of layer 0 or 1. -/
def layerPq (s : State) (layer : Nat) : Bytes := pqCert s layer (layerSeeds s 0) (layerSeeds s layer) 0 (layerMeasurement s layer)

/-- Layers that slot 0 holds: in configuration recovery only DeviceID (R396). -/
def slotLayers (s : State) : List Nat := if s.cfg.recovery then [0] else [0, 1]

/-- The certificate chain of slot 0 (DSP0274: length, reserved, root hash, certificates). -/
def slotChain (s : State) : Bytes :=
  let certs := (slotLayers s).flatMap (layerX509 s)
  toLE (52 + certs.length) 2 ++ zeros 2 ++ sha384 (layerX509 s 0) ++ certs

/-- GET_DIGESTS: slot 0 only. -/
def digestsRequest (t : Transport) (s : State) : State :=
  negotiated s t fun s => reply s t 0x81 [] 0x01 ([0x01] ++ sha384 (slotChain s))

/-- GET_DIGESTS. -/
def execGetDigests (t : Transport) (s : State) : Host.Outcome State Fault Refusal := serveOrTake t 4 0x01 (Config.spdmMessage 0x81 []) (digestsRequest t) s

/-- GET_CERTIFICATE: the portion asked for, with its length and what remains. -/
def certificateRequest (t : Transport) (slot : BitVec 8) (offset length : BitVec 16) (s : State) : State :=
  negotiated s t fun s =>
    let c := slotChain s
    if slot ≠ 0 ∨ offset.toNat ≥ c.length then replyError s t errInvalid
    else
      let n := Nat.min length.toNat (c.length - offset.toNat)
      reply s t 0x82 (slot :: toLE offset.toNat 2 ++ toLE length.toNat 2) 0x02
        (slot :: toLE n 2 ++ toLE (c.length - offset.toNat - n) 2 ++ bslice c offset.toNat n)

/-- GET_CERTIFICATE. -/
def execGetCertificate (t : Transport) (slot : BitVec 8) (offset length : BitVec 16) (s : State) :
    Host.Outcome State Fault Refusal := serveOrTake t 5 0x02 (Config.spdmMessage 0x82 (slot :: toLE offset.toNat 2 ++ toLE length.toNat 2)) (certificateRequest t slot offset length) s

/-! ## Signed responses -/

/-- A response that carries a fresh nonce and the signing layer's ECDSA signature over the exchange; the transcript
hash stays open
to GET_PQ_SIGNATURE (R394). Without randomness there is none (R145). (PRESUMED, log entry 24) -/
def signedReply (s : State) (t : Transport) (req : Nat) (args : Bytes) (code : Nat) (body : Bytes) : State :=
  if noEntropy s then replyError s t errUnspecified
  else
    let (s, nonce) := drawFresh s 32
    let x := getSpdm s t
    let body := body ++ nonce
    let h := Config.spdmHash code (x.transcript ++ Config.spdmMessage req args ++ Config.spdmMessage code body)
    let s := reply s t req args code (body ++ signEc s (Config.spdmSigned code h))
    setSpdm s t { getSpdm s t with pending := some h }

/-- CHALLENGE: CHALLENGE_AUTH with the digest of the slot 0 chain. -/
def challengeRequest (t : Transport) (nonce : BitVec 256) (s : State) : State :=
  negotiated s t fun s => signedReply s t 0x83 (toLE nonce.toNat 32) 0x03 (sha384 (slotChain s))

/-- CHALLENGE. -/
def execChallenge (t : Transport) (nonce : BitVec 256) (s : State) : Host.Outcome State Fault Refusal :=
  serveOrTake t 6 0x03 (Config.spdmMessage 0x83 (toLE nonce.toNat 32)) (challengeRequest t nonce) s

/-! ## Measurements (R395, Table 15.5) -/

/-- SHA-384 of a section in force; of a section that no slot holds, open. (DESIGN CHOICE, log entry 53) -/
def sectionDigest (k : Nat) : Option Bytes → Bytes
  | some b => sha384 b
  | none => (List.range 48).map fun i => Config.absentDigest (48 * k + i)

/-- Local indexes and global IDs of the LIVE tenant accords; none in dry-down (R396). -/
def liveAccords (s : State) : List (Nat × Word) :=
  if inDry s then []
  else ((List.range 1024).filter fun a => 2 ≤ a && (getAccord s a).state == .live).map fun a => (a, (getAccord s a).gid)

/-- SPDM type and content of an index; none where it does not apply. -/
def measurement (s : State) (index : Nat) : Option (Nat × Bytes) :=
  match index with
  | 0x01 => some (0, romDigest)
  | 0x02 => some (2, toLE s.lcc.state 1 ++ toLE s.lcc.count 1 ++ zeros 2 ++ serialBytes s)
  | 0x03 =>
    if s.cfg.recovery then none
    else
      let v := s.fwVersion.toNat
      some (1, toBE s.cfg.fwDigest.toNat 48 ++ toLE s.cfg.svn.toNat 1 ++ toLE (v / 2 ^ 24) 1 ++ toLE (v / 2 ^ 16) 1 ++ zeros 1
        ++ toLE v 2 ++ zeros 2)
  | 0x04 =>
    if s.cfg.recovery then none
    else
      let seq := (if s.cfg.selected then s.cfg.seqB else s.cfg.seqA).getD 0
      some (3, toLE (b2n s.cfg.selected) 1 ++ zeros 3 ++ toLE seq.toNat 4 ++ sectionDigest 0 s.cfg.trust
        ++ sectionDigest 1 s.cfg.policy)
  | 0x05 => some (2, toLE s.otp.ownerDigest.toNat 48)
  | 0x06 =>
    if s.cfg.recovery ∨ (getSlot s 8).state ≠ .live ∨ (getSlot s 9).state ≠ .live ∨ (s.lcc.state ≠ 6 ∧ s.lcc.state ≠ 7) then none
    else some (4, bslice (Config.ecdhPublic (getSlot s 8).key) 0 96 ++ bslice (Config.kemPublic (getSlot s 9).key) 0 1568)
  | 0x07 =>
    some (2, toLE (readHub s .mgmt 0x10).toNat 4 ++ toLE (readHub s .mgmt 0x14).toNat 4
      ++ toLE (b2n (inDry s) + 2 * b2n s.cfg.recovery) 4)
  | 0x08 => some (4, bslice s.frs.record 0 64)
  | 0x10 =>
    if s.cfg.recovery then none
    else
      let l := liveAccords s
      some (4, toLE l.length 2 ++ zeros 2 ++ l.flatMap fun a => toLE a.2.toNat 4)
  | _ => none

/-- Every index of Table 15.5. -/
def allIndexes : List Nat := [0x01, 0x02, 0x03, 0x04, 0x05, 0x06, 0x07, 0x08, 0x10]

/-- The measurement block of an index, as a raw bit stream (DSP0274). -/
def measurementBlock (s : State) (index : Nat) : Option Bytes :=
  (measurement s index).map fun m =>
    toLE index 1 ++ [0x01] ++ toLE (m.2.length + 3) 2 ++ toLE (0x80 + m.1) 1 ++ toLE m.2.length 2 ++ m.2

/-- Blocks that a request names; none for an index that does not apply. Index 0 asks for their number only. -/
def blocksFor (s : State) (index : Nat) : Option (Nat × Bytes) :=
  let all := allIndexes.filterMap (measurementBlock s)
  if index = 0 then some (all.length, [])
  else if index = 0xFF then some (all.length, all.flatten)
  else (measurementBlock s index).map fun b => (1, b)

/-- What a GET_MEASUREMENTS request holds. -/
def measurementArgs (index : BitVec 8) (signed : Bool) (nonce : BitVec 256) : Bytes :=
  [index, if signed then 1 else 0] ++ (if signed then toLE nonce.toNat 32 else [])

/-- GET_MEASUREMENTS. A state that offers no signature answers the unsigned form only. -/
def measurementsRequest (t : Transport) (index : BitVec 8) (signed : Bool) (nonce : BitVec 256) (s : State) : State :=
  let s := clearPending s t
  let args := measurementArgs index signed nonce
  if signed ∧ !fullOffer s then replyError s t errUnsupported
  else if (getSpdm s t).stage < 3 then replyError s t errUnexpected
  else match blocksFor s index.toNat with
    | none => replyError s t errInvalid
    | some (n, d) =>
      let body := toLE n 1 ++ toLE d.length 3 ++ d
      if signed then signedReply s t 0xE0 args 0x60 body else reply s t 0xE0 args 0x60 body

/-- After a peer's last request of R245 step 1, its attestation of this chip is over. -/
def afterMeasurements (t : Transport) (s : State) : State :=
  match t with
  | .bond _ src => (match handshakeWith s src with
      | some b => if (getBond s b).spdm.pending.isSome then attestationServed s b else s
      | none => s)
  | _ => s

/-- GET_MEASUREMENTS. -/
def execGetMeasurements (t : Transport) (index : BitVec 8) (signed : Bool) (nonce : BitVec 256) (s : State) :
    Host.Outcome State Fault Refusal :=
  serveOrTake t 7 0x60 (Config.spdmMessage 0xE0 (measurementArgs index signed nonce))
    (fun s => afterMeasurements t (measurementsRequest t index signed nonce s)) s

/-! ## Secured sessions (R398, R402) -/

/-- ExchangeData of a KEY_EXCHANGE request (DSP0274). -/
def exchangeData (request : Bytes) : Bytes := bslice request 40 96

/-- What KEY_EXCHANGE_RSP tells of the session: the heartbeat period of 10 s (Table 15.3) and MutAuthRequested (R398). -/
def exchangeTerms : Bytes := [0x0A, 0x01]

/-- KEY_EXCHANGE: a key pair is drawn, the secret agreed and the response signed; at most one session exists. Its signature is none that
GET_PQ_SIGNATURE repeats (Table 15.4). -/
def keyExchangeRequest (t : Transport) (request : Bytes) (s : State) : State :=
  onI3c s t fun s =>
    if s.mgmt.sec ≠ .none then replyError s t errSessionLimit
    else if noEntropy s then replyError s t errUnspecified
    else
      let (s, seed) := drawFresh s 56
      match Config.ecdhX seed (exchangeData request) with
      | none => replyError s t errInvalid
      | some secret =>
        let s := clearPending (signedReply s t 0xE4 request 0x64 (exchangeTerms ++ bslice (Config.ecdhPublic seed) 0 96)) t
        { s with mgmt := { s.mgmt with sec := .exchanged, dhe := secret } }

/-- KEY_EXCHANGE. -/
def execKeyExchange (t : Transport) (request : Bytes) (s : State) : Host.Outcome State Fault Refusal :=
  serveRequest t (Config.spdmMessage 0xE4 request) (keyExchangeRequest t request) s

/-- A failed check: the session ends with DecryptError. -/
def failSession (s : State) (t : Transport) : State := replyError (endMgmtSession s) t errDecrypt

/-- Signature of a FINISH request, and its verify data (DSP0274). -/
def finishSignature (request : Bytes) : Bytes := bslice request 4 96
/-- Verify data. -/
def finishMac (request : Bytes) : Bytes := bslice request 100 48

/-- FINISH: the requester's chain, its signature and its verify data are checked, and the session is established. -/
def finishRequest (t : Transport) (request chain : Bytes) (s : State) : State :=
  onI3c s t fun s =>
    if s.mgmt.sec ≠ .exchanged then replyError s t errUnexpected
    else
      let h := Config.spdmHash 0xE5 ((getSpdm s t).transcript ++ chain)
      match Config.certKeys chain with
      | none => failSession s t
      | some (root, leaf) =>
        if !Config.ecdsaVerify leaf (Config.spdmSigned 0xE5 h) (finishSignature request)
            ∨ finishMac request ≠ Config.spdmMac 0xE5 s.mgmt.dhe h then failSession s t
        else
          let s := reply s t 0xE5 request 0x65 (Config.spdmMac 0x65 s.mgmt.dhe h)
          let th2 := Config.spdmHash 0x65 ((getSpdm s t).transcript ++ chain)
          let s := { s with mgmt := { s.mgmt with
            sec := .finished, sessions := Nat.min 65535 (s.mgmt.sessions + 1), th2 := th2, reqRoot := root, reqLeaf := leaf
            reqDigest := BitVec.ofNat 384 (beNat (sha384 (Config.chainLeaf chain))) } }
          setSpdm s t { getSpdm s t with pending := some h }

/-- FINISH. -/
def execFinish (t : Transport) (request chain : Bytes) (s : State) : Host.Outcome State Fault Refusal :=
  serveRequest t (Config.spdmMessage 0xE5 request) (finishRequest t request chain) s

/-- A request inside an established session. -/
def inSession (s : State) (t : Transport) (f : State → State) : State :=
  onI3c s t fun s => if mgmtSession s then f s else replyError s t errUnexpected

/-- END_SESSION. -/
def endSessionRequest (t : Transport) (s : State) : State :=
  inSession s t fun s => endMgmtSession (reply s t 0xEC [] 0x6C [])

/-- END_SESSION. -/
def execEndSession (t : Transport) (s : State) : Host.Outcome State Fault Refusal := serveRequest t (Config.spdmMessage 0xEC []) (endSessionRequest t) s

/-- HEARTBEAT. -/
def heartbeatRequest (t : Transport) (s : State) : State := inSession s t fun s => reply s t 0xE8 [] 0x68 []

/-- HEARTBEAT. -/
def execHeartbeat (t : Transport) (s : State) : Host.Outcome State Fault Refusal := serveRequest t (Config.spdmMessage 0xE8 []) (heartbeatRequest t) s

/-- KEY_UPDATE (DSP0274): its operation renews the requester's keys, both sides', or only verifies the new ones. -/
def keyUpdateRequest (t : Transport) (request : Bytes) (s : State) : State :=
  inSession s t fun s =>
    let op := leField request 2 1
    if op = 0 ∨ op > 3 then replyError s t errInvalid
    else
      let m := s.mgmt
      let s := { s with mgmt := { m with reqKeys := if op ≤ 2 then m.reqKeys + 1 else m.reqKeys
                                         rspKeys := if op = 2 then m.rspKeys + 1 else m.rspKeys } }
      reply s t 0xE9 request 0x69 (bslice request 2 2)

/-- KEY_UPDATE. -/
def execKeyUpdate (t : Transport) (request : Bytes) (s : State) : Host.Outcome State Fault Refusal :=
  serveRequest t (Config.spdmMessage 0xE9 request) (keyUpdateRequest t request) s

/-! ## Vendor requests (R394) -/

/-- A vendor request: its code and what follows it. -/
def vendorMessage (code : Nat) (args : Bytes) : Bytes := Config.spdmMessage 0xFE (toLE code 2 ++ args)

/-- A vendor response: the request's code and its payload. -/
def vendorReply (s : State) (t : Transport) (code : Nat) (args payload : Bytes) : State :=
  reply s t 0xFE (toLE code 2 ++ args) 0x7E (toLE code 2 ++ payload)

/-- One certificate of a requester's PQ chain under its issuer's keys: layout, issuer and signature. -/
def pqLink (issuer : Option (Bytes × Bytes)) (c : Bytes) : Bool :=
  let keys := (bslice c 128 96, bslice c 224 1952)
  let up := issuer.getD keys
  c.length == 5488 && leField c 0 4 == 0x54514342
    && (issuer.isNone || bslice c 80 48 == sha384 (up.1 ++ up.2))
    && Config.mldsaVerify up.2 (ascii "BLNL-PQ-CERT" ++ bslice c 0 2176) (bslice c 2176 3309)

/-- A chain of such certificates verified from its root: the keys of the last. -/
def pqChainKeys : Option (Bytes × Bytes) → List Bytes → Option (Bytes × Bytes)
  | issuer, [] => issuer
  | issuer, c :: rest => if pqLink issuer c then pqChainKeys (some (bslice c 128 96, bslice c 224 1952)) rest else none

/-- R398: the requester's PQ chain is rooted in the owner's key, whose digest with the X.509 root's is the one in OTP,
and its leaf
names the X.509 leaf's key; the leaf's ML-DSA-65 key. -/
def requesterKey (s : State) (chain : Bytes) : Option Bytes :=
  let certs := chunks 5488 chain
  match certs, pqChainKeys none certs with
  | root :: _, some (ec, ml) =>
    let digest := sha384 (s.mgmt.reqRoot ++ bslice root 224 1952)
    if bslice root 128 96 = s.mgmt.reqRoot ∧ digest = toLE s.otp.ownerDigest.toNat 48 ∧ ec = s.mgmt.reqLeaf then some ml else none
  | _, _ => none

/-- GET_PQ_CHAIN; in a new session the requester gives its own chain, which is checked. -/
def pqChainRequest (t : Transport) (response : Bytes) (s : State) : State :=
  negotiated s t fun s =>
    let answer (s : State) : State := vendorReply s t 0x0001 [] ((slotLayers s).flatMap (layerPq s))
    if t = .i3c ∧ s.mgmt.sec = .finished ∧ !response.isEmpty then
      match requesterKey s response with
      | some ml => answer { s with mgmt := { s.mgmt with sec := .chainOk, reqMldsa := ml } }
      | none => failSession s t
    else answer s

/-- GET_PQ_CHAIN. -/
def execGetPqChain (t : Transport) (response : Bytes) (s : State) : Host.Outcome State Fault Refusal :=
  serveRequest t (vendorMessage 0x0001 []) (pqChainRequest t response) s

/-- GET_PQ_SIGNATURE: it alone leaves the pending signature in place. -/
def pqSignatureRequest (t : Transport) (s : State) : State :=
  if !fullOffer s then replyError (clearPending s t) t errUnsupported
  else match (getSpdm s t).pending with
    | none => replyError s t errUnexpected
    | some h => vendorReply s t 0x0002 [] (signMl s (toBE h.toNat 48))

/-- GET_PQ_SIGNATURE. -/
def execGetPqSignature (t : Transport) (s : State) : Host.Outcome State Fault Refusal := serveRequest t (vendorMessage 0x0002 []) (pqSignatureRequest t) s

/-- The LIVE accord with a global ID whose key exists; none in dry-down (R396). -/
def accordByGid (s : State) (gid : Word) : Option Nat :=
  if inDry s then none
  else (List.range 1024).find? fun a => (getAccord s a).state == .live && (getAccord s a).gid == gid && (getAccord s a).accordKey.isSome

/-- Seeds of an accord's key pair, as drawn (R391). (DEDUCED, log entry 62) -/
def accordSeeds (s : State) (a : Nat) : Bytes × Bytes :=
  let k := (getAccord s a).accordKey.getD []
  (bslice k 0 56, bslice k 56 32)

/-- X.509 and PQ certificates of an accord; Alias issues them. -/
def accordCerts (s : State) (a : Nat) : Bytes :=
  let x := getAccord s a
  let k := accordSeeds s a
  let m := toBE x.m.toNat 48
  Config.x509 2 (layerSeeds s 1).1 (publicKeys k.1 k.2).1 (serialBytes s) m ++ pqCert s 2 (layerSeeds s 1) k x.gid m

/-- GET_ACCORD_CERT. -/
def accordCertRequest (t : Transport) (gid : BitVec 32) (s : State) : State :=
  negotiated s t fun s => match accordByGid s gid with
    | some a => vendorReply s t 0x0003 (toLE gid.toNat 4) (accordCerts s a)
    | none => replyError s t errInvalid

/-- GET_ACCORD_CERT. -/
def execGetAccordCert (t : Transport) (gid : BitVec 32) (s : State) : Host.Outcome State Fault Refusal :=
  serveRequest t (vendorMessage 0x0003 (toLE gid.toNat 4)) (accordCertRequest t gid) s

/-- Bytes 0 to 159 of a quote (Table 15.6). -/
def quoteBody (s : State) (a : Nat) (nonce : BitVec 256) : Bytes :=
  let x := getAccord s a
  toLE 0x51544341 4 ++ [0x01] ++ toLE (b2n x.scheduled + 2 * b2n x.far) 1 ++ toLE a 2 ++ toLE x.gid.toNat 4 ++ toLE x.deltaSeq 4
    ++ toLE nonce.toNat 32 ++ toBE x.m.toNat 48 ++ toBE x.d.toNat 48 ++ zeros 16

/-- A signed quote. -/
def quote (s : State) (a : Nat) (nonce : BitVec 256) : Bytes :=
  let b := quoteBody s a nonce
  let k := accordSeeds s a
  let m := ascii "BLNL-ACCORD-QUOT" ++ b
  b ++ bslice (Config.ecdsaSign k.1 m) 0 96 ++ bslice ((Config.mldsaSign k.2 m).getD []) 0 3309 ++ zeros 3

/-- ACCORD_QUOTE (R397). -/
def quoteRequest (t : Transport) (gid : BitVec 32) (nonce : BitVec 256) (s : State) : State :=
  negotiated s t fun s => match accordByGid s gid with
    | some a => vendorReply s t 0x0004 (toLE gid.toNat 4 ++ toLE nonce.toNat 32) (quote s a nonce)
    | none => replyError s t errInvalid

/-- ACCORD_QUOTE. -/
def execAccordQuote (t : Transport) (gid : BitVec 32) (nonce : BitVec 256) (s : State) : Host.Outcome State Fault Refusal :=
  serveRequest t (vendorMessage 0x0004 (toLE gid.toNat 4 ++ toLE nonce.toNat 32)) (quoteRequest t gid nonce) s

/-- PQ_BIND: both ends sign TH2, and management messages are accepted from then on (R398). -/
def pqBindRequest (t : Transport) (signature : Bytes) (s : State) : State :=
  inSession s t fun s =>
    let th2 := toBE s.mgmt.th2.toNat 48
    if s.mgmt.sec = .finished then replyError s t errUnexpected
    else if !Config.mldsaVerify s.mgmt.reqMldsa th2 (bslice signature 0 3309) then failSession s t
    else vendorReply { s with mgmt := { s.mgmt with sec := .bound } } t 0x0005 signature (signMl s th2)

/-- PQ_BIND. -/
def execPqBind (t : Transport) (signature : Bytes) (s : State) : Host.Outcome State Fault Refusal :=
  serveRequest t (vendorMessage 0x0005 signature) (pqBindRequest t signature) s

end Sys2Proof.Machine
end

