-- ==== Sys2Proof/Machine/Dispatch.lean ====
section
/-! DEFINITION. The effect of each command, one arm per row of the opcode table. -/

namespace Sys2Proof.Machine

/-- The effect of a command on everything but the queue. -/
def exec (i : Instr) (s : State) : Host.Outcome State Fault Refusal :=
  match i with
  | .nop q => Sys2Proof.Machine.execNop q s
  | .sessionOpen q => Sys2Proof.Machine.execSessionOpen q s
  | .sessionClose q => Sys2Proof.Machine.execSessionClose q s
  | .sessionAbort q => Sys2Proof.Machine.execSessionAbort q s
  | .queueCreate q => Sys2Proof.Machine.execQueueCreate q s
  | .queueDestroy q => Sys2Proof.Machine.execQueueDestroy q s
  | .queueSetTimeout q => Sys2Proof.Machine.execQueueSetTimeout q s
  | .queueRestart q => Sys2Proof.Machine.execQueueRestart q s
  | .fenceCreate q => Sys2Proof.Machine.execFenceCreate q s
  | .fenceSignal q => Sys2Proof.Machine.execFenceSignal q s
  | .fenceError q => Sys2Proof.Machine.execFenceError q s
  | .fenceQuery q => Sys2Proof.Machine.execFenceQuery q s
  | .objectRef q => Sys2Proof.Machine.execObjectRef q s
  | .objectUnref q => Sys2Proof.Machine.execObjectUnref q s
  | .objectShare q => Sys2Proof.Machine.execObjectShare q s
  | .coreAttach q => Sys2Proof.Machine.execCoreAttach q s
  | .imageLoad q => Sys2Proof.Machine.execImageLoad q s
  | .imageCommit id => Sys2Proof.Machine.execImageCommit id s
  | .accordBind q => Sys2Proof.Machine.execAccordBind q s
  | .accordUnbind q => Sys2Proof.Machine.execAccordUnbind q s
  | .accordRetire q => Sys2Proof.Machine.execAccordRetire q s
  | .partitionReset q => Sys2Proof.Machine.execPartitionReset q s
  | .allocate q => Sys2Proof.Machine.execAllocate q s
  | .carvePoolSet q => Sys2Proof.Machine.execCarvePoolSet q s
  | .regionSealBegin q => Sys2Proof.Machine.execRegionSealBegin q s
  | .regionSeal q => Sys2Proof.Machine.execRegionSeal q s
  | .epochRetire q => Sys2Proof.Machine.execEpochRetire q s
  | .sillageHarvest q => Sys2Proof.Machine.execSillageHarvest q s
  | .fold q => Sys2Proof.Machine.execFold q s
  | .bondOpen q => Sys2Proof.Machine.execBondOpen q s
  | .bondClose q => Sys2Proof.Machine.execBondClose q s
  | .bondRekey q => Sys2Proof.Machine.execBondRekey q s
  | .streamOpen q => Sys2Proof.Machine.execStreamOpen q s
  | .streamClose q => Sys2Proof.Machine.execStreamClose q s
  | .portEnable q => Sys2Proof.Machine.execPortEnable q s
  | .portDisable q => Sys2Proof.Machine.execPortDisable q s
  | .keyStage q => Sys2Proof.Machine.execKeyStage q s
  | .keyCheck q => Sys2Proof.Machine.execKeyCheck q s
  | .keyCommit q => Sys2Proof.Machine.execKeyCommit q s
  | .keyRetire q => Sys2Proof.Machine.execKeyRetire q s
  | .keyDerive q => Sys2Proof.Machine.execKeyDerive q s
  | .gceRun q => Sys2Proof.Machine.execGceRun q s
  | .gceJobStart => Sys2Proof.Machine.execGceJobStart s
  | .drbgRead q => Sys2Proof.Machine.execDrbgRead q s
  | .otuInvalidate q => Sys2Proof.Machine.execOtuInvalidate q s
  | .invalidationDrained id => Sys2Proof.Machine.execInvalidationDrained id s
  | .otuMissReply q => Sys2Proof.Machine.execOtuMissReply q s
  | .bounceIn q => Sys2Proof.Machine.execBounceIn q s
  | .bounceOut q => Sys2Proof.Machine.execBounceOut q s
  | .vfQuiesce q => Sys2Proof.Machine.execVfQuiesce q s
  | .vfResume q => Sys2Proof.Machine.execVfResume q s
  | .lcTransition q => Sys2Proof.Machine.execLcTransition q s
  | .debugAuth q => Sys2Proof.Machine.execDebugAuth q s
  | .globalStop q => Sys2Proof.Machine.execGlobalStop q s
  | .tensorWatch q => Sys2Proof.Machine.execTensorWatch q s
  | .configUpdate q => Sys2Proof.Machine.execConfigUpdate q s
  | .trimWrite q => Sys2Proof.Machine.execTrimWrite q s
  | .powerState q => Sys2Proof.Machine.execPowerState q s
  | .powerCycle q => Sys2Proof.Machine.execPowerCycle q s
  | .zeroizeAll q => Sys2Proof.Machine.execZeroizeAll q s
  | .faultAck q => Sys2Proof.Machine.execFaultAck q s
  | .doorbell cg word => Sys2Proof.Machine.execDoorbell cg word s
  | .hostDoorbell fn word => Sys2Proof.Machine.execHostDoorbell fn word s
  | .vfCommandSlotWrite vf slot words => Sys2Proof.Machine.execVfCommandSlotWrite vf slot words s
  | .debugDoorbell w value => Sys2Proof.Machine.execDebugDoorbell w value s
  | .pfqEnable w value => Sys2Proof.Machine.execPfqEnable w value s
  | .commandFetch q => Sys2Proof.Machine.execCommandFetch q s
  | .commandTimeout q ring => Sys2Proof.Machine.execCommandTimeout q ring s
  | .stampRequest st r => Sys2Proof.Machine.execStampRequest st r s
  | .carve cg tag offset => Sys2Proof.Machine.execCarve cg tag offset s
  | .stCgClearAck cg => Sys2Proof.Machine.execStCgClearAck cg s
  | .admissionSlot m => Sys2Proof.Machine.execAdmissionSlot m s
  | .readLine m u => Sys2Proof.Machine.execReadLine m u s
  | .readStretcher m u => Sys2Proof.Machine.execReadStretcher m u s
  | .accordResident a => Sys2Proof.Machine.execAccordResident a s
  | .writeLine m u => Sys2Proof.Machine.execWriteLine m u s
  | .writeStretcher m u => Sys2Proof.Machine.execWriteStretcher m u s
  | .writeBrick m u => Sys2Proof.Machine.execWriteBrick m u s
  | .add m u => Sys2Proof.Machine.execAdd m u s
  | .min m u => Sys2Proof.Machine.execMin m u s
  | .max m u => Sys2Proof.Machine.execMax m u s
  | .cas m u => Sys2Proof.Machine.execCas m u s
  | .swap m u => Sys2Proof.Machine.execSwap m u s
  | .cellW64 m u => Sys2Proof.Machine.execCellW64 m u s
  | .cellX512 m u => Sys2Proof.Machine.execCellX512 m u s
  | .touch m u => Sys2Proof.Machine.execTouch m u s
  | .storeFillComplete m stretcher => Sys2Proof.Machine.execStoreFillComplete m stretcher s
  | .hbmReadReturn m rid part line rerr => Sys2Proof.Machine.execHbmReadReturn m rid part line rerr s
  | .reencryptionComplete m brick => Sys2Proof.Machine.execReencryptionComplete m brick s
  | .pinnedWriteback m level index => Sys2Proof.Machine.execPinnedWriteback m level index s
  | .epochPassStep m chan => Sys2Proof.Machine.execEpochPassStep m chan s
  | .scrubStep chan => Sys2Proof.Machine.execScrubStep chan s
  | .harvestWalkStep m => Sys2Proof.Machine.execHarvestWalkStep m s
  | .sealRewriteComplete m rt => Sys2Proof.Machine.execSealRewriteComplete m rt s
  | .bandwidthWindowEnd m => Sys2Proof.Machine.execBandwidthWindowEnd m s
  | .handoverDrainComplete k n => Sys2Proof.Machine.execHandoverDrainComplete k n s
  | .eraseComplete k n => Sys2Proof.Machine.execEraseComplete k n s
  | .streamDrainTimeout stream => Sys2Proof.Machine.execStreamDrainTimeout stream s
  | .linkUp p => Sys2Proof.Machine.execLinkUp p s
  | .linkDown p => Sys2Proof.Machine.execLinkDown p s
  | .portTransmit p lanes => Sys2Proof.Machine.execPortTransmit p lanes s
  | .windowIdleClose stream => Sys2Proof.Machine.execWindowIdleClose stream s
  | .dataFlitReceive p flit rxErr lanes => Sys2Proof.Machine.execDataFlitReceive p flit rxErr lanes s
  | .tagFlitReceive p flit rxErr lanes => Sys2Proof.Machine.execTagFlitReceive p flit rxErr lanes s
  | .ackOwedTimeout stream => Sys2Proof.Machine.execAckOwedTimeout stream s
  | .retransmitTimeout stream => Sys2Proof.Machine.execRetransmitTimeout stream s
  | .stopFlit p flit => Sys2Proof.Machine.execStopFlit p flit s
  | .helloI p src msg => Sys2Proof.Machine.execHelloI p src msg s
  | .helloR p src msg => Sys2Proof.Machine.execHelloR p src msg s
  | .bondFinish p src msg => Sys2Proof.Machine.execBondFinish p src msg s
  | .abort p src code => Sys2Proof.Machine.execAbort p src code s
  | .handshakeRepeat bond => Sys2Proof.Machine.execHandshakeRepeat bond s
  | .handshakeTimeout bond => Sys2Proof.Machine.execHandshakeTimeout bond s
  | .openReq bond => Sys2Proof.Machine.execOpenReq bond s
  | .openAck bond => Sys2Proof.Machine.execOpenAck bond s
  | .openRefuse bond => Sys2Proof.Machine.execOpenRefuse bond s
  | .streamOpenTimeout stream => Sys2Proof.Machine.execStreamOpenTimeout stream s
  | .closeStream bond => Sys2Proof.Machine.execCloseStream bond s
  | .phasePrepare bond => Sys2Proof.Machine.execPhasePrepare bond s
  | .phaseReady bond => Sys2Proof.Machine.execPhaseReady bond s
  | .phaseDone bond => Sys2Proof.Machine.execPhaseDone bond s
  | .phaseFlipStart bond => Sys2Proof.Machine.execPhaseFlipStart bond s
  | .reagreementStart bond => Sys2Proof.Machine.execReagreementStart bond s
  | .reagreeOffer bond => Sys2Proof.Machine.execReagreeOffer bond s
  | .reagreeAnswer bond => Sys2Proof.Machine.execReagreeAnswer bond s
  | .bondStaleMsg bond => Sys2Proof.Machine.execBondStaleMsg bond s
  | .bondCloseMsg bond => Sys2Proof.Machine.execBondCloseMsg bond s
  | .rekeyRequest bond => Sys2Proof.Machine.execRekeyRequest bond s
  | .remoteResponse stream => Sys2Proof.Machine.execRemoteResponse stream s
  | .gatewayRequest p => Sys2Proof.Machine.execGatewayRequest p s
  | .gatewayRecordIdleClose p a chip => Sys2Proof.Machine.execGatewayRecordIdleClose p a chip s
  | .gatewayResendTimeout p a chip rseq => Sys2Proof.Machine.execGatewayResendTimeout p a chip rseq s
  | .gatewayFlitReceive p flit rxErr lanes => Sys2Proof.Machine.execGatewayFlitReceive p flit rxErr lanes s
  | .landingWaitTimeout p slot => Sys2Proof.Machine.execLandingWaitTimeout p slot s
  | .domainRequest otu => Sys2Proof.Machine.execDomainRequest otu s
  | .xlateTimeout otu slot => Sys2Proof.Machine.execXlateTimeout otu slot s
  | .map w => Sys2Proof.Machine.execMap w s
  | .unmap w => Sys2Proof.Machine.execUnmap w s
  | .hostPageRequest => Sys2Proof.Machine.execHostPageRequest s
  | .move w value => Sys2Proof.Machine.execMove w value s
  | .vfBind w value => Sys2Proof.Machine.execVfBind w value s
  | .flr fn => Sys2Proof.Machine.execFlr fn s
  | .vfDisable numVfs => Sys2Proof.Machine.execVfDisable numVfs s
  | .recordLaneStall out lane => Sys2Proof.Machine.execRecordLaneStall out lane s
  | .hostDma id => Sys2Proof.Machine.execHostDma id s
  | .cvuInit w n value => Sys2Proof.Machine.execCvuInit w n value s
  | .cvuPolySwitch w n value => Sys2Proof.Machine.execCvuPolySwitch w n value s
  | .cvuFeed8 w n value => Sys2Proof.Machine.execCvuFeed8 w n value s
  | .cvuFeed16 w n value => Sys2Proof.Machine.execCvuFeed16 w n value s
  | .cvuFeed32 w n value => Sys2Proof.Machine.execCvuFeed32 w n value s
  | .registerWrite w offset width value => Sys2Proof.Machine.execRegisterWrite w offset width value s
  | .loCaptureRead w offset width => Sys2Proof.Machine.execLoCaptureRead w offset width s
  | .hotFifoPop w width => Sys2Proof.Machine.execHotFifoPop w width s
  | .becAck w width => Sys2Proof.Machine.execBecAck w width s
  | .becEoi w value => Sys2Proof.Machine.execBecEoi w value s
  | .pop w => Sys2Proof.Machine.execPop w s
  | .unfreeze w => Sys2Proof.Machine.execUnfreeze w s
  | .kick w => Sys2Proof.Machine.execKick w s
  | .watchdogArm w value => Sys2Proof.Machine.execWatchdogArm w value s
  | .watchdog => Sys2Proof.Machine.execWatchdog s
  | .lockstep => Sys2Proof.Machine.execLockstep s
  | .revoke w => Sys2Proof.Machine.execRevoke w s
  | .grantExpiry => Sys2Proof.Machine.execGrantExpiry s
  | .apertureAccess w width write => Sys2Proof.Machine.execApertureAccess w width write s
  | .resume => Sys2Proof.Machine.execResume s
  | .scan => Sys2Proof.Machine.execScan s
  | .stopCtrlReset => Sys2Proof.Machine.execStopCtrlReset s
  | .lccPlainProbeClosed w => Sys2Proof.Machine.execLccPlainProbeClosed w s
  | .lccPlainVoid w => Sys2Proof.Machine.execLccPlainVoid w s
  | .otpWordProgrammed => Sys2Proof.Machine.execOtpWordProgrammed s
  | .testEngineCommand w value => Sys2Proof.Machine.execTestEngineCommand w value s
  | .faultAccept => Sys2Proof.Machine.execFaultAccept s
  | .rung0 => Sys2Proof.Machine.execRung0 s
  | .rung1 => Sys2Proof.Machine.execRung1 s
  | .rung2 => Sys2Proof.Machine.execRung2 s
  | .rung3 => Sys2Proof.Machine.execRung3 s
  | .rung4 => Sys2Proof.Machine.execRung4 s
  | .rung5 => Sys2Proof.Machine.execRung5 s
  | .rungTimeout => Sys2Proof.Machine.execRungTimeout s
  | .mortarCrcError link attempt => Sys2Proof.Machine.execMortarCrcError link attempt s
  | .tamper die => Sys2Proof.Machine.execTamper die s
  | .lcDecode => Sys2Proof.Machine.execLcDecode s
  | .fwSelfcheck digest => Sys2Proof.Machine.execFwSelfcheck digest s
  | .entropyFail bits => Sys2Proof.Machine.execEntropyFail bits s
  | .drbgReseed => Sys2Proof.Machine.execDrbgReseed s
  | .aonStart => Sys2Proof.Machine.execAonStart s
  | .blockStart failures => Sys2Proof.Machine.execBlockStart failures s
  | .aonStatus => Sys2Proof.Machine.execAonStatus s
  | .aonFaultRecord nonce => Sys2Proof.Machine.execAonFaultRecord nonce s
  | .aonZeroize => Sys2Proof.Machine.execAonZeroize s
  | .aonPowerCycle => Sys2Proof.Machine.execAonPowerCycle s
  | .aonWake => Sys2Proof.Machine.execAonWake s
  | .wake source => Sys2Proof.Machine.execWake source s
  | .vidAck => Sys2Proof.Machine.execVidAck s
  | .temperatureThreshold celsius => Sys2Proof.Machine.execTemperatureThreshold celsius s
  | .command words => Sys2Proof.Machine.execCommand words s
  | .cplRead => Sys2Proof.Machine.execCplRead s
  | .stageWrite offset data => Sys2Proof.Machine.execStageWrite offset data s
  | .stageRead offset length => Sys2Proof.Machine.execStageRead offset length s
  | .regRead selOffset selValue first count => Sys2Proof.Machine.execRegRead selOffset selValue first count s
  | .moduleReport port cmis => Sys2Proof.Machine.execModuleReport port cmis s
  | .dbgAccess offset write data => Sys2Proof.Machine.execDbgAccess offset write data s
  | .mgmtSessionEnd => Sys2Proof.Machine.execMgmtSessionEnd s
  | .getVersion t => Sys2Proof.Machine.execGetVersion t s
  | .getCapabilities t => Sys2Proof.Machine.execGetCapabilities t s
  | .negotiateAlgorithms t => Sys2Proof.Machine.execNegotiateAlgorithms t s
  | .getDigests t => Sys2Proof.Machine.execGetDigests t s
  | .getCertificate t slot offset length => Sys2Proof.Machine.execGetCertificate t slot offset length s
  | .challenge t nonce => Sys2Proof.Machine.execChallenge t nonce s
  | .getMeasurements t index signed nonce => Sys2Proof.Machine.execGetMeasurements t index signed nonce s
  | .keyExchange t request => Sys2Proof.Machine.execKeyExchange t request s
  | .finish t request chain => Sys2Proof.Machine.execFinish t request chain s
  | .endSession t => Sys2Proof.Machine.execEndSession t s
  | .heartbeat t => Sys2Proof.Machine.execHeartbeat t s
  | .keyUpdate t request => Sys2Proof.Machine.execKeyUpdate t request s
  | .getPqChain t response => Sys2Proof.Machine.execGetPqChain t response s
  | .getPqSignature t => Sys2Proof.Machine.execGetPqSignature t s
  | .getAccordCert t gid => Sys2Proof.Machine.execGetAccordCert t gid s
  | .accordQuote t gid nonce => Sys2Proof.Machine.execAccordQuote t gid nonce s
  | .pqBind t signature => Sys2Proof.Machine.execPqBind t signature s
  | .powerLoss => Sys2Proof.Machine.execPowerLoss s
  | .pcieCompletion fn addr data => Sys2Proof.Machine.execPcieCompletion fn addr data s
  | .entropySourceRestart bits => Sys2Proof.Machine.execEntropySourceRestart bits s
  | .portUpHour p => Sys2Proof.Machine.execPortUpHour p s

end Sys2Proof.Machine
end

