-- ==== Sys2Proof/Safety.lean ====
section
/-! DEFINITION. The terms in which claims about the block are stated: a hub command that begins, how it ends or waits, and the
invariants of the block. -/

namespace Sys2Proof.Machine

/-- Command `id` of queue `q` completed over a state that holds its effect (R101, R104); `after` is what the row does last. -/
def ended (after : State → State) (q id : Nat) (st : Status) (detail result : Word) (v : State) : State :=
  after (drainFailed (finish v id st detail result) q)

/-- Command `id` of queue `q` left waiting for `w`, over a state that holds its effect so far. -/
def pends (after : State → State) (q id : Nat) (w : Wait) (v : State) : State :=
  after (drainFailed (setWait v id w) q)

/-- A step's answer is the next state `t`. -/
def Answers (o : Host.Outcome State Fault Refusal) (t : State) : Prop := o = .next t

/-- The event controller is up to date with the block (R436, R439): no pulse is left over, the input of every configured source
is held as it stands, and a level source counts as told only while its input is true. -/
def EventsCurrent (s : State) : Prop :=
  s.bec.pulses = [] ∧
  ∀ e ∈ s.bec.cfg, s.bec.inputs.contains e.1 = level s e.1 ∧ (s.bec.told.contains e.1 = true → level s e.1 = true)

/-- What a request that a stamp unit refuses leaves (R23, R29): ERROR under its tag, with zeros for a read, and one fault of code `code`
that names the core group; it reaches no memory. -/
def StampRefused (s : State) (cg : Nat) (r : ComputeReq) (code : BitVec 8) (v : State) : Prop :=
  (∃ d, v.responses = s.responses ++ [(cg, r.tag, 1, d)] ∧ (memOpOf r.op = .readLine → d = zeros 64) ∧
    (memOpOf r.op = .readStretcher → d = zeros 256)) ∧
  (∃ f, v.frs.raised = s.frs.raised ++ [f] ∧ f.code = code ∧ f.cg = some cg) ∧
  { v with responses := s.responses, frs := s.frs, cores := s.cores, draws := s.draws } = s

/-- `t` is `s` but for the event controller. -/
def OnlyEvents (s t : State) : Prop := { t with bec := s.bec } = s

/-- Nothing outside the island has to be told of a block reset (R414): no fence is mirrored, no fence update waits and no bind does. -/
def ResetsPlainly (s : State) : Prop :=
  (∀ e ∈ s.fences, e.2.mirror = none) ∧ s.fenceReady = [] ∧ ∀ k i, (getRes s k i).pending = none

end Sys2Proof.Machine
end

