-- ==== Sys2Proof/Certificates/Slice0/Obligations.lean ====
section
/-! DEFINITION. The statements about the block, for the provers. In every clause about a hub command, `beginOf` says that the
command starts (R100): the oldest fetched command of queue `q` is this one, nothing holds it, its WAIT has not failed; `c` is the
started command and `u` the block with it started. `ended` and `pends` are what is left once the command has ended or waits. -/

open Sys2Proof Sys2Proof.Machine

/-- One step takes the oldest waiting command, runs it with the queue's rest, and answers its outcome. -/
def Obligations.StepRunsFrontCommand : Prop :=
  ∀ (s : State) (c : Instr) (rest : List Instr),
    s.pending = c :: rest → step s = exec c { s with pending := rest }

/-- Every command of the table has a meaning that answers a next state, in every state and for every operand: no command
faults and none is refused. What it answers is either the state as it was (a command that cannot occur or is ignored there) or a
state whose event controller has been brought up to date (R434 to R439). -/
def Obligations.EveryCommandAnswersSettled : Prop :=
  ∀ (i : Instr) (s : State), ∃ t, exec i s = .next t ∧ (t = s ∨ ∃ u, t = settle u)

/-- Every step keeps the event controller up to date: no pulse is left over, each configured source's input is held as it
stands, and a level source counts as told only while its input is true (R436, R439). -/
def Obligations.StepKeepsEventsCurrent : Prop :=
  ∀ s t : State, EventsCurrent s → step s = .next t → EventsCurrent t

/-- The event controller is up to date at reset. -/
def Obligations.ResetEventsCurrent : Prop := EventsCurrent State.reset

/-! ## Sessions and queues (chapter 4) -/

/-- SESSION_OPEN without a fault fence by a session of a world other than ROOT (R97): the lowest free index gets a session of
the issuer's world, accord and function with the SIDE asked for; the issuer holds one reference to it; RESULT is its handle. -/
def Obligations.SessionOpenMakesSession : Prop :=
  ∀ (s u : State) (q i : Nat) (c : Started) (x : Session),
    beginOf s q 0x01 = some (c, u) → tget u.sessions c.session = some x → x.world ≠ .root →
    (if x.world = .tenant then x.accord ≠ 0 ∧ (getAccord u x.accord).state = .live else x.accord = 0) →
    wd c.words 10 = 0 → freeIndex u .session = some i → refRoom u c.session = true →
    ∃ v n, exec (.sessionOpen q) s = .next (ended settleAll q s.nextId .ok 0 (handle v ⟨.session, i⟩) v) ∧
      tget v.sessions i = some n ∧ n.world = x.world ∧ n.accord = x.accord ∧ n.fn = x.fn ∧
      n.side = (if bit (wd c.words 8) 8 then .device else .host) ∧ n.faultFence = none ∧ n.creator = c.session ∧
      n.href + n.dref = 1 ∧
      { v with sessions := u.sessions } = u

/-- QUEUE_CREATE with operands that R98 and Table 4.6 allow: the lowest free queue index gets an empty, running queue with the
rings, size, timeout (10,000 us for 0) and event source asked for, and RESULT is its handle. -/
def Obligations.QueueCreateMakesQueue : Prop :=
  ∀ (s u u' : State) (q i : Nat) (c : Started) (t : ObjRef) (x : Session),
    beginOf s q 0x04 = some (c, u) → targetOf u c = some t → tget u.sessions t.index = some x →
    ringSpaceOk x (fld (wd c.words 10) 1 0) = true → 4 ≤ fld (wd c.words 10) 12 8 → fld (wd c.words 10) 12 8 ≤ 16 →
    (wd c.words 13).toNat ≤ 60000000 → 256 ≤ (wd c.words 14).toNat → (wd c.words 14).toNat ≤ 511 →
    freeIndex u .queue = some i → refRoom u c.session = true → addRef u t .device 1 = some u' →
    ∃ v n, exec (.queueCreate q) s = .next (ended settleAll q s.nextId .ok 0 (handle v ⟨.queue, i⟩) v) ∧
      tget v.queues i = some n ∧ n.session = t.index ∧ n.ring = wd2 c.words 8 ∧ n.cpl = wd2 c.words 11 ∧
      n.log2 = fld (wd c.words 10) 12 8 ∧
      n.timeoutUs = (if wd c.words 13 = 0 then 10000 else (wd c.words 13).toNat) ∧ n.src = (wd c.words 14).toNat ∧
      n.head = 0 ∧ n.tail = 0 ∧ n.stopped = false ∧ n.noFetch = false ∧ n.fetched = [] ∧ n.cplPhase = true ∧
      { v with queues := u'.queues, sessions := u'.sessions } = u'

/-- SESSION_CLOSE, SESSION_ABORT and QUEUE_DESTROY begin: the close waits with nothing else changed; the abort stops all
fetching of the session's queues at once (R116 step 1); the destroy stops the queue's fetching and discards what it fetched.
QUEUE_SET_TIMEOUT with 1 to 60,000,000 us and QUEUE_RESTART of a queue of the session itself, or by the PF, with a head
below the ring size: only that queue changes, in its timeout, or in its head and STOPPED. -/
def Obligations.QueueCommands : Prop :=
  (∀ (s u : State) (q : Nat) (c : Started) (r : ObjRef), targetOf u c = some r →
     (beginOf s q 0x02 = some (c, u) →
       exec (.sessionClose q) s = .next (pends settleAll q s.nextId (.sessionClose r.index) u)) ∧
     (beginOf s q 0x03 = some (c, u) →
       exec (.sessionAbort q) s = .next (pends settleAll q s.nextId (.sessionAbort r.index)
         { u with sessions := tupd u.sessions r.index fun x => { x with dying := true }
                  queues := tmap u.queues fun _ y => if y.session = r.index then { y with noFetch := true } else y })) ∧
     (beginOf s q 0x05 = some (c, u) →
       exec (.queueDestroy q) s = .next (pends settleAll q s.nextId (.queueDestroy r.index)
         (discardFetched { u with queues := tupd u.queues r.index fun y => { y with noFetch := true } } r.index)))) ∧
  (∀ (s u : State) (q : Nat) (c : Started) (r : ObjRef) (t : Queue),
     targetOf u c = some r → tget u.queues r.index = some t →
     (beginOf s q 0x06 = some (c, u) → wd c.words 8 ≠ 0 → (wd c.words 8).toNat ≤ 60000000 →
       exec (.queueSetTimeout q) s = .next (ended settleAll q s.nextId .ok 0 0
         { u with queues := tset u.queues r.index { t with timeoutUs := (wd c.words 8).toNat } })) ∧
     (beginOf s q 0x07 = some (c, u) →
       (t.session = c.session ∨ ((sessionOf u c).world = .host ∧ (sessionOf u c).fn = some 0)) →
       fld (wd c.words 8) 15 0 < 2 ^ t.log2 →
       exec (.queueRestart q) s = .next (ended settleAll q s.nextId .ok 0 0
         { u with queues := tset u.queues r.index { t with stopped := false, head := fld (wd c.words 8) 15 0 } })))

/-! ## Fences, references and rights (chapter 4) -/

/-- Fences only move forward (R106, R107): a signal never lowers VALUE, and changes nothing of an ERROR fence but its
LATE_SIGNAL and UPDATES; the code of the first error stays whatever comes after, and attaching an error leaves VALUE. -/
def Obligations.FencesMoveForward : Prop :=
  ∀ (f : Fence) (v : BitVec 64) (add : Bool) (k : BitVec 8),
    f.value.toNat ≤ (signalFence f v add).value.toNat ∧ (signalFence f v add).code = f.code ∧
    (f.code.isSome = true → (signalFence f v add) = { f with lateSignal := true, updates := f.updates + 1 }) ∧
    (f.code = none → (if add then f.value.toNat + v.toNat else v.toNat) < 2 ^ 64 →
      f.value.toNat < (if add then f.value.toNat + v.toNat else v.toNat) →
      (signalFence f v add).value.toNat = (if add then f.value.toNat + v.toNat else v.toNat) ∧
      (signalFence f v add).backward = f.backward) ∧
    (f.code = none → ¬ (f.value.toNat < (if add then f.value.toNat + v.toNat else v.toNat)
        ∧ (if add then f.value.toNat + v.toNat else v.toNat) < 2 ^ 64) →
      (signalFence f v add).value = f.value ∧ (signalFence f v add).backward = true) ∧
    (errorFence f k).value = f.value ∧ (errorFence f k).code = some (f.code.getD k) ∧
    (f.code.isSome = true → (errorFence f k).errorCount = Nat.min (f.errorCount + 1) 255)

/-- FENCE_CREATE without a mirror makes an ACTIVE fence with the initial VALUE and MULTI asked for at the lowest free index, the creator
its signaler; RESULT is its handle. FENCE_SIGNAL, and FENCE_ERROR with a code of 0x80 to 0xFF, by a session that may signal hand the
fence unit one update of that fence. The fence unit applies an error only while no signal is ready; an update applied to a fence without
a mirror changes that fence alone, by a signal or by an error attached. FENCE_QUERY to a good address of HUB writes the fence's record
there and nothing else. -/
def Obligations.FenceCommands : Prop :=
  (∀ (s u : State) (q : Nat) (c : Started),
    (∀ i x, beginOf s q 0x08 = some (c, u) → bit (wd c.words 10) 1 = false → freeIndex u .fence = some i →
      tget u.sessions c.session = some x → refRoom u c.session = true →
      ∃ v f, exec (.fenceCreate q) s = .next (ended settleAll q s.nextId .ok 0 (handle v ⟨.fence, i⟩) v) ∧
        tget v.fences i = some f ∧ f.value = wd2 c.words 8 ∧ f.code = none ∧ f.multi = bit (wd c.words 10) 0 ∧
        f.creator = c.session ∧ f.signalers = [c.session] ∧ f.mirror = none ∧
        { v with fences := u.fences, sessions := u.sessions } = u) ∧
    (∀ r f, beginOf s q 0x09 = some (c, u) → targetOf u c = some r → tget u.fences r.index = some f →
      maySignal c.session f = true →
      exec (.fenceSignal q) s = .next (ended settleAll q s.nextId .ok 0 0
        { u with fenceReady := u.fenceReady ++
            [{ fence := r.index, source := 0, code := none, value := wd2 c.words 8, add := bit (wd c.words 10) 0 }] })) ∧
    (∀ r f, beginOf s q 0x0A = some (c, u) → targetOf u c = some r → tget u.fences r.index = some f →
      maySignal c.session f = true → 0x80 ≤ (wd c.words 8).toNat → (wd c.words 8).toNat ≤ 0xFF →
      exec (.fenceError q) s = .next (ended settleAll q s.nextId .ok 0 0
        { u with fenceReady := u.fenceReady ++
            [{ fence := r.index, source := 0, code := some (BitVec.ofNat 8 (wd c.words 8).toNat), value := 0, add := false }] })) ∧
    (∀ r f, beginOf s q 0x0B = some (c, u) → targetOf u c = some r → tget u.fences r.index = some f →
      spaceOf (fld (wd c.words 10) 1 0) = some .hub →
      spaceCheck (sessionOf u c) (some .hub) (wd2 c.words 8).toNat 16 = none →
      exec (.fenceQuery q) s = .next (ended settleAll q s.nextId .ok 0 0
        { u with hubMem := memWriteBytes u.hubMem 0 (wd2 c.words 8).toNat (fenceRecord f) }))) ∧
  (∀ (s : State) (x : FenceUpdate), nextUpdate s = some x →
    x ∈ s.fenceReady ∧ (x.code.isSome = true → ∀ y ∈ s.fenceReady, y.code.isSome = true)) ∧
  (∀ (s : State) (x : FenceUpdate) (f : Fence), tget s.fences x.fence = some f → f.mirror = none →
    ∃ g, (g = match x.code with
        | none => signalFence f x.value x.add
        | some k => errorFence f k) ∧
      tget (applyUpdate s x).fences x.fence = some g ∧ g.mirror = none ∧
      (∀ j, j ≠ x.fence → tget (applyUpdate s x).fences j = tget s.fences j) ∧
      { applyUpdate s x with fences := s.fences } = s)

/-- NOP changes nothing; OBJECT_REF adds one reference of the session to the object, up to the limits of R112; OBJECT_UNREF
takes one away; OBJECT_SHARE gives a session a reference and the right; CORE_ATTACH ties a core group bound to the session's
accord to it and clears its marks (R97, R111, R112).
A reference taken is one more in the session's list and in HREF or DREF, by the session's side (R112). -/
def Obligations.ReferenceCommands : Prop :=
  (∀ (s u v : State) (q : Nat) (c : Started) (r : ObjRef),
     (beginOf s q 0x00 = some (c, u) → exec (.nop q) s = .next (ended settleAll q s.nextId .ok 0 0 u)) ∧
     (beginOf s q 0x0C = some (c, u) → targetOf u c = some r → holdRef u c.session r = .ok v →
       exec (.objectRef q) s = .next (ended settleAll q s.nextId .ok 0 0 v)) ∧
     (beginOf s q 0x0D = some (c, u) → targetOf u c = some r → dropRef u c.session r = .ok v →
       exec (.objectUnref q) s = .next (ended settleAll q s.nextId .ok 0 0 v)) ∧
     (∀ g x, beginOf s q 0x0E = some (c, u) → targetOf u c = some r → parseHandle u (wd c.words 8) [.session] = .ok g →
       tget u.sessions g.index = some x → shareCheck u c.session r x (fld (wd c.words 9) 1 0) = none →
       holdRef u g.index r = .ok v →
       exec (.objectShare q) s = .next (ended settleAll q s.nextId .ok 0 0 (grantRight v r g.index (fld (wd c.words 9) 1 0)))) ∧
     (beginOf s q 0x0F = some (c, u) → targetOf u c = some r →
       coreBoundTo u (fld (wd c.words 8) 7 0) (objAccord u r) = true →
       exec (.coreAttach q) s = .next (ended settleAll q s.nextId .ok 0 0
         (updCore u (fld (wd c.words 8) 7 0) fun k => { k with session := some r.index, lostChips := [], localMark := false })))) ∧
  (∀ (s v : State) (i : Nat) (x : Session) (r : ObjRef),
     tget s.sessions i = some x → objExists s r = true → holdRef s i r = .ok v →
     ∃ y, tget v.sessions i = some y ∧ refsOf y r = refsOf x r + 1 ∧
       objCounts v r = (match x.side with
         | .host => ((objCounts s r).1 + 1, (objCounts s r).2)
         | .device => ((objCounts s r).1, (objCounts s r).2 + 1)))

/-! ## Accord images and resources (chapters 2 and 3) -/

/-- IMAGE_LOAD in PILOT or FIELD reads the image once from HUB or HOST space; one that passes phase 1 waits for its commit
with its measurements, and one that does not is REJECTED with the failing record's detail; nothing else changes (R80, R81).
IMAGE_COMMIT of an image that waits: one that fails phase 2 is REJECTED and changes nothing; one that passes is applied, the
accord composing until its resources are bound (R82, R83). -/
def Obligations.ImageCommands : Prop :=
  (∀ (s u : State) (q total : Nat) (c : Started) (sp : Space) (head rest : Bytes),
     beginOf s q 0x10 = some (c, u) → imageState u = true → spaceOf (fld (wd c.words 10) 1 0) = some sp → sp ≠ .accord →
     spaceCheck (sessionOf u c) (some sp) (wd2 c.words 8).toNat 24 = none →
     (readSpace u (sessionOf u c) sp (wd2 c.words 8) 24).2 = some head → total = (wd (wordsOf head) 5).toNat →
     6 ≤ total → total ≤ 262144 → spaceCheck (sessionOf u c) (some sp) (wd2 c.words 8).toNat (4 * total) = none →
     (readSpace u (sessionOf u c) sp (wd2 c.words 8 + 24) (4 * total - 24)).2 = some rest →
     exec (.imageLoad q) s = .next (match phase1 u (wordsOf head ++ wordsOf rest) with
       | .ok k => pends settleAll q s.nextId
           (.imageChecked (wordsOf head ++ wordsOf rest) k.m k.d k.hearts.1 k.hearts.2) u
       | .error e => ended settleAll q s.nextId .rejected (imgDetail e.2 e.1) 0 u)) ∧
  (∀ (s : State) (id : Nat) (c : Started) (image : List Word) (m d : BitVec 384) (hc hs : Bytes),
     live s = true → tget s.started id = some c → c.wait = .imageChecked image m d hc hs →
     (∀ e, phase2 s image = .error e →
       exec (.imageCommit id) s = .next (settleAll (finish s id .rejected (imgDetail e.2 e.1) 0))) ∧
     (∀ p, phase2 s image = .ok p → (freeIndex s .session).isSome = true → (freeIndex s .queue).isSome = true →
       exec (.imageCommit id) s = .next (settleAll (advanceAccords (setWait
         (if p.delta then applyDelta s p (recordsOf image) d else applyFull s p m d (hc, hs)) id (.imageApply p.accord))))))

/-- ACCORD_BIND of a FREE resource in service to a LIVE accord binds it at once; of one that is leaving, it is queued; of one
that is BOUND, it ends RESOURCE_BUSY (R58, Table 2.7). -/
def Obligations.AccordBind : Prop :=
  ∀ (s u : State) (q i : Nat) (c : Started) (k : ResKind),
    beginOf s q 0x11 = some (c, u) → resSel (wd c.words 8) = some (k, i) → fld (wd c.words 9) 9 0 ≠ 0 →
    (getAccord u (fld (wd c.words 9) 9 0)).state = .live → unitInService u k i = true →
    ((getRes u k i).state = .free →
      ∃ v, exec (.accordBind q) s = .next (ended settleAll q s.nextId .ok 0 0 v) ∧
        (getRes v k i).state = .bound ∧ (getRes v k i).owners = [fld (wd c.words 9) 9 0] ∧ (getRes v k i).exclusive = true ∧
        { v with channels := u.channels, portRes := u.portRes, groups := u.groups, cores := u.cores } = u) ∧
    ((getRes u k i).state = .bound →
      exec (.accordBind q) s = .next (ended settleAll q s.nextId .resourceBusy 0 0 u)) ∧
    ((getRes u k i).state = .drain ∨ (getRes u k i).state = .erase → (getRes u k i).pending = none →
      ∃ v, exec (.accordBind q) s = .next (pends settleAll q s.nextId (.bind k i) v) ∧
        (getRes v k i).pending.map (·.accord) = some (fld (wd c.words 9) 9 0) ∧
        (getRes v k i).state = (getRes u k i).state ∧ (getRes v k i).owners = (getRes u k i).owners)

/-- ACCORD_UNBIND of a BOUND resource puts it into DRAIN and waits; a channel under a region is REJECTED with 0x14; of a resource that
is leaving and has a bind queued, it is queued behind the bind and changes nothing else. DRAIN leaves the owners and every other
resource of the kind alone: a channel's owners keep no pin that touches it, a core group's entry turns not VALID and halting and its
session goes. HANDOVER_DRAIN_COMPLETE of a drained resource begins its ERASE with its owners kept: no store entry of a channel's bricks
is left, and a core group's clear request is raised. ST_CG_CLEAR_ACK takes a core group's clear request away and changes nothing else.
ERASE_COMPLETE ends the ERASE: a core group that no unbind waits for and no bind is queued for is FREE with its entry, pool and session
gone, and one with the bind of an image queued is BOUND to that accord with the entry of Table 2.4. -/
def Obligations.HandoverSteps : Prop :=
  (∀ (s u : State) (q i : Nat) (c : Started) (k : ResKind),
     beginOf s q 0x12 = some (c, u) → resSel (wd c.words 8) = some (k, i) →
     ((getRes u k i).state = .bound → (k = .channel → channelInUse u i = false) →
       exec (.accordUnbind q) s = .next (pends settleAll q s.nextId (.unbind k i) (startDrain u k i))) ∧
     (k = .channel → (getRes u k i).state = .bound → channelInUse u i = true →
       exec (.accordUnbind q) s = .next (ended settleAll q s.nextId .rejected 0x14 0 u)) ∧
     ((getRes u k i).state = .drain ∨ (getRes u k i).state = .erase → (getRes u k i).pending.isSome = true →
       (getRes u k i).unbindNext = none → (k = .channel → channelInUse u i = false) →
       ∃ v, exec (.accordUnbind q) s = .next (pends settleAll q s.nextId (.unbind k i) v) ∧
         getRes v k i = { getRes u k i with unbindNext := some (some s.nextId) } ∧
         (∀ j, j ≠ i → getRes v k j = getRes u k j) ∧
         { v with channels := u.channels, portRes := u.portRes, groups := u.groups } = u)) ∧
  (∀ (s : State) (k : ResKind) (i : Nat), k ≠ .port →
     getRes (startDrain s k i) k i = { getRes s k i with state := .drain, scrub := none } ∧
     (∀ j, j ≠ i → getRes (startDrain s k i) k j = getRes s k j)) ∧
  (∀ (s : State) (i a : Nat) (p : Pin), a ∈ (getRes s .channel i).owners → p ∈ (getAccord (startDrain s .channel i) a).pins →
     p.stack = i / 32 →
     256 * (p.base + p.len) ≤ i % 32 * channelBricks ∨ (i % 32 + 1) * channelBricks ≤ 256 * p.base) ∧
  (∀ (s : State) (i : Nat),
     (getCore (startDrain s .coreGroup i) i).session = none ∧
     bit (getCore (startDrain s .coreGroup i) i).entry 31 = false ∧ bit (getCore (startDrain s .coreGroup i) i).entry 15 = true ∧
     (∀ j, j ≠ i → getCore (startDrain s .coreGroup i) j = getCore s j)) ∧
  (∀ (s : State) (k : ResKind) (i : Nat),
     (running s = true → (getRes s k i).state = .drain → drainOver s k i = true →
       exec (.handoverDrainComplete k i) s = .next (settleAll (startErase s k i))) ∧
     (k ≠ .coreGroup ∨ (getCore s i).pool = none →
       getRes (startErase s k i) k i = { getRes s k i with state := .erase } ∧
       (∀ j, j ≠ i → getRes (startErase s k i) k j = getRes s k j)) ∧
     (∀ x, k = .channel → chanOf (x / 16) = i % 32 → tget (getMpe (startErase s k i) (i / 32)).store x = none) ∧
     (k = .coreGroup → (getCore (startErase s k i) i).clearReq = true) ∧
     (running s = true → (getRes s k i).state = .erase → (k = .coreGroup → (getCore s i).clearReq = false) →
       exec (.eraseComplete k i) s = .next (settleAll (advanceAccords (endErase s k i)))) ∧
     (running s = true → (getCore s i).clearReq = true →
       ∃ v, exec (.stCgClearAck i) s = .next (settle v) ∧ v = { s with cores := v.cores } ∧
         getCore v i = { getCore s i with clearReq := false } ∧ ∀ j, j ≠ i → getCore v j = getCore s j)) ∧
  (∀ (s : State) (i : Nat), unbindWaiters s .coreGroup i = [] →
     ((getRes s .coreGroup i).pending = none →
       (getRes (endErase s .coreGroup i) .coreGroup i).state = .free ∧ (getRes (endErase s .coreGroup i) .coreGroup i).owners = [] ∧
       (getCore (endErase s .coreGroup i) i).entry = 0 ∧ (getCore (endErase s .coreGroup i) i).pool = none ∧
       (getCore (endErase s .coreGroup i) i).session = none) ∧
     (∀ p, (getRes s .coreGroup i).pending = some p → p.cmd = none → (getRes s .coreGroup i).unbindNext = none →
       (getRes (endErase s .coreGroup i) .coreGroup i).state = .bound ∧
       (getRes (endErase s .coreGroup i) .coreGroup i).owners = [p.accord] ∧
       (getRes (endErase s .coreGroup i) .coreGroup i).pending = none ∧
       (getCore (endErase s .coreGroup i) i).entry = pack [(1, 31), (fld p.info 30 29, 29), (p.accord, 19), (fld p.info 18 16, 16),
         (fld p.info 14 14, 14)]) ∧
     (∀ j, j ≠ i → (getRes s .coreGroup i).unbindNext = none → (∀ p ∈ (getRes s .coreGroup i).pending, p.cmd = none) →
       getRes (endErase s .coreGroup i) .coreGroup j = getRes s .coreGroup j ∧
       getCore (endErase s .coreGroup i) j = getCore s j))

/-- ACCORD_RETIRE and PARTITION_RESET of a tenant accord, a tenant naming its own: the command waits for the accord to be FREE, and an
accord that was COMPOSING or LIVE is RETIRING, its owner event bits and its accord key gone; its cipher jobs are cut short before, and
after it, in this order, its fences fail, its queues halt, commands that wait for it end, its keys retire, the engines drop what is its,
and its resources drain. PARTITION_RESET is also entered as a rung 2 in progress. A RETIRING accord with nothing left to leave is made
FREE, with no region table entry on any stack; one with something left stays; and a command that waits for an accord that is FREE ends OK. -/
def Obligations.AccordLeaving : Prop :=
  (∀ (s u : State) (q a : Nat) (c : Started),
    a = fld (wd c.words 8) 9 0 → 2 ≤ a → (getAccord u a).state ≠ .free →
    ((sessionOf u c).world = .tenant → a = (sessionOf u c).accord) →
    (beginOf s q 0x13 = some (c, u) →
      exec (.accordRetire q) s = .next (pends settleAll q s.nextId (.retire a)
        (retireAccord (setWait u s.nextId (.retire a)) a (some s.nextId)))) ∧
    (beginOf s q 0x14 = some (c, u) → (getAccord u a).state ≠ .retiring →
      exec (.partitionReset q) s = .next (pends settleAll q s.nextId (.rung2 a)
        (retireAccord { setWait u s.nextId (.rung2 a) with
          frs := { u.frs with active := u.frs.active ++ [.rung2 a], lastRung2 := a } } a none)))) ∧
  (∀ (s : State) (a : Nat) (own : Option Nat), 2 ≤ a →
    ((getAccord s a).state = .composing ∨ (getAccord s a).state = .live →
      ∃ v, (getAccord v a).state = .retiring ∧ (getAccord v a).ownerEvents = 0 ∧ (getAccord v a).accordKey = none ∧
        { v with accords := (cutJobs s a).accords } = cutJobs s a ∧
        retireAccord s a own =
          advanceAccords (drainAccord (dropEngines (retireKeys (abortWaiters (haltQueues (failFences v a) a own) a) a) a) a)) ∧
    ((getAccord s a).state = .retiring → retireAccord s a own = s ∧
      (leaving s a false = true → advanceAccord s a = s) ∧
      (leaving s a false = false → (getAccord (advanceAccord s a) a).state = .free ∧
        ∀ n e, n < 8 → e ∈ (getMpe (advanceAccord s a) n).rt → e.2.owner ≠ a)) ∧
    (∀ id c, c.wait = .retire a ∨ c.wait = .rung2 a →
      resolve s id c = if (getAccord s a).state = .free then some (finish s id .ok 0 0) else none))

/-! ## Regions, seals, epochs, FOLD (chapters 4, 6, 7, 8) -/

/-- A region made (R114, R179): the lowest free entry of the stack's region table and the lowest free region index are taken; the
entry holds the owner, REGION_ID, F and bricks asked for, a class C region starts open, and nothing else of the block changes.
ALLOCATE of a number of bricks of a class the accord may use: the lowest free run of bound bricks, from HINT if it names one,
becomes a region of the accord, and the issuer holds a reference; class S is filled with zeros at once, class R waits for its
rewrite, and RESULT is the handle (R114, R157, R198). -/
def Obligations.AllocateRegion : Prop :=
  (∀ (s : State) (a i rt : Nat) (p : RegionPlan) (o : Option Nat),
     clsOf p.cls = some .c → tfree (getMpe s p.stack).rt 0 256 = some rt → freeIndex s .region = some i →
     ∃ v e, addRegion s a p o = (v, some ⟨.region, i⟩) ∧ tget (getMpe v p.stack).rt rt = some e ∧
       e.cls = .c ∧ e.owner = a ∧ e.id = p.id ∧ e.f = p.f ∧ e.base = p.base ∧ e.limit = p.limit ∧ e.busy = false ∧
       (∃ g, tget v.regions i = some g ∧ g.accord = a ∧ g.stack = p.stack ∧ g.rt = rt) ∧
       (∀ j, j ≠ rt → tget (getMpe v p.stack).rt j = tget (getMpe s p.stack).rt j) ∧
       { v with mpes := s.mpes, regions := s.regions } = s) ∧
  (∀ (s u v w : State) (q a k n b rid : Nat) (c : Started) (cls : Cls) (r : ObjRef),
     beginOf s q 0x18 = some (c, u) → a = (sessionOf u c).accord → k = fld (wd c.words 8) 2 0 → n = (wd c.words 9).toNat →
     n ≠ 0 → clsOf (fld (wd c.words 8) 5 4) = some cls → (getAccord u a).classes.getLsbD (clsNum cls) = true →
     (bit (wd c.words 8) 6 = true → (getAccord u a).scheduled = true) → (tfree (getMpe u k).rt 0 256).isSome = true →
     ((if fld (wd c.words 10) 23 0 = 0xFFFFFF then none else lowestRun u a k n (fld (wd c.words 10) 23 0)).or
       (lowestRun u a k n 0)) = some b →
     freeRegionId u a = some rid → refRoom u c.session = true →
     addRegion u a { off := none, id := rid, stack := k, cls := clsNum cls, sched := bit (wd c.words 8) 6
                     f := BitVec.ofNat 8 (fld (wd c.words 8) 15 8), base := b, limit := b + n - 1, grants := [] }
       (some c.session) = (v, some r) →
     holdRef v c.session r = .ok w →
     exec (.allocate q) s = .next (match cls with
       | .c => ended settleAll q s.nextId .ok 0 (handle w r) w
       | .s => ended settleAll q s.nextId .ok 0 (handle w r) (fillRegionS w k (((tget w.regions r.index).map (·.rt)).getD 0))
       | .r => pends settleAll q s.nextId (.sealRewrite k (((tget w.regions r.index).map (·.rt)).getD 0)) w))

/-- CARVE_POOL_SET for a core group bound to the region's accord: with bricks named that lie in the region, the core group's pool is those
bricks, from the first on, and the pool it had is cleared; with none named the pool it had is cleared and it has none. A new pool adds
one to the region's DREF and clearing one takes one off, of a region that other references keep; nothing else changes. Bricks beyond the
region are BAD_OPERAND, and a core group not bound to the region's accord is NO_ACCESS. -/
def Obligations.CarvePoolSet : Prop :=
  (∀ (s u : State) (q i cg : Nat) (c : Started) (g : Region) (e : RtEntry),
    beginOf s q 0x19 = some (c, u) → targetRegion u c = some (i, g, e) → cg = fld (wd c.words 8) 7 0 →
    (coreBoundTo u cg g.accord = false →
      exec (.carvePoolSet q) s = .next (ended settleAll q s.nextId .noAccess 0 0 u)) ∧
    (coreBoundTo u cg g.accord = true → wd c.words 10 ≠ 0 → e.limit + 1 - e.base < (wd c.words 9).toNat + (wd c.words 10).toNat →
      exec (.carvePoolSet q) s = .next (ended settleAll q s.nextId .badOperand 0 0 u)) ∧
    (coreBoundTo u cg g.accord = true → wd c.words 10 = 0 →
      exec (.carvePoolSet q) s = .next (ended settleAll q s.nextId .ok 0 0 (clearPool u cg))) ∧
    (∀ v, coreBoundTo u cg g.accord = true → wd c.words 10 ≠ 0 →
      (wd c.words 9).toNat + (wd c.words 10).toNat ≤ e.limit + 1 - e.base → addRef u ⟨.region, i⟩ .device 1 = some v →
      ∃ x, exec (.carvePoolSet q) s = .next (ended settleAll q s.nextId .ok 0 0 x) ∧
        getCore x cg = { getCore (clearPool v cg) cg with pool := some {
          region := i, stack := g.stack, first := e.base + (wd c.words 9).toNat
          limit := e.base + (wd c.words 9).toNat + (wd c.words 10).toNat - 1, next := e.base + (wd c.words 9).toNat } } ∧
        (∀ k, k ≠ cg → getCore x k = getCore (clearPool v cg) k) ∧ { x with cores := (clearPool v cg).cores } = clearPool v cg)) ∧
  (∀ (s v : State) (i : Nat) (g : Region), tget s.regions i = some g → addRef s ⟨.region, i⟩ .device 1 = some v →
    tget v.regions i = some { g with dref := g.dref + 1 } ∧ (∀ j, j ≠ i → tget v.regions j = tget s.regions j) ∧
    { v with regions := s.regions } = s) ∧
  (∀ (s : State) (cg : Nat), ((getCore s cg).pool = none → clearPool s cg = s) ∧
    (∀ p g, (getCore s cg).pool = some p → tget s.regions p.region = some g → 1 ≤ g.dref → 2 ≤ g.href + g.dref →
      getCore (clearPool s cg) cg = { getCore s cg with pool := none } ∧
      (∀ k, k ≠ cg → getCore (clearPool s cg) k = getCore s k) ∧
      tget (clearPool s cg).regions p.region = some { g with dref := g.dref - 1 } ∧
      (∀ j, j ≠ p.region → tget (clearPool s cg).regions j = tget s.regions j) ∧
      { clearPool s cg with cores := s.cores, regions := s.regions } = s))

/-- A region enters SEALING with the owner's next seal value, which is used up with it, so that no two sealings of an accord
share one; the region's records are still to be rewritten (R159, R198).
REGION_SEAL_BEGIN of a class R region clears the LOST marks of its bricks and takes it into SEALING (R198, R208);
REGION_SEAL of a complete one, with its owner's keys at hand, seals every brick and then the region (R200); on a region that is not
class R, or not in SEALING, they are REJECTED. -/
def Obligations.SealCommands : Prop :=
  (∀ (s : State) (n rt : Nat) (e : RtEntry), tget (getMpe s n).rt rt = some e →
     ∃ f, tget (getMpe (startSealing s n rt) n).rt rt = some f ∧ f.sealState = .sealing ∧ f.busy = true ∧
       f.sealVal = (getAccord s e.owner).sealCounter ∧ f.owner = e.owner ∧ f.base = e.base ∧ f.limit = e.limit ∧
       (getAccord (startSealing s n rt) e.owner).sealCounter = (getAccord s e.owner).sealCounter + 1 ∧
       (∀ a, a ≠ e.owner → getAccord (startSealing s n rt) a = getAccord s a) ∧
       { startSealing s n rt with mpes := s.mpes, accords := s.accords } = s) ∧
  (∀ (s u : State) (q i : Nat) (c : Started) (g : Region) (e : RtEntry), targetRegion u c = some (i, g, e) →
     (beginOf s q 0x1A = some (c, u) → e.cls = .r →
       exec (.regionSealBegin q) s = .next (pends settleAll q s.nextId (.sealRewrite g.stack g.rt)
         (startSealing (updMpe u g.stack fun m => clearLost m fun b => e.base ≤ b && b ≤ e.limit) g.stack g.rt))) ∧
     (beginOf s q 0x1A = some (c, u) → e.cls ≠ .r →
       exec (.regionSealBegin q) s = .next (ended settleAll q s.nextId .rejected 0x01 0 u)) ∧
     (∀ u1 u2, beginOf s q 0x1B = some (c, u) → e.cls = .r → e.sealState = .sealing → e.busy = false →
       (getMpe u g.stack).capState ≠ 2 → sealIncomplete u g.stack e = (u1, false) → makeResident u1 e.owner = (u2, true) →
       regionLost ((regionBricks e).foldl (fun s' b => sealBrick s' g.stack e b s.nextId) u2) g.stack e = false →
       exec (.regionSeal q) s = .next (ended settleAll q s.nextId .ok 0 0
         (updEntry ((regionBricks e).foldl (fun s' b => sealBrick s' g.stack e b s.nextId) u2) g.stack g.rt
           fun e => { e with sealState := .sealed }))) ∧
     (beginOf s q 0x1B = some (c, u) → e.cls = .r → e.sealState ≠ .sealing →
       exec (.regionSeal q) s = .next (ended settleAll q s.nextId .rejected 0x02 0 u)))

/-- EPOCH_RETIRE of class C or R with no earlier pass running and generations left: the accord's generation on the stack goes up by one,
the old one stays live for its pass, store entries of class C are given up or the class R regions enter SEALING, and the pass begins at
the first brick of each channel the accord binds there; with an earlier pass running it is REJECTED with 0x0A, with the generations used
up with 0x0B. SILLAGE_HARVEST writes the accord's entries of the store back first; then a good buffer is registered empty, or none with
word 0. Without an earlier buffer it ends with RESULT 0. With one it answers the entries counted and whether they overflowed, at once
where no brick is listed, else when the walk over the bricks listed, or after an overflow over every brick bound, is done. A bad buffer
is REJECTED with 0x04, a walk still running with 0x05. -/
def Obligations.EpochAndHarvest : Prop :=
  (∀ (s u : State) (q a n : Nat) (c : Started) (k : Cls),
     beginOf s q 0x1C = some (c, u) → a = (sessionOf u c).accord → n = fld (wd c.words 8) 2 0 →
     clsOf (fld (wd c.words 8) 5 4) = some k → k ≠ .s →
     ((epochOf u a k n).prevLive = true → exec (.epochRetire q) s = .next (ended settleAll q s.nextId .rejected 0x0A 0 u)) ∧
     ((epochOf u a k n).prevLive = false → 32767 ≤ (epochOf u a k n).gen →
       exec (.epochRetire q) s = .next (ended settleAll q s.nextId .rejected 0x0B 0 u)) ∧
     ((epochOf u a k n).prevLive = false → (epochOf u a k n).gen < 32767 →
       ∃ v, (k = .c → v = updEpoch (invalidateStore u n fun _ x => x.owner == a && x.cls == .c) a n .c
           fun x => { x with gen := x.gen + 1, prevLive := true }) ∧
         (k = .r → v = ((getMpe u n).rt.filter fun x => x.2.owner == a && x.2.cls == .r).foldl (fun s x => startSealing s n x.1)
           (updEpoch u a n .r fun x => { x with gen := x.gen + 1, prevLive := true })) ∧
         exec (.epochRetire q) s = .next (pends settleAll q s.nextId (.epochRetire a n k)
           (finishEpochC (finishEpochR (setWait (startPass v a n k (epochOf u a k n).gen) s.nextId (.epochRetire a n k))))))) ∧
  (∀ (s : State) (a n old : Nat) (k : Cls) (f : Epoch → Epoch),
     (k ≠ .s → epochOf (updEpoch s a n k f) a k n = f (epochOf s a k n) ∧ { updEpoch s a n k f with accords := s.accords } = s) ∧
     (channelsOf s a n ≠ [] →
       getMpe (startPass s a n k old) n = { getMpe s n with passes := (getMpe s n).passes ++
         [{ accord := a, cls := k, epoch := old % 4, next := (channelsOf s a n).map fun c => (c, c * channelBricks) }] } ∧
       { startPass s a n k old with mpes := s.mpes } = s)) ∧
  (∀ (s u v : State) (q a n log2 base : Nat) (c : Started) (good : Prop),
     beginOf s q 0x1D = some (c, u) →
     a = (if (sessionOf u c).world = .root then fld (wd c.words 8) 25 16 else (sessionOf u c).accord) →
     n = fld (wd c.words 8) 2 0 → log2 = fld (wd2 c.words 9) 4 0 → base = fld (wd2 c.words 9) 63 12 * 4096 →
     (getAccord u a).state ≠ .free →
     good = (wd2 c.words 9 = 0 ∨ fld (wd2 c.words 9) 11 5 = 0 ∧ 9 ≤ log2 ∧ log2 ≤ 21 ∧ bufferInside u a base log2 = true) →
     v = ((getMpe u n).store.filter fun e => e.2.owner == a).foldl (fun s e => writeBackEntry s n e.1 .bestEffort) u →
     (¬ good → exec (.sillageHarvest q) s = .next (ended settleAll q s.nextId .rejected 0x04 0 u)) ∧
     (good → (getMpe u n).walk.isSome = true →
       exec (.sillageHarvest q) s = .next (ended settleAll q s.nextId .rejected 0x05 0 u)) ∧
     (∀ w, good → (getMpe u n).walk = none → w = updAccord v a (fun y => { y with
         sillage := if wd2 c.words 9 = 0 then tdel y.sillage n else tset y.sillage n (BitVec.ofNat 52 base, log2, 0, false) }) →
       (tget (getAccord v a).sillage n = none →
         exec (.sillageHarvest q) s = .next (ended settleAll q s.nextId .ok 0 0 w)) ∧
       (∀ ob l count spilt x bricks, tget (getAccord v a).sillage n = some (ob, l, count, spilt) →
         (x, bricks) = (if spilt then (w, boundBricks w a n) else listedBricks w a ob.toNat count) →
         (bricks = [] → exec (.sillageHarvest q) s = .next (ended settleAll q s.nextId .ok 0 (pack [(count, 0), (b2n spilt, 31)]) x)) ∧
         (bricks ≠ [] → exec (.sillageHarvest q) s = .next (pends settleAll q s.nextId (.harvest n)
           (updMpe x n fun m => { m with
             walk := some { accord := a, bricks := bricks, result := pack [(count, 0), (b2n spilt, 31)] } }))))))

/-- FOLD with its operands in order, its accord's keys at hand and no source stretcher being filled takes every source stretcher in
turn, writes what is left at the end, and ends OK with the number of outputs that rounding changed as RESULT and the region's OVERFLOW
and INVALID and the number of outputs that became infinite as detail; under ZERO_SOURCE the source region's cell flags are cleared. A
write that failed ends it REJECTED with 0x08, else a source that could not be read with 0x07. What a source stretcher gives: its cells in
ascending order, each rounded to the format asked for. -/
def Obligations.FoldCompletes : Prop :=
  (∀ (s s1 u v : State) (q dst : Nat) (c : Started) (j : FoldJob) (r : FoldRun) (e : Option RtEntry),
    foldReady s q = (s1, true) → beginOf s1 q 0x1E = some (c, u) → foldCheck u s1.nextId c = .ok (j, dst) →
    r = foldFlush j true ((List.range j.count).foldl (foldStep j) { s := u, pos := dst }) →
    e = tget (getMpe r.s j.stack).rt j.rt →
    v = (if j.zero then updEntry r.s j.stack j.rt fun e => { e with overflow := false, invalid := false, loss := 0 } else r.s) →
    (r.stopped = false → r.failed = false →
      exec (.fold q) s = .next (ended settleAll q s1.nextId .ok
        (pack [(b2n (e.any (·.overflow)), 31), (b2n (e.any (·.invalid)), 30), (Nat.min r.infs (2 ^ 24 - 1), 0)])
        (BitVec.ofNat 32 (Nat.min r.changed (2 ^ 32 - 1))) v)) ∧
    (r.stopped = false → r.failed = true → exec (.fold q) s = .next (ended settleAll q s1.nextId .rejected 0x07 0 v)) ∧
    (r.stopped = true → exec (.fold q) s = .next (ended settleAll q s1.nextId .rejected 0x08 0 v))) ∧
  (∀ (j : FoldJob) (d : Bytes) (w : Nat) (out : Nat → Nat × Bool × Bool), w = (if j.x512 then 64 else 8) →
    (∀ k, out k = foldOut j.fmt w (if j.x512 then -160 else j.f) (leField d (w * k) w)) →
    (foldOutputs j d).1 = ((List.range (256 / w)).flatMap fun k => toLE (out k).1 j.size) ∧
    (foldOutputs j d).2.1 = ((List.range (256 / w)).filter fun k => (out k).2.1).length)

/-- The engines' own steps over a stack. EPOCH_PASS_STEP: the oldest pass that still has the channel does its brick there, which is
zeroed, its record cleared of data, when its record is of the accord, class and epoch retired, and which is left alone when the record
is of another accord; the pass then stands at the next brick, the channel leaves it after its last, and a pass with no channel left is
over: the old epoch is no longer live and the owner is told. HARVEST_WALK_STEP clears DIRTY of the walk's next brick, and after the
last ends the command with RESULT. SCRUB_STEP zeroes the channel's next brick unless its record says it holds data, up to the channel's
last brick. SEAL_REWRITE_COMPLETE of a class R region being rewritten, its channels bound, ends the rewrite: its records are written, the
commands that wait for it end OK, and class R retires and accords that waited for it go on. -/
def Obligations.EngineSteps : Prop :=
  (∀ (s : State) (m chan : Nat), live s = true →
    (∀ p b v, (getMpe s m).passes.find? (fun p => (tget p.next chan).isSome) = some p → tget p.next chan = some b →
      ((getMpe s m).reads.any fun r => r.2.req.brick == b) = false →
      (∀ next, v = updMpe (passBrick s m b p) m (fun x => { x with
          passes := (x.passes.map fun y => if y = p then { p with next := next } else y).filter fun y => !y.next.isEmpty }) →
        (b + 1 < (chan + 1) * channelBricks → next = tset p.next chan (b + 1) →
          exec (.epochPassStep m chan) s = .next (settle v)) ∧
        ((chan + 1) * channelBricks ≤ b + 1 → next = tdel p.next chan →
          exec (.epochPassStep m chan) s = .next (settle (if next = [] then
            ownerEvent (updEpoch v p.accord m p.cls fun e => { e with prevLive := false }) p.accord 1 else v))))) ∧
    (∀ w b d rest, (getMpe s m).walk = some w → w.bricks = b :: d :: rest →
      exec (.harvestWalkStep m) s = .next (settleAll
        (updMpe (editRec s m b fun r => { r with dirty := false }) m fun x => { x with walk := some { w with bricks := d :: rest } }))) ∧
    (∀ w b v, (getMpe s m).walk = some w → w.bricks = [b] →
      v = updMpe (editRec s m b fun r => { r with dirty := false }) m (fun x => { x with walk := none }) →
      exec (.harvestWalkStep m) s = .next (settleAll
        ((v.started.filter fun e => e.2.wait == .harvest m).foldl (fun s e => finish s e.1 .ok 0 w.result) v))) ∧
    (∀ k b u v, (getRes s .channel chan).scrub = some k → b = chan % 32 * channelBricks + k → u = ensureCourse s (chan / 32) b →
      v = (if (heldRec (getMpe u (chan / 32)) b).init then u else hbmWrite u (chan / 32) (dataAddr b 0) (zeros 4096)) →
      exec (.scrubStep chan) s = .next (settle
        (updRes v .channel chan fun r => { r with scrub := if k + 1 < channelBricks then some (k + 1) else none }))) ∧
    (∀ rt e, tget (getMpe s m).rt rt = some e → e.busy = true → e.cls = .r → regionBound s m e = true →
      exec (.sealRewriteComplete m rt) s = .next (settleAll (advanceAccords (finishEpochR
        ((rewriteWaiters s m rt).foldl (fun s e => finish s e.1 .ok 0 (rewriteResult s m rt e.2))
          (updEntry ((regionBricks e).foldl (fun s b => sealRecord s m b e) s) m rt fun e => { e with busy := false }))))))) ∧
  (∀ (s u : State) (m b : Nat) (p : EpochPass) (r : Rec), u = ensureCourse s m b → r = heldRec (getMpe u m) b →
    (r.owner = p.accord → r.cls = p.cls → r.epoch = p.epoch →
      passBrick s m b p = putRec (hbmWrite u m (dataAddr b 0) (zeros 4096)) m b { r with init := false, minor := [] }) ∧
    (r.owner ≠ p.accord → passBrick s m b p = u))

/-- PINNED_WRITEBACK takes a queued pinned line off the queue and writes it back if it is dirty; of a line that is not queued it does
nothing. BANDWIDTH_WINDOW_END with no accord short of its reservation starts the next window with nothing counted, full BEST_EFFORT and full
rates. With accords short, each has SHORTFALL set, its owner event bit 0, and an event with the stack and the fraction delivered, and no
other accord changes; BEST_EFFORT is reduced while some of it is left, the rates unchanged, and only then are the rates cut. -/
def Obligations.WindowAndPinnedSteps : Prop :=
  ∀ (s : State) (m level index : Nat), live s = true →
    (∀ v, (getMpe s m).wbQueue.contains (level, index) = true →
      v = updMpe s m (fun x => { x with wbQueue := x.wbQueue.filter (· != (level, index)) }) →
      exec (.pinnedWriteback m level index) s = .next (settle
        (if (heldLine (getMpe s m) level index).any (·.dirty) then writeBackLine v m level index else v))) ∧
    ((getMpe s m).wbQueue.contains (level, index) = false → exec (.pinnedWriteback m level index) s = .next (settle s)) ∧
    ((s.accords.map (·.1)).filter (shortOf s m) = [] →
      exec (.bandwidthWindowEnd m) s = .next (settle
        (updMpe s m fun x => { x with delivered := [], waited := [], scale := 256, beShare := 256 }))) ∧
    (∀ short, short = (s.accords.map (·.1)).filter (shortOf s m) → short ≠ [] →
      ∃ v, exec (.bandwidthWindowEnd m) s = .next (settle v) ∧
        (∀ a ∈ short, (getAccord v a).shortfall = true ∧ (getAccord v a).ownerEvents = (getAccord s a).ownerEvents ||| 1) ∧
        (∀ a, a ∉ short → getAccord v a = getAccord s a) ∧
        v.shortfalls = s.shortfalls ++ short.map (fun a => (a, m, deliveredPart s m a)) ∧
        (getMpe v m).delivered = [] ∧ (getMpe v m).waited = [] ∧
        ((getMpe s m).beShare ≠ 0 → (getMpe v m).beShare < (getMpe s m).beShare ∧ (getMpe v m).scale = 256) ∧
        ((getMpe s m).beShare = 0 → (getMpe v m).beShare = 0 ∧ (getMpe v m).scale ≤ 256) ∧
        { v with accords := s.accords, mpes := s.mpes, draws := s.draws, shortfalls := s.shortfalls } = s)

/-! ## Compute requests (chapters 1, 2 and 4) -/

/-- STAMP_REQUEST of a core group whose entry is VALID, with nothing of it held back. A request to memory behind an MPE, aligned to its
operation, is stamped with the entry's accord and QoS and reaches the MPE that its address names: at the end of the ingress, or, while
its class has no credit, held in the network; a SCHEDULED operation of the AXU takes the place that its lane cycle gives it. One to the
domain window reaches the OTU that the entry names. A request that is not aligned, or whose address lies in no window, is refused with
fault 0x10, and one of a core group whose entry is not VALID with fault 0x02. -/
def Obligations.StampRequests : Prop :=
  ∀ (s : State) (st cg : Nat) (r : ComputeReq) (e : Word) (base : Req),
    running s = true → inDry s = false → s.pwr.entry = none → s.pwr.waking = none → s.dbg.holding = none →
    cg = 16 * st + r.src.toNat → stOk s (cg / 16) = true → e = (getCore s cg).entry →
    base = { origin := .core cg r.tag, accord := fld e 28 19, qos := qosOf (fld e 30 29), op := memOpOf r.op
             data := bslice r.data 0 (dataSize (memOpOf r.op))
             mask := if memOpOf r.op = .writeLine ∨ memOpOf r.op = .atomic then r.mask else 0
             control := if memOpOf r.op = .atomic then r.control else 0 } →
    (bit e 31 = true → (getCore s cg).watchHeld = [] → (getCore s cg).localMark = false →
      (∀ n req, r.addr.toNat < 0x8000000000 → r.addr.toNat % opSize (memOpOf r.op) = 0 → n = fld r.addr 38 36 →
        mpeOk s n = true → req = { base with stack := n, brick := fld r.addr 35 12, off := fld r.addr 11 0 } →
        ∃ v m, exec (.stampRequest st r) s = .next (settle v) ∧ getMpe v n = m ∧ (∀ k, k ≠ n → getMpe v k = getMpe s k) ∧
          { v with mpes := s.mpes, cores := s.cores, draws := s.draws } = s ∧
          (hasCredit (getMpe s n) req.qos = false → m = { getMpe s n with netHeld := (getMpe s n).netHeld ++ [req] }) ∧
          (hasCredit (getMpe s n) req.qos = true → req.qos = .scheduled → isAxuOp (getMpe s n) req = true →
            (m.cycle = (getMpe s n).cycle ∨ m.cycle = (getMpe s n).cycle + 1) ∧
            m = { getMpe s n with cycle := m.cycle
                                  ingress := insertArrival (getMpe s n) { req with cycle := m.cycle } (getMpe s n).ingress }) ∧
          (hasCredit (getMpe s n) req.qos = true → req.qos ≠ .scheduled ∨ isAxuOp (getMpe s n) req = false →
            m = { getMpe s n with ingress := (getMpe s n).ingress ++ [req] })) ∧
      (∀ o, 2 ^ 57 ≤ r.addr.toNat → r.addr.toNat < 2 ^ 58 → r.addr.toNat % opSize (memOpOf r.op) = 0 → o = fld e 18 16 →
        lpeOk s o = true →
        ∃ v, exec (.stampRequest st r) s = .next (settle v) ∧
          getOtu v o = { getOtu s o with
            ingress := (getOtu s o).ingress ++ [{ base with dva := r.addr.setWidth 57, arrival := r.arrival }] } ∧
          (∀ k, k ≠ o → getOtu v k = getOtu s k) ∧ { v with otus := s.otus, cores := s.cores } = s) ∧
      ((getCore s cg).doorbells = [] →
        (r.addr.toNat < 0x8000000000 ∨ 2 ^ 57 ≤ r.addr.toNat ∧ r.addr.toNat < 2 ^ 58) ∧ r.addr.toNat % opSize (memOpOf r.op) ≠ 0 ∨
          (0x8000002000 ≤ r.addr.toNat ∧ r.addr.toNat < 2 ^ 57) ∨ 2 ^ 58 ≤ r.addr.toNat →
        ∃ v, exec (.stampRequest st r) s = .next (settle v) ∧ StampRefused s cg r 0x10 v)) ∧
    (bit e 31 = false → (getCore s cg).doorbells = [] →
      ∃ v, exec (.stampRequest st r) s = .next (settle v) ∧ StampRefused s cg r 0x02 v)

/-- CARVE of a core group whose entry is VALID, with no doorbell of it waiting: the slot of the doorbell page that OFFSET names gives the
number of bricks; a pool that has them left moves on, and the response is OK with the stack and the first brick; one that has fewer left
stays, and the response has bit 63, the stack and the number left; without a pool it is 2^63. Nothing else changes. DOORBELL of a core
group that may ring, with no store or atomic of it unanswered and no doorbell waiting, moves the tail of a queue of a tenant session of
its accord, and nothing else; a doorbell to any other queue, or to none, only counts as foreign. One that may not ring raises fault 0x02. -/
def Obligations.CarveAndDoorbell : Prop :=
  (∀ (s : State) (cg k : Nat) (tag : BitVec 16) (off : BitVec 12),
     running s = true → inDry s = false → s.pwr.entry = none → s.pwr.waking = none → s.dbg.holding = none →
     stOk s (cg / 16) = true → bit (getCore s cg).entry 31 = true → (getCore s cg).watchHeld = [] →
     (getCore s cg).doorbells = [] → k = off.toNat / 8 % 512 + 1 →
     ∃ v x, exec (.carve cg tag off) s = .next (settle v) ∧ v.responses = s.responses ++ [(cg, tag, 0, toLE x 8 ++ zeros 56)] ∧
       { v with responses := s.responses, cores := s.cores } = s ∧ (∀ j, j ≠ cg → getCore v j = getCore s j) ∧
       (∀ p, (getCore s cg).pool = some p → k ≤ p.limit + 1 - p.next →
         x = p.stack * 2 ^ 24 + p.next ∧ (getCore v cg).pool = some { p with next := p.next + k }) ∧
       (∀ p, (getCore s cg).pool = some p → p.limit + 1 - p.next < k →
         x = 2 ^ 63 + p.stack * 2 ^ 24 + (p.limit + 1 - p.next) ∧ (getCore v cg).pool = some p) ∧
       ((getCore s cg).pool = none → x = 2 ^ 63 ∧ (getCore v cg).pool = none)) ∧
  (∀ (s : State) (cg : Nat) (w : Word),
     running s = true → inDry s = false → s.pwr.entry = none → s.pwr.waking = none → stOk s (cg / 16) = true →
     bit (getCore s cg).entry 31 = true →
     (bit (getCore s cg).entry 14 = true → (getCore s cg).stores = [] → (getCore s cg).doorbells = [] →
       ∃ v, exec (.doorbell cg w) s = .next (settle v) ∧
         (∀ q x, tget s.queues (fld w 9 0) = some q → tget s.sessions q.session = some x →
           (x.world = .tenant ∧ x.accord = fld (getCore s cg).entry 28 19 ∧ x.accord ≠ 0 →
             v.queues = tset s.queues (fld w 9 0) { q with tail := fld w 31 16 % 2 ^ q.log2 } ∧ v.foreignDb = s.foreignDb) ∧
           (¬ (x.world = .tenant ∧ x.accord = fld (getCore s cg).entry 28 19 ∧ x.accord ≠ 0) →
             v.queues = s.queues ∧ v.foreignDb = Nat.min (s.foreignDb + 1) 255)) ∧
         (tget s.queues (fld w 9 0) = none → v.queues = s.queues ∧ v.foreignDb = Nat.min (s.foreignDb + 1) 255) ∧
         { v with queues := s.queues, foreignDb := s.foreignDb, cores := s.cores } = s) ∧
     (bit (getCore s cg).entry 14 = false →
       ∃ v f, exec (.doorbell cg w) s = .next (settle v) ∧ v.frs.raised = s.frs.raised ++ [f] ∧ f.code = 0x02 ∧ f.cg = some cg ∧
         { v with frs := s.frs } = s))

/-! ## Memory requests at an MPE (chapters 7 and 8) -/

/-- ADMISSION_SLOT moves the MPE to the next slot of the frame of 256, every accord with credit gaining its share of its reservation under
the common factor, on top of what the slot before left, which slot 0 discards unless it was overdrawn; with nothing at the ingress that is
all. A request that is picked is the oldest of its accord and class, fits the slot, and no other such request that the residency buffer
has room for belongs to an earlier step of admission. A request let in leaves the ingress and joins the service list at its end, or, when
its keys are not on the die or an older one to its brick waits there, the residency buffer. ACCORD_RESIDENT of an accord that can be
made resident, or is neither LIVE nor COMPOSING, sends the requests that wait for its keys on to the end of the service lists. -/
def Obligations.RequestAdmission : Prop :=
  (∀ (s : State) (m : Nat), running s = true → (getMpe s m).ingress = [] →
     ∃ v, exec (.admissionSlot m) s = .next (settle v) ∧ (getMpe v m).slot = ((getMpe s m).slot + 1) % 256 ∧
       (getMpe v m).credit = gainCredits s m ∧ (getMpe v m).ready = (getMpe s m).ready ∧
       (getMpe v m).residency = (getMpe s m).residency ∧ (getMpe v m).hbm = (getMpe s m).hbm ∧
       (∀ k, k ≠ m → getMpe v k = getMpe s k) ∧ { v with mpes := s.mpes, draws := s.draws } = s) ∧
  (∀ (s : State) (m a : Nat) (x : Accord) (old : Int) (r : Resv), s.accords.Pairwise (fun x y => x.1 < y.1) →
     tget s.accords a = some x → r = tgetD x.resv m {} → old = tgetD (getMpe s m).credit a 0 →
     tgetD (gainCredits s m) a 0 =
       (if (getMpe s m).slot = 0 then min old 0 else old) + ((r.c + r.r + r.s) * 40 * (getMpe s m).scale : Nat)) ∧
  (∀ (s : State) (m : Nat) (be : Bool) (b : Budget) (r : Req), pickRequest s m be b = some r →
     r ∈ headsOf (getMpe s m).ingress ∧ fitsBudget (getMpe s m) b r = true ∧
     ∃ k, admitStep s m be r = some k ∧
       ∀ q ∈ headsOf (getMpe s m).ingress, ∀ j, fitsBudget (getMpe s m) b q = true → admitStep s m be q = some j →
         ((getMpe s m).residency.length < 64 ∨ lacksKeys s m q = none) → k ≤ j) ∧
  (∀ (s : State) (m : Nat) (r : Req),
     (getMpe (admitOne s m r) m).ingress = (getMpe s m).ingress.erase r ∧
     (lacksKeys s m r ≠ none ∨ behindResidency (getMpe s m) r = true →
       (getMpe (admitOne s m r) m).residency = (getMpe s m).residency ++ [r] ∧
       (getMpe (admitOne s m r) m).ready = (getMpe s m).ready) ∧
     (lacksKeys s m r = none → behindResidency (getMpe s m) r = false →
       (getMpe (admitOne s m r) m).ready = (getMpe s m).ready ++ [r] ∧
       (getMpe (admitOne s m r) m).residency = (getMpe s m).residency)) ∧
  (∀ (s : State) (a : Nat), running s = true →
     ((getAccord s a).state ≠ .live → (getAccord s a).state ≠ .composing →
       exec (.accordResident a) s = .next (settleAll (runRecords (advanceAccords (releaseResidency s a))))) ∧
     (∀ u, (getAccord s a).state = .live ∨ (getAccord s a).state = .composing → makeResident s a = (u, true) →
       exec (.accordResident a) s = .next (settleAll (runRecords (advanceAccords (releaseResidency u a)))))) ∧
  (∀ (s : State) (a m : Nat) (mine : Req → Bool), m < 8 →
     (∀ r, mine r = (findRegion (getMpe s m) r.brick).all fun e => e.2.owner == a || e.2.cls == .s) →
     (getMpe (releaseResidency s a) m).ready = (getMpe s m).ready ++ (getMpe s m).residency.filter mine ∧
     (getMpe (releaseResidency s a) m).residency = (getMpe s m).residency.filter fun r => !mine r)

/-- READ_LINE and READ_STRETCHER of a request that passes the first checks. One that finds a VALID store entry of its own accord is
answered OK from it: the line, or the whole stretcher; one of another accord is refused ACCESS. One that no entry serves goes the way of its
region: it is posted to the HBM controller where its stretcher has to be read, is answered OK with zeros where its record says that
nothing was written, and is refused where a check fails. One that a first check refuses is refused with that condition. -/
def Obligations.ReadsHitEntry : Prop :=
  ∀ (s v : State) (m cg x : Nat) (tag : BitVec 16) (r : Req) (rest : List Req) (i : Instr),
    running s = true → inDry s = false → (getMpe s m).ready = r :: rest →
    ((getMpe s m).reenc.any fun y => y.brick == r.brick) = false → behindResidency (getMpe s m) r = false →
    r.origin = .core cg tag → x = 16 * r.brick + r.off / 256 → v = updMpe s m (fun y => { y with ready := rest }) →
    (r.op = .readLine ∧ i = .readLine m .none ∨ r.op = .readStretcher ∧ i = .readStretcher m .none) →
    (∀ y, checkPlace v m r.brick false r.place = .error y → exec i s = .next (settleAll (refuse v m r y))) ∧
    (∀ rt e, checkPlace v m r.brick false r.place = .ok (rt, e) →
      (∀ en, storeEntry s m x = some en → en.state = .valid →
        ∃ w, { w with mpes := s.mpes, stamp := s.stamp } = s ∧ (getMpe w m).ready = rest ∧ (getMpe w m).hbm = (getMpe s m).hbm ∧
          (en.owner = r.accord → exec i s = .next (settleAll (respond w cg tag true
            (if r.op = .readLine then bslice en.data (r.off % 256 / 64 * 64) 64 else en.data)))) ∧
          (en.owner ≠ r.accord → exec i s = .next (settleAll (refuse w m r .access)))) ∧
      (storeEntry s m x = none → readsFull (getMpe s m) = false →
        (planKnown (getMpe s m) e r.brick = false →
          exec i s = .next (settleAll (postRead (countFor v m e r (getMpe v m)) m e r none))) ∧
        (∀ t, planKnown (getMpe s m) e r.brick = true →
          (planRead (countFor v m e r (getMpe v m)) m r.brick (r.off / 256) r.accord r.place = (t, .mix) →
            exec i s = .next (settleAll (postRead t m e r none))) ∧
          (∀ k, planRead (countFor v m e r (getMpe v m)) m r.brick (r.off / 256) r.accord r.place = (t, .need k) →
            exec i s = .next (settleAll (postRead t m e r none))) ∧
          (planRead (countFor v m e r (getMpe v m)) m r.brick (r.off / 256) r.accord r.place = (t, .zero) →
            exec i s = .next (settleAll (respond t cg tag true (if r.op = .readLine then bslice (zeros 256) (r.off % 256 / 64 * 64) 64
              else zeros 256)))) ∧
          (∀ y, planRead (countFor v m e r (getMpe v m)) m r.brick (r.off / 256) r.accord r.place = (t, .err y) →
            exec i s = .next (settleAll (refuse t m r y))))))

/-- WRITE_LINE, WRITE_STRETCHER and WRITE_BRICK that no read or fill of their brick holds up, with the keys of their region at hand. One
whose write is carried out is answered OK; one that has to re-encrypt its brick first is kept for that; one that a check refuses is
answered ERROR with its condition. A write of class S with no store entry in its way is carried out, and writes to HBM only there:
a stretcher or brick write, or a line write whose mask covers whole blocks of 16 B, stores the mixed data at the brick's address, the
blocks masked out left as they were; an all-zero mask stores nothing. A request refused writes nothing to HBM. -/
def Obligations.WritesAnswered : Prop :=
  (∀ (s v : State) (m : Nat) (r : Req) (rest : List Req) (i : Instr),
    running s = true → inDry s = false → (getMpe s m).ready = r :: rest →
    ((getMpe s m).reenc.any fun y => y.brick == r.brick) = false → behindResidency (getMpe s m) r = false →
    v = updMpe s m (fun y => { y with ready := rest }) →
    (r.op = .writeLine ∧ i = .writeLine m .none ∨ r.op = .writeStretcher ∧ i = .writeStretcher m .none ∨
      r.op = .writeBrick ∧ i = .writeBrick m .none) →
    (∀ x, checkPlace v m r.brick false r.place = .error x → exec i s = .next (settleAll (refuse v m r x))) ∧
    (∀ rt e w t, checkPlace v m r.brick false r.place = .ok (rt, e) → writeWaits v m r = false →
      (e.cls ≠ .s → r.accord = e.owner → (heartOf v e.owner).isSome = true) →
      (∀ y, meetEntries v m e r = (w, some y) → exec i s = .next (settleAll (refuse w m r y))) ∧
      (meetEntries v m e r = (w, none) →
        (writeLogged w m r false = (t, .done) → exec i s = .next (settleAll (answer t r none []))) ∧
        (writeLogged w m r false = (t, .reenc) →
          exec i s = .next (settleAll (updMpe t m fun y => { y with reenc := y.reenc ++ [{ brick := r.brick, req := r }] }))) ∧
        (∀ y, writeLogged w m r false = (t, .err y) → exec i s = .next (settleAll (refuse t m r y)))) ∧
      (e.cls = .s → r.accord = e.owner → r.place = none → (∀ x ∈ stretchersOf r, storeEntry s m x = none) →
        r.op ≠ .writeLine ∨ r.mask = 0 ∨ blockMask r.mask = true →
        ∃ u, exec i s = .next (settleAll (answer u r none [])) ∧ (∀ k, k ≠ m → getMpe u k = getMpe s k) ∧
          { u with mpes := s.mpes } = s ∧
          (getMpe u m).hbm = (if r.op = .writeLine
            then if r.mask = 0 then (getMpe s m).hbm else (List.range 4).foldl (fun h k =>
              if fld r.mask (16 * k) (16 * k) = 0 then h
              else memWriteBytes h 0 (dataAddr r.brick (r.off / 64 * 64) + 16 * k)
                (bslice (mixLines (k5 s) false m r.brick (r.off / 64) (bslice r.data 0 64)) (16 * k) 16)) (getMpe s m).hbm
            else memWriteBytes (getMpe s m).hbm 0 (dataAddr r.brick r.off)
              (mixLines (k5 s) false m r.brick (r.off / 64) r.data))))) ∧
  (∀ (s : State) (m : Nat) (r : Req) (e : MemErr) (cg : Nat) (tag : BitVec 16), r.origin = .core cg tag →
    ∀ k, (getMpe (refuse s m r e) k).hbm = (getMpe s k).hbm)

/-- The eight operations of Table 8.2 with a well-formed CONTROL, served at the MPE. On a VALID store entry of its own accord, with a mask
that is not empty, the operation is applied in the entry in this step; one of another accord is refused ACCESS, and on a HELD entry it is
refused with what holds the entry; behind a fill of its stretcher it waits. Without an entry, in class S of its own accord, a fill of the
stretcher begins and the operation waits for it. -/
def Obligations.AtomicsHitEntry : Prop :=
  ∀ (s v : State) (m x rt k : Nat) (r : Req) (rest : List Req) (e : RtEntry) (i : Instr),
    running s = true → inDry s = false → (getMpe s m).ready = r :: rest →
    ((getMpe s m).reenc.any fun y => y.brick == r.brick) = false → behindResidency (getMpe s m) r = false → r.op = .atomic →
    atomicValid r.control r.mask (r.off % 64) = true → checkPlace s m r.brick false r.place = .ok (rt, e) →
    x = 16 * r.brick + r.off / 256 → emptyAtomic r = false → v = updMpe s m (fun y => { y with ready := rest }) →
    aopOf r.control = k →
    (k, i) ∈ [(0, Instr.add m .none), (1, .min m .none), (2, .max m .none), (3, .cas m .none), (4, .swap m .none),
      (5, .cellW64 m .none), (6, .cellX512 m .none), (7, .touch m .none)] →
    (∀ en, storeEntry s m x = some en →
      (en.state = .valid → en.owner = r.accord → exec i s = .next (settleAll (applyOp
        (updMpe v m fun y => { y with axuOps := (y.axuOps + 1) % 2 ^ 32, axuHits := (y.axuHits + 1) % 2 ^ 32 }) m x r en))) ∧
      (en.state ≠ .filling → en.owner ≠ r.accord → exec i s = .next (settleAll (refuse v m r .access))) ∧
      (en.state = .held → en.owner = r.accord → exec i s = .next (settleAll (refuse v m r en.heldBy))) ∧
      (en.state = .filling → exec i s = .next (settleAll (updMpe v m fun y =>
        { y with store := tset y.store x { en with waiting := en.waiting ++ [r] } })))) ∧
    (∀ t, storeEntry s m x = none → e.cls = .s → r.accord = e.owner → readsFull (getMpe s m) = false →
      makeRoom v m x e.sched r.qos = (t, .ok) →
      exec i s = .next (settleAll (postRead (putEntry (updMpe t m fun y => { y with axuFills := (y.axuFills + 1) % 2 ^ 32 }) m x
        { state := .filling, owner := e.owner, cls := .s, rt := rt, waiting := [r], fillRead := some (getMpe t m).nextRead })
        m e r (some x))))

/-- What an operation on an entry leaves (R221, R230): the entry's line is what `applyAtomic` makes of it, the other
bytes stay, the
entry is dirty once its bytes differ; the cell flags of its region only gather; HBM and every other entry are untouched. -/
def Obligations.ApplyOpFrame : Prop :=
  ∀ (s : State) (m x : Nat) (r : Req) (en : StoreEntry) (e : RtEntry) (cg : Nat) (tag : BitVec 16) (l : Nat),
    r.origin = .core cg tag → (getCore s cg).doorbells = [] → tget (getMpe s m).rt en.rt = some e →
    l = r.off % 256 / 64 * 64 →
    ∃ en' e', storeEntry (applyOp s m x r en) m x = some en' ∧
      en'.data = bput en.data l (applyAtomic r.control r.mask (r.off % 64) r.data (bslice en.data l 64) e.f.toInt).1 ∧
      en'.owner = en.owner ∧ en'.state = en.state ∧ (en.dirty = true → en'.dirty = true) ∧
      (en'.data ≠ en.data → en'.dirty = true) ∧
      tget (getMpe (applyOp s m x r en) m).rt en.rt = some e' ∧ (e.overflow = true → e'.overflow = true) ∧
      (e.invalid = true → e'.invalid = true) ∧
      (getMpe (applyOp s m x r en) m).hbm = (getMpe s m).hbm ∧
      (∀ y, y ≠ x → storeEntry (applyOp s m x r en) m y = storeEntry s m y) ∧
      (applyOp s m x r en).responses = s.responses ++ [(cg, tag, 0,
        if wantsOld r.control then oldValue r.control (r.off % 64) (bslice en.data l 64) else [])]

/-- HBM_READ_RETURN of a line that a posted read still needs keeps it; the last one ends the read, and data goes to the requester only
as the read's end gives it, a failure as ERROR with its condition; what its end takes as data of a class C or R stretcher was read with
no uncorrectable line and has opened under its tag. STORE_FILL_COMPLETE of a fill whose data is in makes the entry VALID with it, and
the requests behind it are served in their order; one that failed drops the entry and refuses them. REENCRYPTION_COMPLETE waits for the
brick's reads; with none left the brick's write is carried out and answered, and the requests held for the brick go on before all
others. -/
def Obligations.ReadReturnSteps : Prop :=
  (∀ (s : State) (m k : Nat), running s = true →
     (∀ p part line rerr got, tget (getMpe s m).reads k = some p → p.need.contains part = true →
       got = (if line.isSome ∨ rerr ≠ 0
         then p.got ++ [(part, line.getD (storedPart s m p.req.brick (p.req.off / 256) part), rerr)] else p.got) →
       (p.need.erase part ≠ [] → exec (.hbmReadReturn m k part line rerr) s = .next (settleAll (updMpe s m fun x =>
         { x with reads := tset x.reads k { p with need := p.need.erase part, got := got } }))) ∧
       (p.need.erase part = [] → exec (.hbmReadReturn m k part line rerr) s = .next (settleAll (finishEpochC (finishEpochR
         (completeRead s m k { p with need := [], got := got })))))) ∧
     (∀ en d, storeEntry s m k = some en → en.fillResult = some (.data d) →
       ∃ v en', exec (.storeFillComplete m k) s = .next (settle (en.waiting.foldl (fun s r => serveWaiting s m k r) v)) ∧
         storeEntry v m k = some en' ∧ en'.state = .valid ∧ en'.data = d ∧ en'.owner = en.owner ∧
         (∀ y, y ≠ k → storeEntry v m y = storeEntry s m y) ∧ { v with mpes := s.mpes, stamp := s.stamp } = s) ∧
     (∀ en e, storeEntry s m k = some en → en.fillResult = some (.failed e) →
       ∃ v, exec (.storeFillComplete m k) s = .next (settle
           (en.waiting.foldl (fun s r => refuse s m r (if r.accord = en.owner then e else .access)) v)) ∧
         storeEntry v m k = none ∧ (∀ y, y ≠ k → storeEntry v m y = storeEntry s m y) ∧ { v with mpes := s.mpes } = s) ∧
     (∀ y, (getMpe s m).reenc.find? (fun y => y.brick == k) = some y →
       (((getMpe s m).reads.any fun p => p.2.req.brick == k) = true →
         exec (.reencryptionComplete m k) s = .next (settleAll s)) ∧
       (∀ v t, ((getMpe s m).reads.any fun p => p.2.req.brick == k) = false → y.sched = false →
         v = updMpe s m (fun x => { x with reenc := x.reenc.erase y }) →
         writeLogged v m y.req true = (t, .done) →
         exec (.reencryptionComplete m k) s = .next (settleAll (resumeHeld (answer t y.req none []) m k))))) ∧
  (∀ (s t : State) (m k : Nat) (p : PendingRead), inDry s = false → p.fill = none →
     (∀ d, endRead s m p = (t, .data d) →
       completeRead s m k p = answer (updMpe t m fun m => { m with reads := tdel m.reads k }) p.req none (readData p.req d)) ∧
     (∀ e, endRead s m p = (t, .err e) →
       completeRead s m k p = refuse (updMpe t m fun m => { m with reads := tdel m.reads k }) m p.req e)) ∧
  (∀ (s t : State) (m : Nat) (p : PendingRead) (k : StretcherKey) (d : Bytes), authenticate s m p k = (t, .data d) →
     ∃ ct tag, gotStretcher s m p true = (ct, tag, false) ∧ openStretcher k ct tag = some d) ∧
  (∀ (s : State) (m : Nat) (r : Req) (e : MemErr) (cg : Nat) (tag : BitVec 16), r.origin = .core cg tag →
     (getCore s cg).doorbells = [] → r.op = .readLine ∨ r.op = .readStretcher →
     (refuse s m r e).responses = s.responses ++ [(cg, tag, 1, zeros (if r.op = .readLine then 64 else 256))]) ∧
  (∀ (s : State) (m b : Nat),
     (getMpe (resumeHeld s m b) m).ready = ((getMpe s m).heldReqs.filter fun h => h.1 == b).map (·.2) ++ (getMpe s m).ready)

/-! ## Ports, bonds and streams (chapter 9) -/

/-- PORT_ENABLE of a port that is out of service is REJECTED with PORT_STATE; of a DISABLED port it takes the port to NO_LINK, or on to
UNIDENTIFIED where its link is up, and waits until the port is UP; of a DRAINING port it waits until the port is DISABLED; of a port in
any other state it changes nothing and waits. PORT_DISABLE of a port that is DISABLED or DRAINING changes nothing and waits; any other
port it takes to DRAINING, with every OPEN stream of it. LINK_UP takes a NO_LINK port to UNIDENTIFIED and leaves the state of any other
one; LINK_DOWN of an UP port without open streams forgets the module and takes the port to NO_LINK; an hour UP counts one more. None
changes another port, or anything of the block outside the ports and the event controller. -/
def Obligations.PortCommands : Prop :=
  ∀ (s u : State) (q p : Nat) (c : Started),
    (beginOf s q 0x25 = some (c, u) → p = fld (wd c.words 8) 4 0 →
      (unitInService u .port p = false →
        exec (.portEnable q) s = .next (ended fabricSettle q s.nextId .rejected 0x0A 0 u)) ∧
      (unitInService u .port p = true → portServes u p = true → (getPort u p).state = .disabled →
        ∃ v, exec (.portEnable q) s = .next (pends fabricSettle q s.nextId (.portUp p) v) ∧
          getPort v p = { getPort u p with state := if (getPort u p).linkUp then .unidentified else .noLink } ∧
          (∀ k, k ≠ p → getPort v k = getPort u k) ∧ { v with ports := u.ports, bec := u.bec } = u) ∧
      (unitInService u .port p = true → (getPort u p).state = .draining →
        (∀ e ∈ u.started, e.2.wait ≠ .portAgain p) →
        exec (.portEnable q) s = .next (pends fabricSettle q s.nextId (.portAgain p) u)) ∧
      (unitInService u .port p = true → (getPort u p).state ≠ .disabled → (getPort u p).state ≠ .draining →
        exec (.portEnable q) s = .next (pends fabricSettle q s.nextId (.portUp p) u))) ∧
    (beginOf s q 0x26 = some (c, u) → p = fld (wd c.words 8) 4 0 →
      ((getPort u p).state = .disabled ∨ (getPort u p).state = .draining →
        exec (.portDisable q) s = .next (pends fabricSettle q s.nextId (.portDown p) u)) ∧
      ((getPort u p).state ≠ .disabled → (getPort u p).state ≠ .draining →
        ∃ v, exec (.portDisable q) s = .next (pends fabricSettle q s.nextId (.portDown p) v) ∧
          (getPort v p).state = .draining ∧
          (∀ e x, (e, x) ∈ (getPort u p).streams → (getStream u p e).state = .opened → (getStream v p e).state = .draining) ∧
          (∀ k, k ≠ p → getPort v k = getPort u k) ∧ { v with ports := u.ports, bec := u.bec } = u)) ∧
    (s.up = true → ∃ v, exec (.linkUp p) s = .next (settleAll v) ∧ (getPort v p).linkUp = true ∧
      (getPort v p).state = (if (getPort s p).state = .noLink then .unidentified else (getPort s p).state) ∧
      (∀ k, k ≠ p → getPort v k = getPort s k) ∧ { v with ports := s.ports, bec := s.bec } = s) ∧
    ((getPort s p).state = .up → ∃ v, exec (.portUpHour p) s = .next (settle v) ∧
      getPort v p = { getPort s p with upHours := Nat.min ((getPort s p).upHours + 1) (2 ^ 32 - 1) } ∧
      (∀ k, k ≠ p → getPort v k = getPort s k) ∧ { v with ports := s.ports } = s) ∧
    (s.up = true → (getPort s p).state = .up → (streamsWhere s fun k x => k == p && (x.state == .opened || x.state == .draining)) = [] →
      ∃ v, exec (.linkDown p) s = .next (fabricSettle v) ∧ (getPort v p).linkUp = false ∧ (getPort v p).moduleId = 0 ∧
        (getPort v p).state = .noLink ∧ (∀ k, k ≠ p → getPort v k = getPort s k) ∧
        { v with ports := s.ports, bec := s.bec } = s)

/-- BOND_OPEN without a bond policy is REJECTED with NO_POLICY; toward an allowed peer that has no bond here, over UP ports of the
policy, it makes a bond in ATTESTING with that peer and mask, no role decided, this command pending on it, and puts the first SPDM
request, GET_VERSION, as CTRL flits on the lowest UP port of the mask. BOND_CLOSE of a LIVE or STALE bond takes it to CLOSING with every
OPEN stream of it DRAINING; of any other bond it is REJECTED with BOND_STATE. BOND_REKEY of a LIVE bond without a flip starts one and asks
the peer for one by REKEY_REQUEST; during a flip it is queued on the bond; behind a queued one it ends BUSY; of a bond that is not LIVE
it is REJECTED with BOND_STATE. -/
def Obligations.BondCommands : Prop :=
  ∀ (s u : State) (q b : Nat) (c : Started),
    (beginOf s q 0x20 = some (c, u) → lcBonds u = true → u.cfg.policy = none →
      exec (.bondOpen q) s = .next (ended fabricSettle q s.nextId .rejected 0x01 0 u)) ∧
    (∀ pol w p, beginOf s q 0x20 = some (c, u) → lcBonds u = true → u.cfg.policy = some pol → wd c.words 9 ≠ 0 →
      fld (wd c.words 8) 15 0 ≠ u.chipId → peerAllowed pol (fld (wd c.words 8) 15 0) = true →
      (∀ k ∈ maskPorts (wd c.words 9), (getPort u k).gateway = false ∧ (getPort u k).state = .up) →
      (maskPorts (wd c.words 9)).head? = some p →
      bondWith u (fld (wd c.words 8) 15 0) = none → freeIndex u .bond = some b → refRoom u c.session = true →
      holdRef { u with bonds := tset u.bonds b { owner := c.session, state := .attesting } } c.session ⟨.bond, b⟩ = .ok w →
      ∃ v, exec (.bondOpen q) s = .next (pends fabricSettle q s.nextId (.bondOpen b) v) ∧
        (getBond v b).state = .attesting ∧ (getBond v b).peer = fld (wd c.words 8) 15 0 ∧ (getBond v b).mask = wd c.words 9 ∧
        (getBond v b).openCmd = some s.nextId ∧ (getBond v b).initiator = false ∧ (getBond v b).att.decided = false ∧
        (getBond v b).att.step = 1 ∧
        (getPort v p).egress = (getPort u p).egress
          ++ ctrlFlits (fld (wd c.words 8) 15 0) u.chipId 1 (Config.spdmMessage 0x84 []) ∧
        (∀ k, k ≠ b → getBond v k = getBond u k)) ∧
    (∀ r, beginOf s q 0x21 = some (c, u) → targetOf u c = some r →
      ((getBond u r.index).state = .live ∨ (getBond u r.index).state = .stale →
        ∃ v, exec (.bondClose q) s = .next (pends fabricSettle q s.nextId (.bondClose r.index) v) ∧
          (getBond v r.index).state = .closing ∧
          (∀ p e, (p, e) ∈ bondStreams u r.index → (getStream u p e).state = .opened → (getStream v p e).state = .draining)) ∧
      ((getBond u r.index).state ≠ .live → (getBond u r.index).state ≠ .stale →
        exec (.bondClose q) s = .next (ended fabricSettle q s.nextId .rejected 0x09 0 u))) ∧
    (∀ r, beginOf s q 0x22 = some (c, u) → targetOf u c = some r →
      ((getBond u r.index).state ≠ .live →
        exec (.bondRekey q) s = .next (ended fabricSettle q s.nextId .rejected 0x09 0 u)) ∧
      ((getBond u r.index).state = .live → (getBond u r.index).rekeyQueued.isSome = true →
        exec (.bondRekey q) s = .next (ended fabricSettle q s.nextId .busy 0 0 u)) ∧
      ((getBond u r.index).state = .live → (getBond u r.index).rekeyQueued = none →
        ((getBond u r.index).flipping = true ∨ rekeyRunning u r.index = true →
          exec (.bondRekey q) s = .next (pends fabricSettle q s.nextId (.bondRekey r.index false false)
            (updBond u r.index fun x => { x with rekeyQueued := some s.nextId }))) ∧
        ((getBond u r.index).flipping = false → rekeyRunning u r.index = false →
          exec (.bondRekey q) s = .next (pends fabricSettle q s.nextId (.bondRekey r.index false false)
            (controlMessage (startFlip u r.index) r.index 0x010C [])))))

/-- STREAM_OPEN over a LIVE bond, an UP port of its mask bound to the LIVE accord, to a peer of the accord takes the lowest CLOSED
entry of the port to OPENING for that accord and bond, with the bond's next salt, queues OPEN_REQ with the accord's global ID, M, the
stream number, the port and the salt on the bond's control stream, and waits. STREAM_CLOSE of an OPEN stream of the bond takes it to
DRAINING, queues CLOSE_STREAM with both stream numbers, and waits; of one that is OPENING or DRAINING already it changes nothing and
waits. -/
def Obligations.StreamCommands : Prop :=
  ∀ (s u : State) (q b a p e n : Nat) (c : Started),
    (beginOf s q 0x23 = some (c, u) → streamBond u c = .ok (some b) → a = fld (wd c.words 8) 9 0 → p = fld (wd c.words 9) 4 0 →
      ((sessionOf u c).world = .tenant → a = (sessionOf u c).accord) → (getBond u b).state = .live →
      (getBond u b).salt < 2 ^ 31 → (getPort u p).state = .up → (getBond u b).mask.getLsbD p = true →
      (getPort u p).gateway = false → boundTo u .port p a = true → (getAccord u a).peers.contains (getBond u b).peer = true →
      2 ≤ a → (getAccord u a).state = .live → streamCount u b < 16 → freeEntry u p = some e →
      ∃ v, exec (.streamOpen q) s = .next (pends fabricSettle q s.nextId (.streamOpen (streamNo p e)) v) ∧
        (getStream v p e).state = .opening ∧ (getStream v p e).accord = a ∧ (getStream v p e).bond = b ∧
        (getStream v p e).txSalt = BitVec.ofNat 32 (getBond u b).salt ∧ (getBond v b).salt = (getBond u b).salt + 1 ∧
        (getBond v b).outbox = (getBond u b).outbox ++ [(0x0101, toLE (getAccord u a).gid.toNat 4 ++ toBE (getAccord u a).m.toNat 48
          ++ toLE (streamNo p e) 2 ++ toLE p 1 ++ [0] ++ toLE (getBond u b).salt 4)] ∧
        (∀ k, k ≠ e → getStream v p k = getStream u p k) ∧ (∀ k, k ≠ b → getBond v k = getBond u k) ∧
        { v with ports := u.ports, bonds := u.bonds, stamp := u.stamp } = u) ∧
    (beginOf s q 0x24 = some (c, u) → streamBond u c = .ok (some b) → n = fld (wd c.words 8) 12 0 →
      (getStream u (n / 256) (n % 256)).bond = b →
      ((sessionOf u c).world = .tenant → (getStream u (n / 256) (n % 256)).accord = (sessionOf u c).accord) →
      ((getStream u (n / 256) (n % 256)).state = .opened →
        ∃ v, exec (.streamClose q) s = .next (pends fabricSettle q s.nextId (.streamClose n) v) ∧
          (getStream v (n / 256) (n % 256)).state = .draining ∧
          (getBond v b).outbox = (getBond u b).outbox
            ++ [(0x0104, toLE n 2 ++ toLE (getStream u (n / 256) (n % 256)).peerStream 2)] ∧
          { v with ports := u.ports, bonds := u.bonds } = u) ∧
      ((getStream u (n / 256) (n % 256)).state = .opening ∨ (getStream u (n / 256) (n % 256)).state = .draining →
        exec (.streamClose q) s = .next (pends fabricSettle q s.nextId (.streamClose n) u)))

/-- The handshake's corners. GET_VERSION goes out again while nothing has answered it. After 50 ms a handshake in ATTESTING or AGREEING ends
with HANDSHAKE_TIMEOUT, the peer told by ABORT; a re-agreement that a BOND_OPEN waits for ends with the same code and leaves the bond LIVE.
An ABORT from the peer ends its handshake with its code, but NOT_EXPECTED while nothing has answered. A HELLO_I, HELLO_R or FINISH from a
chip that no handshake is with is answered by ABORT NOT_EXPECTED on its port. A handshake that ends leaves the bond's entry empty and its
BOND_OPEN completed as REJECTED with the code. -/
def Obligations.HandshakeMessages : Prop :=
  (∀ (s : State) (b p : Nat) (src : BitVec 16) (m : Bytes) (code : BitVec 8), live s = true →
    ((getBond s b).state = .attesting → (getBond s b).att.step = 1 → (getBond s b).att.decided = false →
      exec (.handshakeRepeat b) s = .next (fabricSettle (sendHandshake s b 1 (Config.spdmMessage 0x84 [])))) ∧
    ((getBond s b).state = .attesting ∨ (getBond s b).state = .agreeing →
      exec (.handshakeTimeout b) s = .next (fabricSettle (endHandshake (sendHandshake s b 5 [7]) b 0x07))) ∧
    (∀ id, (getBond s b).state = .live → (getBond s b).reagreeing = true → (getBond s b).openCmd = some id →
      ∃ w, exec (.handshakeTimeout b) s = .next (fabricSettle (finish w id .rejected 0x07 0)) ∧
        getBond w b = { getBond s b with openCmd := none, reagreeing := false, secret := [], transcript := [] } ∧
        { w with bonds := s.bonds } = s) ∧
    (handshakeWith s src = some b → portHears s p = true →
      ¬ (code = 8 ∧ (getBond s b).state = .attesting ∧ (getBond s b).att.step = 1 ∧ (getBond s b).att.decided = false) →
      exec (.abort p src code) s = .next (fabricSettle (endHandshake s b (code.setWidth 32)))) ∧
    (handshakeWith s src = some b → portHears s p = true → (getBond s b).state = .attesting → (getBond s b).att.step = 1 →
      (getBond s b).att.decided = false → exec (.abort p src 8) s = .next (fabricSettle s)) ∧
    (handshakeWith s src = none → portHears s p = true →
      ∃ v, getPort v p = { getPort s p with egress := (getPort s p).egress ++ ctrlFlits src.toNat s.chipId 5 [8] } ∧
        (∀ k, k ≠ p → getPort v k = getPort s k) ∧ { v with ports := s.ports } = s ∧
        exec (.helloI p src m) s = .next (fabricSettle v) ∧ exec (.helloR p src m) s = .next (fabricSettle v) ∧
        exec (.bondFinish p src m) s = .next (fabricSettle v))) ∧
  (∀ (s : State) (b : Nat) (code : Word),
    ∃ w, endHandshake s b code = finishOpt w (getBond s b).openCmd .rejected code 0 ∧ getBond w b = {} ∧
      (∀ k, k ≠ b → getBond w k = getBond s k))

/-- The agreement of two hubs that have attested each other. A responder in AGREEING, with the DRBG serving, answers a HELLO_I of its peer
with HELLO_R and its FINISH; an initiator in AGREEING answers HELLO_R with its FINISH. Both form the next root from the two shared secrets
and T, the hash of the handshake transcript, and keep the version that both ends run. A HELLO without a common version ends the handshake
with VERSION. A FINISH that verifies under the keys the peer attested takes the bond to LIVE, the next root in force in both directions,
generations and salts from zero, the secrets gone; one that does not verify ends the handshake with AGREEMENT_FAILED. -/
def Obligations.AgreementMessages : Prop :=
  (∀ (s : State) (b p v : Nat) (src : BitVec 16) (m : Bytes), live s = true → handshakeWith s src = some b → portHears s p = true →
    (∀ t y ct ssk sse, (getBond s b).initiator = false → (getBond s b).finishSent = false → (getBond s b).state = .agreeing →
      leField m 0 2 = src.toNat → noEntropy s = false → commonVersion m = some v →
      t = record (drawSecrets s b) b 2 m → y = getBond t b →
      Config.kemEncaps (helloKem m) (secretBytes y 56 64) = some (ct, ssk) →
      Config.ecdhX (secretBytes y 0 56) (helloPk m) = some sse →
      exec (.helloI p src m) s = .next (fabricSettle (sendFinish
        (agree (record (sendHandshake t b 3 (helloBody t b ct)) b 3 (helloBody t b ct)) b v m ssk sse) b))) ∧
    ((getBond s b).initiator = false → (getBond s b).finishSent = false → (getBond s b).state = .agreeing →
      leField m 0 2 = src.toNat → noEntropy s = false → commonVersion m = none →
      exec (.helloI p src m) s = .next (fabricSettle (endHandshake (sendHandshake s b 5 [4]) b 0x04))) ∧
    (∀ sse, (getBond s b).initiator = true → (getBond s b).finishSent = false → (getBond s b).state = .agreeing →
      leField m 0 2 = src.toNat → commonVersion m = some v → Config.ecdhX (secretBytes (getBond s b) 0 56) (helloPk m) = some sse →
      exec (.helloR p src m) s = .next (fabricSettle (sendFinish
        (agree (record s b 3 m) b v m (Config.kemDecaps (secretBytes (getBond s b) 56 64) (helloKem m)) sse) b))) ∧
    ((getBond s b).initiator = true → (getBond s b).finishSent = false → (getBond s b).state = .agreeing →
      leField m 0 2 = src.toNat → commonVersion m = none →
      exec (.helloR p src m) s = .next (fabricSettle (endHandshake (sendHandshake s b 5 [4]) b 0x04))) ∧
    ((getBond s b).finishSent = true → noEntropy s = false → finishVerifies (getBond s b) m = true →
      exec (.bondFinish p src m) s = .next (fabricSettle (goLiveBond s b))) ∧
    ((getBond s b).finishSent = true → finishVerifies (getBond s b) m = false →
      exec (.bondFinish p src m) s = .next (fabricSettle (endHandshake (sendHandshake s b 5 [5]) b 0x05)))) ∧
  (∀ (s : State) (b v : Nat) (m ssk sse : Bytes),
    (getBond (agree s b v m ssk sse) b).version = v ∧ (getBond (agree s b v m ssk sse) b).secret = [] ∧
    (getBond (agree s b v m ssk sse) b).peerModules = helloModules m ∧
    (getBond (agree s b v m ssk sse) b).nextRoot
      = some (linkRoot s (getBond s b) ssk sse (sha384 (getBond s b).transcript)) ∧
    { agree s b v m ssk sse with bonds := s.bonds } = s) ∧
  (∀ (s : State) (b : Nat), (getBond (goLiveBond s b) b).state = .live ∧
    (getBond (goLiveBond s b) b).root = (getBond s b).nextRoot.getD [] ∧
    (getBond (goLiveBond s b) b).rxRoot = (getBond s b).nextRoot.getD [] ∧ (getBond (goLiveBond s b) b).txGen = 0 ∧
    (getBond (goLiveBond s b) b).rxGen = 0 ∧ (getBond (goLiveBond s b) b).salt = 0 ∧ (getBond (goLiveBond s b) b).secret = [] ∧
    (getBond (goLiveBond s b) b).nextRoot = none)

/-- A control message at the head of a bond's inbox is taken from it and handled by its own type's handler: OPEN_REQ, OPEN_ACK, OPEN_REFUSE,
CLOSE_STREAM, PHASE_PREPARE, PHASE_READY, PHASE_DONE, REAGREE_OFFER, REAGREE_ANSWER, BOND_STALE, BOND_CLOSE and REKEY_REQUEST. A row whose
type is not the one at the head, or whose inbox is empty, takes nothing. -/
def Obligations.ControlMessages : Prop :=
  (∀ (s v : State) (b t : Nat) (m : Bytes) (rest : List (BitVec 16 × Bytes)), live s = true →
    (getBond s b).inbox = (BitVec.ofNat 16 t, m) :: rest → v = updBond s b (fun x => { x with inbox := rest }) →
    (t = 0x0101 → exec (.openReq b) s = .next (fabricSettle (openReq v b m))) ∧
    (t = 0x0102 → exec (.openAck b) s = .next (fabricSettle (openAck v b m))) ∧
    (t = 0x0103 → (getStream v (leField m 0 2 / 256) (leField m 0 2 % 256)).bond = b →
      exec (.openRefuse b) s = .next (fabricSettle (refuseOpen v (leField m 0 2) (BitVec.ofNat 32 (leField m 2 1))))) ∧
    (t = 0x0104 → (getStream v (leField m 2 2 / 256) (leField m 2 2 % 256)).bond = b →
      (getStream v (leField m 2 2 / 256) (leField m 2 2 % 256)).peerStream = leField m 0 2 →
      exec (.closeStream b) s = .next (fabricSettle (drainStream v (leField m 2 2 / 256) (leField m 2 2 % 256) false))) ∧
    (t = 0x0105 → exec (.phasePrepare b) s = .next (fabricSettle (phasePrepare v b m))) ∧
    (t = 0x0106 → exec (.phaseReady b) s = .next (fabricSettle (readyFlip v b (leField m 0 2)))) ∧
    (t = 0x0107 → exec (.phaseDone b) s = .next (fabricSettle (doneFlip v b (leField m 0 2)))) ∧
    (t = 0x0108 → exec (.reagreeOffer b) s = .next (fabricSettle (reagreeOffer v b m))) ∧
    (t = 0x0109 → exec (.reagreeAnswer b) s = .next (fabricSettle (reagreeAnswer v b m))) ∧
    (t = 0x010A → exec (.bondStaleMsg b) s = .next (fabricSettle (staleBond v b))) ∧
    (t = 0x010B → exec (.bondCloseMsg b) s = .next (fabricSettle (closeBond v b))) ∧
    (t = 0x010C → exec (.rekeyRequest b) s = .next (fabricSettle (startFlip v b)))) ∧
  (∀ (s : State) (b : Nat) (i : BitVec 16 × Instr), live s = true →
    i ∈ ([(0x0101, .openReq b), (0x0102, .openAck b), (0x0103, .openRefuse b), (0x0104, .closeStream b), (0x0105, .phasePrepare b),
      (0x0106, .phaseReady b), (0x0107, .phaseDone b), (0x0108, .reagreeOffer b), (0x0109, .reagreeAnswer b),
      (0x010A, .bondStaleMsg b), (0x010B, .bondCloseMsg b), (0x010C, .rekeyRequest b)] : List (BitVec 16 × Instr)) →
    ((getBond s b).inbox.head?.map (·.1)) ≠ some i.1 → exec i.2 s = .next (fabricSettle s))

/-- What control messages do. OPEN_REQ at a bond that is not LIVE is answered OPEN_REFUSE BOND_STATE. OPEN_ACK opens the OPENING stream with
the peer's number, port and salt and ends its STREAM_OPEN OK; OPEN_REFUSE closes it and ends the command REJECTED. PHASE_PREPARE without a
new root keeps the old key, takes the next generation and answers PHASE_READY. A flip of the sending direction that changes no root
announces the next generation by PHASE_PREPARE; PHASE_READY puts it in force, PHASE_DONE ends the flip. CLOSE_STREAM's drain takes an OPEN
stream to DRAINING. A re-agreement offer sends REAGREE_OFFER. What timers start: 2^25 windows under one generation start a flip; a
generation of 65,024 or 2^31 salts start a re-agreement by the initiator; 1 ms refuses an OPENING stream with PEER_NO_RESPONSE; 20 us of
draining loses what is outstanding and closes the stream. -/
def Obligations.LinkEvents : Prop :=
  (∀ (s : State) (b n : Nat) (m : Bytes),
     ((getBond s b).state ≠ .live → openReq s b m = controlMessage s b 0x0103 (toLE (leField m 52 2) 2 ++ [9])) ∧
     (n = leField m 4 2 → (getStream s (n / 256) (n % 256)).state = .opening → (getStream s (n / 256) (n % 256)).bond = b →
       mustDrain s (n / 256) (getStream s (n / 256) (n % 256)) = false → (∀ e ∈ s.started, e.2.wait ≠ .streamOpen n) →
       getStream (openAck s b m) (n / 256) (n % 256) = { getStream s (n / 256) (n % 256) with
         state := .opened, peerStream := leField m 6 2, peerPort := leField m 8 1, rxSalt := BitVec.ofNat 32 (leField m 10 4) } ∧
       { openAck s b m with ports := s.ports } = s) ∧
     (n = leField m 4 2 → (getStream s (n / 256) (n % 256)).state = .opening → (getStream s (n / 256) (n % 256)).bond = b →
       ∃ v w, getStream v (n / 256) (n % 256) = { getStream s (n / 256) (n % 256) with
           state := .opened, peerStream := leField m 6 2, peerPort := leField m 8 1, rxSalt := BitVec.ofNat 32 (leField m 10 4) } ∧
         { v with ports := s.ports } = s ∧ w = endStreamOpen v n .ok 0 (BitVec.ofNat 32 n) ∧
         (openAck s b m = w ∨ ∃ h, openAck s b m = drainStream w (n / 256) (n % 256) h)) ∧
     ((getStream s (n / 256) (n % 256)).state = .opening → ∀ code,
       ∃ v, refuseOpen s n code = endStreamOpen v n .rejected code 0 ∧ (getStream v (n / 256) (n % 256)).state = .closed ∧
         { v with ports := s.ports } = s) ∧
     ((getBond s b).state = .live → (getBond s b).rxFlipping = false → leField m 0 2 = ((getBond s b).rxGen + 1) % 65536 →
       leField m 2 1 = 0 → leField m 4 2 = 0 →
       ∃ v, phasePrepare s b m = controlMessage v b 0x0106 (toLE (leField m 0 2) 2) ∧
         getBond v b = { getBond s b with oldRx := some (getBond s b).rxRoot, rxGen := leField m 0 2, rxFlipping := true } ∧
         { v with bonds := s.bonds } = s) ∧
     ((getBond s b).state = .live → (getBond s b).flipping = false → (getBond s b).nextRoot = none → (getBond s b).rootGens < 65536 →
       ∃ v, startFlip s b = controlMessage v b 0x0105 (toLE (((getBond s b).txGen + 1) % 65536) 2 ++ [0, 0, 0, 0]) ∧
         getBond v b = { getBond s b with flipping := true, flipDue := false, flipRoot := none, newSalts := [] } ∧
         { v with bonds := s.bonds } = s) ∧
     ((getBond s b).flipping = true → leField m 0 2 = ((getBond s b).txGen + 1) % 65536 →
       (getBond (readyFlip s b (leField m 0 2)) b).txGen = leField m 0 2 ∧
       (getBond (readyFlip s b (leField m 0 2)) b).root = (getBond s b).flipRoot.getD (getBond s b).root ∧
       (getBond (readyFlip s b (leField m 0 2)) b).oldTx = some (getBond s b).root ∧
       (getBond (readyFlip s b (leField m 0 2)) b).flipping = true) ∧
     ((getBond s b).flipping = true → leField m 0 2 = (getBond s b).txGen →
       (getBond (doneFlip s b (leField m 0 2)) b).flipping = false ∧ (getBond (doneFlip s b (leField m 0 2)) b).newSalts = []) ∧
     ((getStream s (n / 256) (n % 256)).state = .opened →
       (getStream (drainStream s (n / 256) (n % 256) false) (n / 256) (n % 256)).state = .draining ∧
       { drainStream s (n / 256) (n % 256) false with ports := s.ports } = s) ∧
     (noEntropy s = false → ∃ body, (getBond (offerAgreement s b) b).outbox = (getBond s b).outbox ++ [(0x0108, body)] ∧
       body.length = 1664 ∧ (getBond (offerAgreement s b) b).reagreeing = true)) ∧
  (∀ (s : State) (b n : Nat), live s = true →
     ((s.ports.any fun p => tgetD p.2.genWindows b 0 ≥ 2 ^ 25) = true →
       exec (.phaseFlipStart b) s = .next (fabricSettle (startFlip s b))) ∧
     ((s.ports.any fun p => tgetD p.2.genWindows b 0 ≥ 2 ^ 25) = false → exec (.phaseFlipStart b) s = .next (fabricSettle s)) ∧
     ((getBond s b).state = .live → (getBond s b).initiator = true → (getBond s b).reagreeing = false →
       (getBond s b).nextRoot = none → (65024 ≤ (getBond s b).txGen ∨ 65024 ≤ (getBond s b).rxGen ∨ 2 ^ 31 ≤ (getBond s b).salt) →
       exec (.reagreementStart b) s = .next (fabricSettle (offerAgreement s b))) ∧
     ((getStream s (n / 256) (n % 256)).state = .opening →
       exec (.streamOpenTimeout n) s = .next (fabricSettle
         (endStreamOpen (closeEntry s (n / 256) (n % 256)) n .rejected 0x0F 0))) ∧
     ((getStream s (n / 256) (n % 256)).state = .draining →
       exec (.streamDrainTimeout n) s = .next (fabricSettle
         (closeEntry (loseOutstanding s (n / 256) (n % 256)) (n / 256) (n % 256)))))

/-- Windows going out. PORT_TRANSMIT of an UP or DRAINING port in service with no control message waiting packs the oldest request of the
transmit stage, where its stream may await one more response and its window takes the entry, under the stream's next OSEQ, and
remembers it until its response. An idle window closes: its flits, the TAG flit last, enter the egress, and it is held with its
sequence and generation until acknowledged. An owed acknowledgement goes out in an empty window where none is open. Unacknowledged windows
go out again, flit for flit, and the ninth time in a row the stream fails with RETRY_EXHAUSTED. -/
def Obligations.WindowsOut : Prop :=
  (∀ (s : State) (p n : Nat), live s = true →
    (∀ e r rest v, (getPort s p).state = .up ∨ (getPort s p).state = .draining → portServes s p = true → controlWaits s p = [] →
      (getPort s p).tx = (e, r) :: rest → outstandingRoom s p e = true →
      packEntry s (streamNo p e) (requestEntry r (getStream s p e).oseq.toNat) = some v →
      exec (.portTransmit p []) s = .next (fabricSettle (endFlit
        (updStream (updPort v p fun y => { y with tx := y.tx.erase (e, r) }) p e fun x =>
          { x with oseq := x.oseq + 1, outstanding := x.outstanding ++ [(x.oseq, r)] }) (streamNo p e)))) ∧
    exec (.windowIdleClose n) s = .next (fabricSettle (closeWindow s n)) ∧
    (∀ k, (getS s n).ackOwed = true ∨ (getS s n).nakOwed = true → (getS s n).moveDue = false → portOf s n = some k →
      (getS s n).win = none → mayOpenWindow s k n = true →
      exec (.ackOwedTimeout n) s = .next (fabricSettle (closeWindow (startWindow s n) n))) ∧
    (∀ w k, (getS s n).sent.head? = some w → portOf s n = some k → (getS s n).resends < 8 →
      ∃ v, exec (.retransmitTimeout n) s = .next (fabricSettle v) ∧ (getS v n).resends = (getS s n).resends + 1 ∧
        (getS v n).sent = (getS s n).sent ∧
        (getPort v k).egress = (getPort s k).egress ++ (getS s n).sent.flatMap (·.flits)) ∧
    (∀ w, (getS s n).sent.head? = some w → 8 ≤ (getS s n).resends →
      exec (.retransmitTimeout n) s = .next (fabricSettle (failWith s n 0x30)))) ∧
  (∀ (s : State) (n k : Nat) (w : OpenWindow), (getS s n).win = some w → portOf s n = some k →
    ∃ d, (getS (closeWindow s n) n).win = none ∧ (getS (closeWindow s n) n).sent = (getS s n).sent ++ [d] ∧
      d.seq = w.seq ∧ d.gen = w.gen ∧ (getS (closeWindow s n) n).ackOwed = false ∧ (getS (closeWindow s n) n).nakOwed = false ∧
      ∃ tag new, d.flits = w.flits ++ new ++ [tag] ∧
        (getPort (closeWindow s n) k).egress = (getPort s k).egress ++ new ++ [tag])

/-- Windows coming in. A DATA flit for an open stream with room in the assembly buffer is held at its position; an error, a lane
mismatch or a wrong place spoils the window. A sound TAG flit with an old sequence drops its window and owes the acknowledgement again;
one with a later sequence drops it and owes a NAK; one whose window does not verify drops it and owes a NAK; none of these moves the
receive sequence. A verified window of a member accord's stream advances the receive sequence by one and owes its acknowledgement. -/
def Obligations.WindowsIn : Prop :=
  ∀ (s t : State) (p n : Nat) (f : Bytes) (rxErr bad : Bool) (lanes : List Nat), live s = true → portCarries s p = true →
    flitStream s f = some n → t = portMismatch s p 1 (seenLanes s p 1 lanes) → bad = flawedFlit s p rxErr lanes →
    ((getS s n).held ≠ [] ∨ (assembling s p).length < 64 →
      exec (.dataFlitReceive p f rxErr lanes) s = .next (settle (updS t n fun x =>
        { x with flawed := x.flawed || bad || leField f 5 1 % 16 != x.held.length || leField f 4 1 != 1
                 held := tset x.held (leField f 5 1 % 16) f }))) ∧
    (bad = false → leField f 28 8 < (getS t n).rxSeq →
      ∃ v, exec (.tagFlitReceive p f rxErr lanes) s = .next (fabricSettle v) ∧ { v with ports := t.ports, bonds := t.bonds } = t ∧
        (getS v n).rxSeq = (getS t n).rxSeq ∧ (getS v n).ackOwed = true ∧ (getS v n).held = []) ∧
    (bad = false → (getS t n).rxSeq < leField f 28 8 →
      ∃ v, exec (.tagFlitReceive p f rxErr lanes) s = .next (fabricSettle v) ∧ { v with ports := t.ports, bonds := t.bonds } = t ∧
        (getS v n).rxSeq = (getS t n).rxSeq ∧ (getS v n).nakOwed = true ∧ (getS v n).held = []) ∧
    (bad = true ∨ leField f 28 8 = (getS t n).rxSeq → openWindow t n f bad = none →
      ∃ v, exec (.tagFlitReceive p f rxErr lanes) s = .next (fabricSettle v) ∧ { v with ports := t.ports, bonds := t.bonds } = t ∧
        (getS v n).rxSeq = (getS t n).rxSeq ∧ (getS v n).nakOwed = true ∧ (getS v n).held = []) ∧
    (∀ pt gen, bad = false → isCtl n = false → leField f 28 8 = (getS t n).rxSeq → openWindow t n f bad = some (pt, gen) →
      memberOk t (leField f 40 4) (getS t n).accord = true →
      ∃ v w, exec (.tagFlitReceive p f rxErr lanes) s = .next (fabricSettle v) ∧
        (getS w n).rxSeq = (getS t n).rxSeq + 1 ∧ (getS w n).ackOwed = true ∧ (getS w n).held = [] ∧ (getS w n).rxGen = gen ∧
        { w with ports := t.ports, bonds := t.bonds } = t ∧
        (v = finishRxFlip (takeAck w n (leField f 44 8) (leField f 52 1 / 2 % 2 == 1)) (bondOf
            (takeAck w n (leField f 44 8) (leField f 52 1 / 2 % 2 == 1)) n) ∨
          v = releaseEntries (finishRxFlip (takeAck w n (leField f 44 8) (leField f 52 1 / 2 % 2 == 1)) (bondOf
            (takeAck w n (leField f 44 8) (leField f 52 1 / 2 % 2 == 1)) n)) p n pt))

/-! ## Gateways and remote answers (chapter 10) -/

/-- Gateways and remote answers. REMOTE_RESPONSE without a kept answer changes nothing; with one it adds to its arrival counter once and packs
the response entry where the window takes it. GATEWAY_REQUEST takes the oldest request of the port: one under a mark is answered ERROR, a
read closes the open record of its pair and goes as a record of its own, a store is gathered. The idle close closes the open record of
the pair. A record not answered goes again while the far key is at hand, and after eight times it and every later one of its pair are
lost: none of them is left among the port's sent records. A record that has waited its time in the landing stage is dropped and counted
STALE. A GATEWAY flit at an UP gateway port joins its record. A record already applied is a duplicate, one further back than the map of
64 is stale, one whose PREV has been applied is applied, any other waits; applying one advances A to it and keeps the map. With all 64
landing slots full a duplicate, a stale or a waiting record changes nothing. -/
def Obligations.GatewaySteps : Prop :=
  (∀ (s : State) (p a : Nat) (chip : BitVec 16), live s = true →
     (∀ n, isCtl n = false → (getS s n).responses = [] → exec (.remoteResponse n) s = .next (fabricSettle s)) ∧
     (∀ n x rest v, isCtl n = false → (getS s n).responses = x :: rest → packEntry (arriveOnce s n x) n (responseEntry x) = some v →
       exec (.remoteResponse n) s = .next (fabricSettle
         (endFlit (updS v n fun y => { y with responses := y.responses.drop 1, arrived := false }) n))) ∧
     (∀ n x rest, isCtl n = false → (getS s n).responses = x :: rest → packEntry (arriveOnce s n x) n (responseEntry x) = none →
       exec (.remoteResponse n) s = .next (fabricSettle (arriveOnce s n x))) ∧
     ((getPort s p).gwIn = [] → exec (.gatewayRequest p) s = .next (fabricSettle s)) ∧
     (∀ r rest v, (getPort s p).gwIn = r :: rest → v = updPort s p (fun x => { x with gwIn := rest }) →
       exec (.gatewayRequest p) s = .next (fabricSettle
         (if underMark v r then remoteRefuse v r 0x42 0x04 none
          else if r.op = .readLine ∨ r.op = .readStretcher then closeRecord (closeOpen v p r.accord r.chip) p (newRecord r true)
          else gatherStore v p r))) ∧
     (exec (.gatewayRecordIdleClose p a chip) s = .next (fabricSettle (closeOpen s p a chip.toNat))) ∧
     (∀ r, (getPort s p).gwSent.find? (fun x => x.accord == a && x.chip.toNat == chip.toNat && x.rseq == r.rseq && x.sent) = some r →
       8 ≤ r.resends → exec (.gatewayResendTimeout p a chip r.rseq) s = .next (fabricSettle (loseRecords s p r))) ∧
     (∀ r key, (getPort s p).gwSent.find? (fun x => x.accord == a && x.chip.toNat == chip.toNat && x.rseq == r.rseq && x.sent) = some r →
       r.resends < 8 → farKey (makeResident s a).1 a = some key →
       ∃ v, exec (.gatewayResendTimeout p a chip r.rseq) s = .next (fabricSettle v) ∧
         v = updPort (sendRecord (makeResident s a).1 p key (requestHeader (makeResident s a).1 r) (if r.read then [] else r.data)) p
           fun x => { x with gwSent := x.gwSent.map fun y => if sameRecord r y then { y with resends := y.resends + 1 } else y
                             gwResent := Nat.min (x.gwResent + 1) 65535 }) ∧
     (∀ slot e, (getPort s p).landing[slot]? = some e →
       ∃ v, exec (.landingWaitTimeout p slot) s = .next (fabricSettle v) ∧ (getPort v p).landing = (getPort s p).landing.erase e ∧
         (getPort v p).gwStale = Nat.min ((getPort s p).gwStale + 1) 65535 ∧ { v with ports := s.ports } = s) ∧
     (∀ f rxErr lanes, (getPort s p).gateway = true → (getPort s p).state = .up → portServes s p = true → leField f 4 1 = 5 →
       exec (.gatewayFlitReceive p f rxErr lanes) s = .next (fabricSettle
         (gatewayFlit (portMismatch s p 1 (seenLanes s p 1 lanes)) p f (flawedFlit s p rxErr lanes))))) ∧
  (∀ (s : State) (p : Nat) (src : BitVec 16) (r : Record) (top : Nat) (map : BitVec 64),
     (tgetD (getAccord s r.accord).farRx src.toNat (0, 0) = (top, map) →
       (verdict s src r = .duplicate ↔ r.rseq ≤ top ∧ top - r.rseq < 64 ∧ map.getLsbD (top - r.rseq) = true) ∧
       (verdict s src r = .apply ↔ top < r.rseq ∧ r.prev ≤ top) ∧
       (verdict s src r = .wait ↔ top < r.rseq ∧ top < r.prev)) ∧
     (top < r.rseq → (advanceMap (top, map) r.rseq).1 = r.rseq ∧ (advanceMap (top, map) r.rseq).2.getLsbD 0 = true ∧
       ∀ k, k + (r.rseq - top) < 64 → (advanceMap (top, map) r.rseq).2.getLsbD (k + (r.rseq - top)) = map.getLsbD k) ∧
     (64 ≤ (getPort s p).landing.length → verdict s src r ≠ .apply → takeRequest s p src r = s))

/-! ## Keys, the general cipher engine, random numbers (chapters 5 and 13) -/

/-- KEY_STAGE of a slot that may be named, with a readable block whose attributes may be given and a clear key, its shadow empty: the
command waits to write the shadow, which then is STAGED with the block's key, the slot's active half untouched unless the slot was EMPTY.
KEY_CHECK of a STAGED shadow compares the check value: equal, the shadow is CHECKED; not, it is dropped and the command REJECTED. KEY_COMMIT
of a CHECKED shadow makes its key the slot's LIVE key; the old key of a LIVE slot stays in the shadow, DRAINING with its users, while it has
any. KEY_COMMIT of any other shadow is REJECTED. KEY_RETIRE of a LIVE or STAGED slot retires it and waits. KEY_DERIVE from a source that
may be used, with a readable and well-formed label and a slot to derive into: the slot becomes LIVE with the key that KDF derives under
the label, the source's owner, worlds, life-cycle mask and masters, and the USE asked for without its export bit; RESULT is the
slot's handle, and nothing but slots and references changes. -/
def Obligations.KeyCommands : Prop :=
  ((∀ (s u u1 u2 : State) (q i : Nat) (c : Started) (k : Slot) (sp : Space) (blk key : Bytes),
     beginOf s q 0x28 = some (c, u) → i = fld (wd c.words 8) 7 0 → i ≠ 0 → namedSlot u (sessionOf u c) i = .ok k →
     spaceOf (fld (wd c.words 8) 17 16) = some sp →
     readBlock u (sessionOf u c) sp (wd2 c.words 9) = (u1, .ok blk) → attrDenied (sessionOf u c) i sp blk = false →
     (getSlot u1 i).state ≠ .retiring → (getSlot u1 i).shadow = .empty → keyObjRoom u1 c.session i = true →
     clearKey u1 (sessionOf u1 c) blk = (u2, .ok key) →
     exec (.keyStage q) s = .next (pends settleAll q s.nextId (.keyStage i (bslice blk 0 32 ++ key)) u2)) ∧
   (∀ (s : State) (i owner : Nat) (blk : Bytes),
     (getSlot (writeShadow s i owner blk) i).shadow = .staged ∧ (getSlot (writeShadow s i owner blk) i).shadowKey = blk.drop 32 ∧
     (getSlot (writeShadow s i owner blk) i).key = (getSlot s i).key ∧
     (getSlot (writeShadow s i owner blk) i).users = (getSlot s i).users ∧
     ((getSlot s i).state ≠ .empty → (getSlot (writeShadow s i owner blk) i).state = (getSlot s i).state ∧
       (getSlot (writeShadow s i owner blk) i).owner = (getSlot s i).owner) ∧
     (∀ j, j ≠ i → getSlot (writeShadow s i owner blk) j = getSlot s j) ∧ { writeShadow s i owner blk with slots := s.slots } = s) ∧
   (∀ (s u : State) (q i : Nat) (c : Started) (k : Slot), i = fld (wd c.words 8) 7 0 → namedSlot u (sessionOf u c) i = .ok k →
     (beginOf s q 0x29 = some (c, u) → k.shadow = .staged → kcv k.shadowKey = wd c.words 9 →
       exec (.keyCheck q) s = .next (ended settleAll q s.nextId .ok 0 0 (updSlot u i fun x => { x with shadow := .checked }))) ∧
     (beginOf s q 0x29 = some (c, u) → k.shadow = .staged → kcv k.shadowKey ≠ wd c.words 9 →
       exec (.keyCheck q) s = .next (ended settleAll q s.nextId .rejected 0x03 0 (updSlot u i dropShadow))) ∧
     (beginOf s q 0x2A = some (c, u) → k.shadow = .checked →
       exec (.keyCommit q) s = .next (ended settleAll q s.nextId .ok 0 0 (updSlot u i commitSlot))) ∧
     (beginOf s q 0x2A = some (c, u) → k.shadow ≠ .checked →
       exec (.keyCommit q) s = .next (ended settleAll q s.nextId .rejected 0x02 0 u)) ∧
     (beginOf s q 0x2B = some (c, u) → k.state = .live ∨ k.state = .staged →
       exec (.keyRetire q) s = .next (pends settleAll q s.nextId (.keyRetire i) (updSlot u i retireSlot)))) ∧
   (∀ k : Slot, (commitSlot k).state = .live ∧ (commitSlot k).key = k.shadowKey ∧ (commitSlot k).users = [] ∧
     (dropShadow k).shadow = .empty ∧ (dropShadow k).shadowKey = [] ∧
     (k.state = .live → k.users ≠ [] → (commitSlot k).shadow = .draining ∧ (commitSlot k).shadowKey = k.key ∧
       (commitSlot k).shadowUsers = k.users) ∧
     (k.state ≠ .live ∨ k.users = [] → (commitSlot k).shadow = .empty ∧ (commitSlot k).shadowKey = []) ∧
     (k.state = .live ∨ k.state = .staged → k.users ≠ [] → (retireSlot k).state = .retiring ∧ (retireSlot k).key = k.key) ∧
     (k.state = .live ∨ k.state = .staged → k.users = [] → k.shadowUsers = [] → retireSlot k = {}))) ∧
  (∀ (s u u1 u2 : State) (q j : Nat) (c : Started) (src : DeriveSource) (l : Bytes),
     beginOf s q 0x2C = some (c, u) → fld (wd c.words 8) 9 8 ≠ 3 → deriveSource u (sessionOf u c) (wd c.words 8) = (u1, .ok src) →
     spaceCheck (sessionOf u c) (some (defaultSpace (sessionOf u c))) (wd2 c.words 10).toNat 32 = none →
     readSpace u1 (sessionOf u c) (defaultSpace (sessionOf u c)) (wd2 c.words 10) 32 = (u2, some l) →
     labelOk u2 src.owner l = true → deriveDest u2 (fld (wd c.words 9) 7 0) = .ok j → keyObjRoom u2 c.session j = true →
     ∃ v, exec (.keyDerive q) s = .next (ended settleAll q s.nextId .ok 0 (handle v ⟨.key, j⟩) v) ∧
       (getSlot v j).state = .live ∧ (getSlot v j).key = kdf src.key l [] 256 ∧ (getSlot v j).owner = src.owner ∧
       (getSlot v j).worlds = src.worlds ∧ (getSlot v j).lcmask = src.lcmask ∧ (getSlot v j).masters = src.masters ∧
       (getSlot v j).use = BitVec.ofNat 7 (fld (wd c.words 9) 14 8) &&& 0x7B ∧
       (∀ i, i ≠ j → getSlot v i = getSlot u2 i) ∧
       { v with slots := u2.slots, keyObjs := u2.keyObjs, sessions := u2.sessions } = u2)

/-- GCE_RUN queues its job and waits. GCE_JOB_START of an idle engine takes the oldest queued job: one that passes its checks runs, bound to
its key slot; one that does not ends at once and is counted. A running job ends with what the key it began with makes of its data,
counted, and its slot let go of. DRBG_READ of up to 4,096 bytes writes bytes of the DRBG, whose request count goes up by one; of more it is a
BAD_OPERAND; after a failed test it is REJECTED with ENTROPY_FAIL. ENTROPY_FAIL with raw bits that fail the continuous tests stops the
DRBG, ends the jobs and raises 0x61, and with bits that pass changes nothing; DRBG_RESEED begins the count of requests again;
ENTROPY_SOURCE_RESTART with bits that pass makes the DRBG ready again. -/
def Obligations.GceAndDrbg : Prop :=
  (∀ (s u : State) (q id : Nat) (rest : List Nat) (c : Started) (bits : BitVec 1024),
    (beginOf s q 0x30 = some (c, u) →
      exec (.gceRun q) s = .next (pends settleAll q s.nextId .gceQueued
        { u with gce := { u.gce with jobs := u.gce.jobs ++ [s.nextId] } })) ∧
    (∀ v r, live s = true → s.gce.running = none → s.gce.jobs = id :: rest → tget s.started id = some c →
      prepareJob { s with gce := { s.gce with jobs := rest } } id c = (v, .ok r) →
      exec .gceJobStart s = .next (settleAll (bindSlot { v with gce := { v.gce with running := some r } } r.slot id))) ∧
    (∀ v st d res, live s = true → s.gce.running = none → s.gce.jobs = id :: rest → tget s.started id = some c →
      prepareJob { s with gce := { s.gce with jobs := rest } } id c = (v, .error (st, d, res)) →
      exec .gceJobStart s = .next (settleAll (finish (countJob v st d) id st d res))) ∧
    (∀ r v m st d res, s.gce.running = some r → tget s.started r.job = some c → gceMode (gceDesc r.desc).mode = some m →
      runData s (sessionOf s c) r.job m (gceDesc r.desc) r.key = (v, st, d, res) → v.gce.running = some r →
      endJob s = finish (countJob (releaseSlot { v with gce := { v.gce with running := none } } r.slot r.job) st d) r.job st d res) ∧
    (∀ w v b, beginOf s q 0x31 = some (c, u) → (wd c.words 10).toNat ≤ 4096 →
      spaceCheck (sessionOf u c) (some (defaultSpace (sessionOf u c))) (wd2 c.words 8).toNat (wd c.words 10).toNat = none →
      noEntropy u = false → reseedDue u = false → drawBytes u (wd c.words 10).toNat = (v, b) →
      writeSpace v (sessionOf u c) (defaultSpace (sessionOf u c)) (wd2 c.words 8) b (.command s.nextId) = (w, true) →
      exec (.drbgRead q) s = .next (ended settleAll q s.nextId .ok 0 0 w)) ∧
    (beginOf s q 0x31 = some (c, u) → 4096 < (wd c.words 10).toNat →
      exec (.drbgRead q) s = .next (ended settleAll q s.nextId .badOperand 0 0 u)) ∧
    (beginOf s q 0x31 = some (c, u) → (wd c.words 10).toNat ≤ 4096 →
      spaceCheck (sessionOf u c) (some (defaultSpace (sessionOf u c))) (wd2 c.words 8).toNat (wd c.words 10).toNat = none →
      u.entropyFail = true → exec (.drbgRead q) s = .next (ended settleAll q s.nextId .rejected 0x08 0 u)) ∧
    (running s = true → s.entropyFail = false → noiseFails (proportionLimit s) bits = true →
      ∃ v, exec (.entropyFail bits) s = .next (settleAll (raise v { code := 0x61, unit := unitHub })) ∧
        v = failJobs { s with entropyFail := true, drbgReady := false }) ∧
    (noiseFails (proportionLimit s) bits = false → exec (.entropyFail bits) s = .next s) ∧
    (running s = true → s.drbgReady = true → ∃ v, exec .drbgReseed s = .next (settleAll v) ∧ v.drbgRequests = 0 ∧
      { v with draws := s.draws, drbgKey := s.drbgKey, drbgV := s.drbgV, drbgRequests := s.drbgRequests, drbgSince := s.drbgSince } = s) ∧
    (running s = true → s.entropyFail = true → noiseFails (proportionLimit s) bits = false →
      ∃ v, exec (.entropySourceRestart bits) s = .next (settleAll v) ∧ v.entropyFail = false ∧ v.drbgReady = true ∧
        v.drbgRequests = 0)) ∧
  (∀ (s : State) (n : Nat), (drawBytes s n).2.length ≤ n ∧
    { (drawBytes s n).1 with drbgKey := s.drbgKey, drbgV := s.drbgV } = { s with drbgRequests := s.drbgRequests + 1 })

/-! ## Translation (chapter 11) -/

/-- DOMAIN_REQUEST takes the oldest request of an OTU's intake, where the OTU is in service: in dry-down it is answered as refused; of an
accord without a root there it is refused as unmapped; one whose page a miss of its accord already waits for joins that miss; one that hits
goes on through its entry; one that misses takes the lowest free slot, and its miss is posted. XLATE_TIMEOUT frees the slot under its next
generation, counts a timeout and refuses the requests that waited with fault 0x55. A refused request of a core group is answered ERROR
with one fault of that code raised. -/
def Obligations.DomainRequests : Prop :=
  (∀ (s : State) (o slot : Nat) (r : Req) (rest : List Req), running s = true →
    (o < 9 → otuServes s o = true → (getOtu s o).ingress = r :: rest →
      (inDry s = true → exec (.domainRequest o) s = .next (fabricSettle (answer (takeIntake s o 0) r (some .lost) []))) ∧
      (inDry s = false → tget (getAccord s r.accord).roots o = none →
        exec (.domainRequest o) s = .next (fabricSettle (xlateRefuse (takeIntake s o 0) o r 0x50 0x07 (some 2)))) ∧
      (inDry s = false → (tget (getAccord s r.accord).roots o).isSome = true →
        (∀ k, pendingMiss s o r.accord (dvaPage r.dva) = some k → exec (.domainRequest o) s = .next (fabricSettle
          (updOtu (takeIntake s o 0) o fun t => { t with misses := tupd t.misses k fun m => { m with waiting := m.waiting ++ [r] } }))) ∧
        (∀ e, pendingMiss s o r.accord (dvaPage r.dva) = none → tlbHit s o r = some e →
          exec (.domainRequest o) s = .next (fabricSettle (serveHit (takeIntake s o 0) o r e))) ∧
        (pendingMiss s o r.accord (dvaPage r.dva) = none → tlbHit s o r = none → tfree (getOtu s o).misses 0 256 = some slot →
          ∃ v, exec (.domainRequest o) s = .next (fabricSettle v) ∧ (getOtu v o).ingress = rest ∧
            (∃ m, tget (getOtu v o).misses slot = some m ∧ m.accord = r.accord ∧ m.page = dvaPage r.dva ∧ m.waiting = [r]) ∧
            (getOtu v o).posted.length = (getOtu s o).posted.length + 1 ∧ (getOtu v o).tlb = (getOtu s o).tlb ∧
            (∀ k, k ≠ o → getOtu v k = getOtu s k) ∧ { v with otus := s.otus } = s))) ∧
    (∀ m, tget (getOtu s o).misses slot = some m →
      ∃ v, exec (.xlateTimeout o slot) s = .next (settle (m.waiting.foldl (fun s r => xlateRefuse s o r 0x55 0x03 none) v)) ∧
        tget (getOtu v o).misses slot = none ∧
        tgetD (getOtu v o).gens slot 0 = tgetD (getOtu s o).gens slot 0 + 1 ∧
        (getOtu v o).timeouts = satAdd 16 (getOtu s o).timeouts 1 ∧ (getOtu v o).tlb = (getOtu s o).tlb ∧
        { v with otus := s.otus } = s)) ∧
  (∀ (s : State) (o : Nat) (r : Req) (code fence : BitVec 8) (rung : Option Nat) (cg : Nat) (tag : BitVec 16),
    r.origin = .core cg tag →
    (∃ d, (xlateRefuse s o r code fence rung).responses = s.responses ++ [(cg, tag, 1, d)]) ∧
    (∃ f, (xlateRefuse s o r code fence rung).frs.raised = s.frs.raised ++ [f] ∧ f.code = code))

/-- OTU_MISS_REPLY that names the current generation of a slot: a good entry is installed and the waiting requests go on through it;
a fault refuses them; a stale generation or a free slot is REJECTED and changes nothing. OTU_INVALIDATE of a session other than ROOT's over
its accord's OTUs takes what the range meets and waits; INVALIDATION_DRAINED ends an invalidation, with its command, once no request
translated before it is left, and changes nothing before. An entry taken out of an OTU is gone: none of the accord's that the
range meets is left, every other entry is. -/
def Obligations.TranslationCommands : Prop :=
  (∀ (s u : State) (q o slot : Nat) (c : Started) (m : Miss), o = fld (wd c.words 8) 15 12 → slot = fld (wd c.words 8) 7 0 → o ≤ 8 →
    (beginOf s q 0x39 = some (c, u) → tget (getOtu u o).misses slot = some m →
      (tgetD (getOtu u o).gens slot 0).toNat = fld (wd c.words 8) 23 16 → fld (wd c.words 9) 26 24 = 0 →
      fld (wd c.words 9) 15 14 = 0 → wd c.words 12 = 0 →
      (∀ f, bit (wd c.words 9) 31 = false → xfaultOf (fld (wd c.words 9) 23 16) = some f →
        exec (.otuMissReply q) s = .next (ended fabricSettle q s.nextId .ok 0 0
          (m.waiting.foldl (fun s r => xlateFault s o r f) (freeMiss u o slot)))) ∧
      (∀ e : TlbEntry, bit (wd c.words 9) 31 = true → fld (wd c.words 9) 23 16 = 0 →
        e = { accord := m.accord, base := 4096 * m.page / pageSizeOf (fld (wd c.words 9) 30 29) * pageSizeOf (fld (wd c.words 9) 30 29)
              size := pageSizeOf (fld (wd c.words 9) 30 29), writable := bit (wd c.words 9) 28, host := bit (wd c.words 9) 27
              target := wd2 c.words 10, counter := fld (wd c.words 9) 13 0 } →
        replySizeOk u m.accord e.host e.target e.size = true → movesInto u m.accord e = false →
        exec (.otuMissReply q) s = .next (ended fabricSettle q s.nextId .ok 0 0
          (m.waiting.foldl (fun s r => throughEntry s o r e) (freeMiss (installEntry u o e) o slot))))) ∧
    (beginOf s q 0x39 = some (c, u) → tget (getOtu u o).misses slot = some m →
      (tgetD (getOtu u o).gens slot 0).toNat ≠ fld (wd c.words 8) 23 16 →
      exec (.otuMissReply q) s = .next (ended fabricSettle q s.nextId .rejected 0x03 0 u)) ∧
    (beginOf s q 0x39 = some (c, u) → tget (getOtu u o).misses slot = none →
      exec (.otuMissReply q) s = .next (ended fabricSettle q s.nextId .rejected 0x03 0 u)) ∧
    (∀ v i, beginOf s q 0x38 = some (c, u) → (sessionOf u c).world ≠ .root → fld (wd c.words 8) 3 0 = 15 →
      bit (wd c.words 8) 4 = false → (wd2 c.words 9).toNat % 4096 = 0 → (wd2 c.words 9).toNat < 2 ^ 57 →
      (wd c.words 11).toNat % 4096 = 0 →
      startInvalidation u (sessionOf u c).accord (rootOtus u (sessionOf u c).accord)
        (if (wd c.words 11).toNat = 0 then none else some ((wd2 c.words 9).toNat, (wd c.words 11).toNat)) (some s.nextId) none []
        = (v, i) →
      exec (.otuInvalidate q) s = .next (pends fabricSettle q s.nextId (.invalidation i) v)) ∧
    (∀ k x, live s = true → tget s.invalidations k = some x → drainedInvalidation s x = true → x.fence = none →
      s.hpe.moveInv = none →
      exec (.invalidationDrained k) s = .next (fabricSettle (runRecords (advanceAccords
        (finishOpt { s with invalidations := tdel s.invalidations k
                            hpe := { s.hpe with counters := s.hpe.counters.filter fun c => !x.counters.contains c.1 } } x.cmd .ok 0 0))))) ∧
    (∀ k x, live s = true → tget s.invalidations k = some x → drainedInvalidation s x = false →
      exec (.invalidationDrained k) s = .next (fabricSettle (runRecords s)))) ∧
  (∀ (s : State) (o a : Nat) (range : Option (Nat × Nat)) (e : TlbEntry),
    e ∈ (getOtu (invalidateOtu s o a range) o).tlb ↔
      e ∈ (getOtu s o).tlb ∧ ¬ (e.accord = a ∧ meetsRange e.base e.size range = true))

/-- MAP and UNMAP through the HOST mailbox. A MAP of a brick target that breaks no rule adds its extent and nothing else, and the mailbox
holds code 0. An UNMAP of a mapped extent whose accord is not composed takes the extent and its counters out and signals its fence; one of
an extent that is not mapped changes nothing but the code, 0x0A. MOVE with its page and destination in order takes its accord's
entries out of the OTUs and waits for the requests before them; a second MOVE changes nothing. A HOST_PAGE_REQUEST of a resident
accord is served, and one of an accord that cannot be resident yet waits first in the queue. -/
def Obligations.MapAndMove : Prop :=
  ∀ (s : State),
    (∀ m d x, running s = true → mailbox s .host = some m → d = readDescriptor s .host → x = descExtent d →
      leField d 0 1 = 1 → leField d 1 1 ≤ 1 → fld ((d[2]?).getD 0) 7 2 = 0 → bit ((d[2]?).getD 0) 1 = false → leField d 3 1 = 0 → leField d 20 4 = 0 →
      x.host = false → fld x.target 20 0 = 0 → x.base % 4096 = 0 → x.pages ≠ 0 → x.base + 4096 * x.pages ≤ 2 ^ 52 →
      fld x.target 44 21 + x.pages - 1 ≤ 16178175 →
      (∀ y ∈ s.extents, y.gid = x.gid → y.base + 4096 * y.pages ≤ x.base ∨ x.base + 4096 * x.pages ≤ y.base) →
      (s.extents.filter fun y => y.gid == x.gid).length < 128 → s.extents.length < 16384 →
      exec (.map .host) s = .next (fabricSettle
        { s with extents := s.extents ++ [x], mailboxHost := { m with code := 0 } })) ∧
    (∀ m d x f y z, running s = true → mailbox s .host = some m → d = readDescriptor s .host → x = descExtent d →
      leField d 0 1 = 2 → leField d 1 1 ≤ 1 → fld ((d[2]?).getD 0) 7 2 = 0 → leField d 3 1 = 0 →
      parseHandle s (BitVec.ofNat 32 (leField d 20 4)) [.fence] = .ok f → tget s.fences f.index = some z → maySignal 2 z = true →
      x.base % 4096 = 0 →
      (s.extents.find? (fun y => y.gid == x.gid && y.base == x.base && y.pages == x.pages) = some y →
        (∀ e ∈ s.accords, e.1 < 2 ∨ e.2.state = .free ∨ e.2.gid ≠ x.gid) →
        exec (.unmap .host) s = .next (fabricSettle
          { s with extents := s.extents.erase y
                   hpe := { s.hpe with counters := s.hpe.counters.filter fun c => !y.counters.contains c.1 }
                   fenceReady := s.fenceReady ++ [{ fence := f.index, value := 1, add := true }]
                   mailboxHost := { m with code := 0 } })) ∧
      (s.extents.find? (fun y => y.gid == x.gid && y.base == x.base && y.pages == x.pages) = none →
        exec (.unmap .host) s = .next (fabricSettle { s with mailboxHost := { m with code := 0x0A } }))) ∧
    (∀ value a v i, running s = true → bit value 0 = true → s.hpe.moveBusy = false → memberOf s s.hpe.moveGid.toNat = some a →
      (moveExtent s).isSome = true → moveDestOk s a = true →
      startInvalidation s a (rootOtus s a) none none none [] = (v, i) →
      exec (.move .host value) s = .next (settleAll { v with hpe := { v.hpe with moveBusy := true, moveInv := some i } })) ∧
    (∀ value, running s = true → bit value 0 = true → s.hpe.moveBusy = true →
      exec (.move .host value) s = .next (settleAll s)) ∧
    (∀ r rest v, running s = true → hpeOk s = true → inDry s = false → s.hpe.pages = r :: rest →
      (makeResident { s with hpe := { s.hpe with pages := rest } } r.accord = (v, true) →
        exec .hostPageRequest s = .next (fabricSettle (servePage v r))) ∧
      (makeResident { s with hpe := { s.hpe with pages := rest } } r.accord = (v, false) →
        exec .hostPageRequest s = .next (fabricSettle { v with hpe := { v.hpe with pages := r :: v.hpe.pages } })))

/-! ## The host port (chapter 12) -/

/-- VF_QUIESCE makes a VF QUIESCING and waits; VF_RESUME makes it RUNNING and sends its held messages; a write of HPE_VF_BIND binds the
selected VF to a LIVE accord, or clears its binding, and has no effect for one that is not LIVE; a doorbell of a queue the function may
ring sets that queue's tail, any other only counts as foreign, and one of a VF that is not RUNNING is discarded; a command slot of a
bound VF takes its 64 B; a write of HPE_PFQ_CTRL with ENABLE starts queue 2 afresh. -/
def Obligations.HostFunctions : Prop :=
  ∀ (s u : State) (q v fn : Nat) (c : Started) (w : Word),
    (beginOf s q 0x3C = some (c, u) → v = fld (wd c.words 8) 5 0 → v ≠ 0 →
      exec (.vfQuiesce q) s = .next (pends settleAll q s.nextId (.vfQuiesce v) (updVf u v fun x => { x with state := .quiescing }))) ∧
    (beginOf s q 0x3D = some (c, u) → v = fld (wd c.words 8) 5 0 → v ≠ 0 →
      ∃ t, exec (.vfResume q) s = .next (ended settleAll q s.nextId .ok 0 0 t) ∧ (getVf t v).state = .running ∧
        (∀ k, k ≠ v → getVf t k = getVf u k) ∧ t.bec.msix = u.bec.msix ++ u.bec.msixPending.filter (fun m => m.1 == v) ∧
        t.bec.msixPending = u.bec.msixPending.filter (fun m => m.1 != v)) ∧
    (running s = true → selectedVf s .host = v → v ≠ 0 →
      ((getAccord s (fld w 9 0)).state = .live → exec (.vfBind .host w) s = .next (settle
        (updVf s v fun x => { x with bound := if bit w 31 then some (fld w 9 0) else none, accord := fld w 9 0 }))) ∧
      ((getAccord s (fld w 9 0)).state ≠ .live → exec (.vfBind .host w) s = .next (settle s))) ∧
    (running s = true → hpeOk s = true → inDry s = false → s.pwr.entry = none → fn < 64 →
      (fn = 0 ∨ (getVf s fn).state = .running →
        (hostDoorbellOk s fn (fld w 9 0) = true → exec (.hostDoorbell fn w) s = .next (settle
          { s with queues := tupd s.queues (fld w 9 0) fun x => { x with tail := fld w 31 16 % 2 ^ x.log2 } })) ∧
        (hostDoorbellOk s fn (fld w 9 0) = false → exec (.hostDoorbell fn w) s = .next (settle
          { s with foreignDb := satAdd 8 s.foreignDb 1 }))) ∧
      (fn ≠ 0 → (getVf s fn).state ≠ .running → exec (.hostDoorbell fn w) s = .next (settle s))) ∧
    (∀ slot a ws, running s = true → 1 ≤ v → v < 64 → slot < 64 → (getVf s v).bound = some a → primaryQueue s a = some q →
      exec (.vfCommandSlotWrite v slot ws) s = .next (settle { s with queues := tupd s.queues q fun x =>
        { x with slots := tset x.slots slot ((List.range 16).map (wd ws)) } })) ∧
    (running s = true → s.hpe.pfqEnable = false → bit w 31 = true → 4 ≤ fld w 4 0 → fld w 4 0 ≤ 16 →
      exec (.pfqEnable .host w) s = .next (settle
        { s with hpe := { s.hpe with pfqLog2 := fld w 4 0, pfqEnable := true }
                 queues := tupd s.queues 2 fun q => { q with head := 0, tail := 0, ring := s.hpe.pfqRing, cpl := s.hpe.pfqCpl
                                                             log2 := fld w 4 0, cplIndex := 0, cplPhase := true } }))

/-- FLR of a QUIESCED VF aborts its sessions and makes it RUNNING, raising nothing; of one that is not, it also ends its records, drops its
host writes and raises FLR_ABORT. NumVFs written no lower resets nothing; lowered by one it resets the VF above it, silently when it is
QUIESCED. A bounce command of a function that takes records, at an aligned address, starts and waits for a lane; a header that
comes back from the host is kept with its record; host bytes that no record waits for are just written. A lane that stalls asks for
rung 1 on it, and a PCIe error without a command raises 0x80. -/
def Obligations.HostRecords : Prop :=
  ∀ (s u : State) (q fn n : Nat) (c : Started),
    (running s = true → 1 ≤ fn → fn < 64 → (getVf s fn).state = .quiesced →
      exec (.flr fn) s = .next (settleAll (runRecords (resetFunction (abortFunction s fn) fn))) ∧
      (getVf (resetFunction (abortFunction s fn) fn) fn).state = .running) ∧
    (running s = true → 1 ≤ fn → fn < 64 → (getVf s fn).state ≠ .quiesced →
      exec (.flr fn) s = .next (settleAll (runRecords (raise
        (resetFunction (keepHostOf s (abortFunction (abortRecords s fn) fn) fn) fn) { code := 0x81, unit := unitHpe })))) ∧
    (running s = true → s.hpe.numVfs ≤ n → n ≤ 63 →
      exec (.vfDisable n) s = .next (settleAll (runRecords { s with hpe := { s.hpe with numVfs := n } }))) ∧
    (∀ t, running s = true → s.hpe.numVfs = n + 1 → n + 1 ≤ 63 → (getVf s (n + 1)).state = .quiesced →
      t = resetFunction (abortFunction s (n + 1)) (n + 1) →
      exec (.vfDisable n) s = .next (settleAll (runRecords { t with hpe := { t.hpe with numVfs := n } }))) ∧
    (∀ v, recordFn u (sessionOf u c) = some v → (v = 0 ∨ (getVf u v).state = .running) → (wd2 c.words 8).toNat % 64 = 0 →
      (beginOf s q 0x3A = some (c, u) →
        exec (.bounceIn q) s = .next (pends (fun x => settleAll (fillLanes x)) q s.nextId (.bounce false false [] none) u)) ∧
      (beginOf s q 0x3B = some (c, u) →
        exec (.bounceOut q) s = .next (pends (fun x => settleAll (fillLanes x)) q s.nextId (.bounce true false [] none) u))) ∧
    (∀ addr d, live s = true → hpeOk s = true → bounceCmds s = [] →
      exec (.pcieCompletion fn addr d) s = .next (settleAll (runRecords (hostWrite s fn addr d)))) ∧
    (∀ id out lo len, (activeIds s).contains id = true → recordFn s (sessionOf s c) = some fn → recordHead c = [] →
      lo ≤ (wd2 c.words 8).toNat + 63 → (wd2 c.words 8).toNat + 63 < lo + len →
      ∃ ready, recordCame s fn (id, c, out, false) lo len
        = setWait s id (.bounce out ready (hostRead s fn (wd2 c.words 8) 64) (acceptedAccord c))) ∧
    (∀ out lane, live s = true → (s.hpe.active.any fun x => x.1 == out && x.2.1 == lane) = true →
      exec (.recordLaneStall out lane) s = .next (settle { s with frs := { s.frs with due := s.frs.due ++ [.rung1 (.hpeLane out lane)] } })) ∧
    (running s = true → exec (.hostDma none) s = .next (settle (raise s { code := 0x80, unit := unitHpe })))

/-- COMMAND_FETCH of a queue that may fetch reads the slot at its head, checks it, takes its references, and keeps it,
the head moving on round the ring; what was fetched from a STOPPED queue ends ABORTED; a queue that may not fetch is left.
COMMAND_TIMEOUT of a started command that is no GCE job, and no watch that still waits for its step, ends it by its timeout, which raises
fault 0x01 with the rung of its session's world.
A completion entry is written at the queue's completion index with PHASE, and the index goes
round the ring, PHASE flipping at the wrap; shown for a queue in HUB space other than queue 1. -/
def Obligations.FetchTimeoutEntry : Prop :=
  (∀ (s u v : State) (qi id : Nat) (q : Queue) (x : Session) (words : List Word) (failed : Option Status)
     (refs : List ObjRef) (ok : Bool),
     (mayFetch s qi = none → exec (.commandFetch qi) s = .next (settleAll s)) ∧
     (mayFetch s qi = some (q, x) → slotWords s q = (u, words) →
       fetchChecks u q.session x ((List.range 16).map fun i => wd words i) = (failed, refs, ok) → takeRefs u refs = some v →
       (q.stopped = false → exec (.commandFetch qi) s = .next (settleAll (drainFailed
         { v with queues := tupd (tupd v.queues qi fun y => { y with head := (y.head + 1) % 2 ^ y.log2 }) qi fun y =>
             { y with fetched := y.fetched ++ [{ ring := q.head, words := (List.range 16).map fun i => wd words i
                                                 failed := failed, signalOk := ok, refs := refs }] } } qi))) ∧
       (q.stopped = true → exec (.commandFetch qi) s = .next (settleAll (endCommand
         { v with queues := tupd v.queues qi fun y => { y with head := (y.head + 1) % 2 ^ y.log2 } } qi q.head
         ((List.range 16).map fun i => wd words i) refs ok .aborted 0 0 none)))) ∧
     (∀ c ring, running s = true → (s.started.find? fun e => e.2.queue == qi && e.2.ring == ring && !e.2.timedOut) = some (id, c) →
       c.wait ≠ .watch ∨ s.dbg.holding ≠ none → (allJobs s).contains id = false →
       exec (.commandTimeout qi ring) s = .next (settleAll (timeoutCommand s id c)) ∧
       ∃ y f, timeoutCommand s id c = raise y f ∧ f.code = 0x01 ∧ f.rung = some (worldRung (sessionOf s c)))) ∧
  (∀ (s : State) (q ring : Nat) (words : List Word) (st : Status) (detail result : Word) (x : Queue),
     q ≠ 1 → tget s.queues q = some x → x.space = .hub →
     ∃ y, tget (writeEntry s q words ring st detail result).queues q = some y ∧
       tget y.entries x.cplIndex = some (completionEntry (wd words 0) st detail result x.cplPhase ring) ∧
       y.cplIndex = (if x.cplIndex + 1 = 2 ^ x.log2 then 0 else x.cplIndex + 1) ∧
       y.cplPhase = (if x.cplIndex + 1 = 2 ^ x.log2 then !x.cplPhase else x.cplPhase) ∧
       (∀ k, k ≠ x.cplIndex → tget y.entries k = tget x.entries k) ∧
       { writeEntry s q words ring st detail result with queues := s.queues } = s)

/-! ## Registers, events and check values (chapters 4, 13, 14, 17) -/

/-- REGISTER_WRITE of 4 bytes by ROOT or HOST in a running block is a write of that register: of HUB_SCRUB_RATE by ROOT it sets the rate, at an
unaligned offset it writes nothing. An access of another width changes nothing and a read of one answers zero. A read of a _LO register
captures its other half; OTU_HOT_FIFO pops; KICK and a first arming reach the watchdog, a second arming changes nothing; the test engine
keeps its command; the aperture writes and reads registers for the world that issued the grant, of those its levels open, and for
no other. -/
def Obligations.RegisterRows : Prop :=
  ∀ (s : State) (w : World) (off : BitVec 24) (v : Word) (n : Nat), running s = true →
    (w = .root ∨ w = .host →
      exec (.registerWrite w off 4 v) s = .next (settleAll (writeReg s w off.toNat v)) ∧
      (off.toNat % 4 ≠ 0 → exec (.registerWrite w off 4 v) s = .next (settleAll s))) ∧
    exec (.registerWrite .root 0x118 4 v) s = .next (settleAll { s with scrubRate := v.setWidth 8 }) ∧
    (n ≠ 4 → exec (.registerWrite w off n v) s = .next s ∧ exec (.loCaptureRead w off n) s = .next s ∧
      exec (.hotFifoPop w n) s = .next s ∧ exec (.becAck w n) s = .next s ∧ (∀ x, exec (.apertureAccess w n x) s = .next s) ∧
      readReg s w off.toNat n = (s, 0)) ∧
    (∀ hi, w = .root ∨ w = .host ∨ w = .debug → hiOf off.toNat = some hi →
      exec (.loCaptureRead w off 4) s = .next (settle { s with caps := tset s.caps (worldKey w hi) (hiValue s w off.toNat) })) ∧
    (w = .root ∨ w = .host ∨ w = .debug →
      exec (.hotFifoPop w 4) s = .next (settle { s with hpe := { s.hpe with hotFifo := s.hpe.hotFifo.drop 1 } })) ∧
    (exec (.kick .root) s = .next (settle { s with frs := { s.frs with kicked := true } })) ∧
    (s.frs.wdogEnable = false → bit v 31 = true → 1 ≤ fld v 13 0 → fld v 13 0 ≤ 10000 →
      exec (.watchdogArm .root v) s = .next (settle { s with frs :=
        { s.frs with wdogEnable := true, kicked := false, wdogPeriod := BitVec.ofNat 14 (fld v 13 0) } })) ∧
    (s.frs.wdogEnable = true → exec (.watchdogArm .root v) s = .next (settle s)) ∧
    (testEngineOpen s w = true → ∃ t, exec (.testEngineCommand w v) s = .next (settle t) ∧ t.bist.teCmd = v) ∧
    (mayAperture s w = true → levelCovers s s.dbg.winAddr.toNat = true →
      exec (.apertureAccess w 4 (some v)) s = .next (settleAll (writeReg s .debug s.dbg.winAddr.toNat v)) ∧
      exec (.apertureAccess w 4 none) s = .next (settleAll
        { (readReg s .debug s.dbg.winAddr.toNat 4).1 with
          dbg := { (readReg s .debug s.dbg.winAddr.toNat 4).1.dbg with winData := (readReg s .debug s.dbg.winAddr.toNat 4).2 } })) ∧
    (mayAperture s w = true → levelCovers s s.dbg.winAddr.toNat = false →
      exec (.apertureAccess w 4 (some v)) s = .next (settleAll s) ∧
      exec (.apertureAccess w 4 none) s = .next (settleAll { s with dbg := { s.dbg with winData := 0 } })) ∧
    (mayAperture s w = false → exec (.apertureAccess w 4 (some v)) s = .next s)

/-- The active stack of the event controller (R438), for ROOT in a running block. A read of BEC_ACK returns the
selected source, pushes
it and clears its edge; with nothing to return or 16 sources stacked it returns VALID clear and pushes nothing. BEC_EOI pops the
top when it names it; naming another source, or with the stack empty, it raises BEC_ORDER (0x74), freezes the stack and changes nothing
else. While frozen, nothing is selected, BEC_ACK and BEC_EOI have no effect and edges are collected as before. POP takes one entry
off, UNFREEZE ends the freeze. No write of these takes the stack above 16, and a next selection is made afresh from the stack left. -/
def Obligations.ActiveStack : Prop :=
  ∀ (s : State) (v : Word), running s = true →
    (∀ n, s.bec.stack.length < 16 → selected s = some n →
      ackWord s = pack [(1, 31), (n, 0)] ∧
      exec (.becAck .root 4) s = .next (settle { s with bec :=
        { s.bec with stack := n :: s.bec.stack, edges := s.bec.edges.filter (· != n) } })) ∧
    (16 ≤ s.bec.stack.length ∨ selected s = none →
      bit (ackWord s) 31 = false ∧ exec (.becAck .root 4) s = .next (settle s)) ∧
    (s.bec.frozen = false → s.bec.stack.head? = some (fld v 8 0) →
      exec (.becEoi .root v) s = .next (settle { s with bec := { s.bec with stack := s.bec.stack.drop 1 } })) ∧
    (s.bec.frozen = false → s.bec.stack.head? ≠ some (fld v 8 0) →
      exec (.becEoi .root v) s = .next (settle (raise { s with bec := { s.bec with frozen := true } } { code := 0x74, unit := unitHub }))) ∧
    (s.bec.frozen = true → selected s = none ∧ exec (.becAck .root 4) s = .next (settle s) ∧
      exec (.becEoi .root v) s = .next (settle s)) ∧
    (∀ b, (settle { s with bec := { s.bec with frozen := b } }).bec.edges = (settle s).bec.edges) ∧
    exec (.pop .root) s = .next (settle { s with bec := { s.bec with stack := s.bec.stack.drop 1 } }) ∧
    exec (.unfreeze .root) s = .next (settle { s with bec := { s.bec with frozen := false } }) ∧
    (∀ i t, s.bec.stack.length ≤ 16 → i = .becAck .root 4 ∨ i = .becEoi .root v ∨ i = .pop .root ∨ i = .unfreeze .root →
      exec i s = .next t → t.bec.stack.length ≤ 16) ∧
    (∀ w i, w ≠ .root → i = .becAck w 4 ∨ i = .becEoi w v ∨ i = .pop w ∨ i = .unfreeze w → exec i s = .next s)

/-- The check-value units (R356 to R361): CVU_INIT with a supported POLY starts the unit afresh from the polynomial's
initial value;
a switch without INIT keeps the value within the width; feeds of 1, 2 and 4 bytes run the CRC over the bytes in address
order and count them. Units 0 and 1 are written by ROOT alone, units 2 and 3 by ROOT, HOST and DEBUG, and a write by any other
world changes nothing; there is one copy of a unit's state, whichever world writes it, and other units stay. -/
def Obligations.CheckValueUnits : Prop :=
  ∀ (s : State) (w : World) (n wid first : Nat) (v : Word) (p : Nat) (refl : Bool) (x : Nat),
    running s = true → cvuMayWrite w n = true →
    (crcParams (fld v 2 0) = some (wid, p, first, refl, x) →
      exec (.cvuInit w n v) s = .next (settle (setCvu s n { getCvu s n with
        poly := BitVec.ofNat 3 (fld v 2 0), value := BitVec.ofNat 64 first, count := 0 })) ∧
      exec (.cvuPolySwitch w n v) s = .next (settle (setCvu s n { getCvu s n with
        poly := BitVec.ofNat 3 (fld v 2 0), value := BitVec.ofNat 64 ((getCvu s n).value.toNat % 2 ^ wid) }))) ∧
    (crcParams (fld v 2 0) = none → exec (.cvuInit w n v) s = .next (settle (setCvu s n (getCvu s n)))) ∧
    (crcParams (getCvu s n).poly.toNat = some (wid, p, first, refl, x) →
      exec (.cvuFeed8 w n v) s = .next (settle (setCvu s n { getCvu s n with
        value := BitVec.ofNat 64 (crcByte wid p refl (getCvu s n).value.toNat (v.setWidth 8)), count := (getCvu s n).count + 1 })) ∧
      (∃ c, exec (.cvuFeed16 w n v) s = .next (settle (setCvu s n c)) ∧ c.count = (getCvu s n).count + 2 ∧ c.poly = (getCvu s n).poly ∧
        c.value = BitVec.ofNat 64 ((toLE v.toNat 2).foldl (crcByte wid p refl) (getCvu s n).value.toNat)) ∧
      (∃ c, exec (.cvuFeed32 w n v) s = .next (settle (setCvu s n c)) ∧ c.count = (getCvu s n).count + 4 ∧ c.poly = (getCvu s n).poly ∧
        c.value = BitVec.ofNat 64 ((toLE v.toNat 4).foldl (crcByte wid p refl) (getCvu s n).value.toNat))) ∧
    (∀ u k, cvuMayWrite u k = true ↔ k < 4 ∧ (u = .root ∨ (2 ≤ k ∧ (u = .host ∨ u = .debug)))) ∧
    (∀ u k i, cvuMayWrite u k = false →
      (i = .cvuInit u k v ∨ i = .cvuPolySwitch u k v ∨ i = .cvuFeed8 u k v ∨ i = .cvuFeed16 u k v ∨ i = .cvuFeed32 u k v) →
      exec i s = .next s) ∧
    (∀ c k, k ≠ n → getCvu (setCvu s n c) k = getCvu s k)

/-! ## Faults and rungs (chapter 16) -/

/-- FAULT_ACCEPT accepts the fault that `nextFault` takes, one of those raised whose source is nowhere behind another's in the rotation;
a fault of rung 3 with no fence, accepted with room in the queue, is recorded at TAIL and makes rung 3 due.
FAULT_ACK of an entry that is there gives back that entry and those before it. RUNG_0 to RUNG_2 run the first rung of their kind that
is due: rung 0 of a session that is not fixed or primary halts it, rung 1 of a lane group marks the group, rung 2 of an accord that is
FREE, RETIRING or fixed does nothing, and of another retires it. RUNG_3 resets the block and leaves that rung in progress; where it has no
mirrored fence, no fence update and no bind left, the reset is counted and the island and the queue of commands stay. RUNG_4 and
RUNG_5 raise their requests. A rung 1 that does not complete in time raises 0x73 at rung 3; after rung 5 nothing follows. -/
def Obligations.FaultsAndRungs : Prop :=
  ∀ (s u : State) (q i : Nat) (c : Started) (f : Raised) (e : List Word) (pre ds : List Due),
    (s.up = true → nextFault s = some f →
      exec .faultAccept s = .next (settleAll (acceptFault (takeFault s f) f)) ∧
      f ∈ s.frs.raised ∧ (∀ g ∈ s.frs.raised, faultDist s f ≤ faultDist s g) ∧
      (takeFault s f).frs.raised = s.frs.raised.erase f) ∧
    (∀ k, f.fence = none → f.rung = some 3 → f.code ≠ 0x1B → s.frs.entries.length < 255 → s.frs.ringEnable = false →
      faultEntry s f (some 3) s.frs.phase = k →
      (acceptFault s f).frs.due = s.frs.due ++ [.rung3 (faultEntry s f (some 3) false)] ∧
      tget (acceptFault s f).frs.entries s.frs.tail = some k) ∧
    (beginOf s q 0x49 = some (c, u) → i = (wd c.words 8).toNat → i ≠ 255 → (tget u.frs.entries i).isSome = true → u.frs.lostTotal = 0 →
      exec (.faultAck q) s = .next (ended settleAll q s.nextId .ok 0 0 { u with frs :=
        { u.frs with entries := u.frs.entries.filter fun x => ringDist u i < ringDist u x.1
                     head := if i + 1 = 255 then 0 else i + 1 } })) ∧
    (∀ x, running s = true → (∀ d ∈ pre, ∀ k, d ≠ .rung0 k) → s.frs.due = pre ++ .rung0 i :: ds →
      absorbed { s with frs := { s.frs with due := pre ++ ds } } (.rung0 i) = false → tget s.sessions i = some x →
      3 ≤ i → x.primary = false →
      exec .rung0 s = .next (fabricSettle (haltSession
        { s with frs := { s.frs with due := pre ++ ds, active := s.frs.active ++ [.rung0 i] } } i))) ∧
    (∀ m g, running s = true → (∀ d ∈ pre, ∀ r, d ≠ .rung1 r) → s.frs.due = pre ++ .rung1 (.laneGroup m g) :: ds →
      ∃ t, exec .rung1 s = .next (fabricSettle (runRung1 t (.laneGroup m g))) ∧ t = { s with frs := { s.frs with due := pre ++ ds } } ∧
        g ∈ (getMpe (runRung1 t (.laneGroup m g)) m).resetGroups) ∧
    (∀ t, running s = true → (∀ d ∈ pre, ∀ k, d ≠ .rung2 k) → s.frs.due = pre ++ .rung2 i :: ds →
      t = { s with frs := { s.frs with due := pre ++ ds } } →
      (i < 2 ∨ (getAccord s i).state = .free ∨ (getAccord s i).state = .retiring → exec .rung2 s = .next (fabricSettle t)) ∧
      (2 ≤ i → (getAccord s i).state ≠ .free → (getAccord s i).state ≠ .retiring →
        exec .rung2 s = .next (fabricSettle (retireAccord
          { t with frs := { t.frs with active := s.frs.active ++ [.rung2 i], lastRung2 := i } } i none)))) ∧
    ((∀ d ∈ pre, ∀ k, d ≠ .rung3 k) → s.frs.due = pre ++ .rung3 e :: ds →
      ∃ v, exec .rung3 s = .next (settle v) ∧ v = blockReset s e ∧ v.up = false ∧ v.sessions = State.reset.sessions ∧
        v.hubMem = State.reset.hubMem ∧ v.frs.active = [.rung3 e] ∧ v.frs.due = [] ∧
        (ResetsPlainly s → v.frs.resetCount = (s.frs.resetCount + 1) % 2 ^ 32 ∧ v.otp = s.otp ∧
          v.frs.dryDown = s.frs.dryDown ∧ v.pending = s.pending)) ∧
    ((∀ d ∈ pre, ∀ k, d ≠ .rung4 k) → s.frs.due = pre ++ .rung4 e :: ds →
      ∃ v, exec .rung4 s = .next (settle v) ∧ v.aon = { s.aon with chipResetReq := true } ∧ v.frs.due = pre ++ ds ∧
        v.frs.active = [.rung4 e] ∧ v.sessions = s.sessions) ∧
    ((∀ d ∈ pre, ∀ k, d ≠ .rung5 k) → s.frs.due = pre ++ .rung5 e :: ds →
      ∃ v, exec .rung5 s = .next (settle v) ∧ v.aon = { s.aon with pwrCycleReq := true } ∧ v.frs.due = pre ++ ds ∧
        v.frs.active = [.rung5 e] ∧ v.sessions = s.sessions) ∧
    (∀ r as, s.aon.up = true → s.frs.active = .rung1 r :: as →
      exec .rungTimeout s = .next (settle (raise { s with frs := { s.frs with active := as } }
        { code := 0x73, unit := unitHub, rung := some 3 }))) ∧
    (∀ as, s.aon.up = true → s.frs.active = .rung5 e :: as →
      exec .rungTimeout s = .next (settle { s with frs := { s.frs with active := as } }))

/-- Events of the block itself: a watchdog period with a kick only starts the next, one without resets the block; cores that disagree
reset it; such a reset is counted where no mirrored fence, fence update, bind or fault ring is left to serve. A failed attempt of a
transfer on a die-to-die link is noted, the fifth in a row takes the link down and raises 0x70 at rung 3, and another link only goes on;
a glitch, and firmware that no longer matches, enter dry-down; ZEROIZE_ALL zeroizes at once; POWER_CYCLE asks for a power cycle. -/
def Obligations.BlockEvents : Prop :=
  ∀ (s u : State) (q link attempt die : Nat) (c : Started) (d : BitVec 384),
    (running s = true → s.frs.wdogEnable = true → s.frs.kicked = true →
      exec .watchdog s = .next (settle { s with frs := { s.frs with kicked := false } })) ∧
    (running s = true → s.frs.wdogEnable = true → s.frs.kicked = false →
      ∃ v, exec .watchdog s = .next (settle v) ∧ v.up = false ∧ v.sessions = State.reset.sessions ∧
        (ResetsPlainly s → s.frs.ringEnable = false → v.frs.resetCount = (s.frs.resetCount + 1) % 2 ^ 32)) ∧
    (running s = true →
      ∃ v, exec .lockstep s = .next (settle v) ∧ v.up = false ∧ v.sessions = State.reset.sessions ∧
        (ResetsPlainly s → s.frs.ringEnable = false → v.frs.resetCount = (s.frs.resetCount + 1) % 2 ^ 32)) ∧
    (running s = true → dieLink link = true → s.linksDown.contains link = false →
      attempt = 1 ∨ attempt = tgetD s.linkTries link 0 + 1 →
      (attempt < 5 → exec (.mortarCrcError link attempt) s = .next (settle { s with linkTries := tset s.linkTries link attempt })) ∧
      (5 ≤ attempt → ∃ v, exec (.mortarCrcError link attempt) s = .next (settle v) ∧
        v.linksDown = s.linksDown ++ [link] ∧
        v.frs.raised = (if inDry s then s.frs.raised
          else s.frs.raised ++ [{ code := 0x70, unit := unitMortar, inst := link, rung := some 3 }]) ∧
        { v with linksDown := s.linksDown, linkTries := s.linkTries, unitOk0 := s.unitOk0, unitOk1 := s.unitOk1, frs := s.frs } = s)) ∧
    (dieLink link = false → exec (.mortarCrcError link attempt) s = .next s) ∧
    (s.aon.up = true → die < 25 → s.aon.glitch.contains die = false →
      exec (.tamper die) s = .next (settle (enterDry { s with aon := { s.aon with glitch := s.aon.glitch ++ [die] } } 0x78 unitAon))) ∧
    (running s = true → d ≠ s.cfg.fwDigest → exec (.fwSelfcheck d) s = .next (settle (enterDry s 0x7B unitHub))) ∧
    (d = s.cfg.fwDigest → exec (.fwSelfcheck d) s = .next s) ∧
    (beginOf s q 0x48 = some (c, u) → exec (.zeroizeAll q) s = .next (ended settleAll q s.nextId .ok 0 0 (zeroizeNow u))) ∧
    (beginOf s q 0x47 = some (c, u) →
      exec (.powerCycle q) s = .next (ended settleAll q s.nextId .ok 0 0 { u with aon := { u.aon with pwrCycleReq := true } }))

/-! ## Start, the always-on island and power states (chapters 14, 16, 17) -/

/-- The island starts once, with the life-cycle state that a readable OTP holds; block start runs on it. Its status, fault record,
zeroization, power cycle and wake messages are answered while it is up, whatever the block does. POWER_STATE ends REJECTED in dry-down,
for B3 outside PILOT, FIELD and SUNSET, and during a flash write; of B0 it ends at once, and of another B-state it puts the entry in
progress and waits, for B3 with any debug grant ended. An enabled wake source asks a sleeping block's rail for the code of B0; VID_ACK
of an entry completes it; a temperature is kept. Power loss takes every island down, and keeps OTP where no transition runs, the
flash and the queue of commands. -/
def Obligations.IslandAndPower : Prop :=
  ∀ (s u : State) (q n : Nat) (c : Started) (nonce : BitVec 256),
    (s.aon.up = false → (decodeOtp s.otp).state ≠ lcUnreadable → (decodeOtp s.otp).voidPending = false →
      ∃ v, exec .aonStart s = .next (settle v) ∧ v.aon.up = true ∧ v.lcc.state = (decodeOtp s.otp).state ∧ v.lcc.target = none ∧
        v.otp = s.otp) ∧
    (s.aon.up = true → exec .aonStart s = .next s) ∧
    (∀ fails, s.aon.up = true → s.up = false ∨ s.aon.chipResetReq = true →
      exec (.blockStart fails) s = .next (settle (blockStart s fails))) ∧
    (s.aon.up = true →
      exec .aonStatus s = .next (settle (aonRespond s 0x01 0x00
        (bytesOf [lccStateWord s, BitVec.ofNat 32 s.frs.resetCount, dryWord s]))) ∧
      (s.aon.deviceKey = none →
        exec (.aonFaultRecord nonce) s = .next (settle (aonRespond s 0x02 0x01 (s.frs.record ++ zeros 96 ++ zeros 3312)))) ∧
      exec .aonZeroize s = .next (settleAll (aonRespond (zeroizeNow s) 0x03 0x00 [])) ∧
      exec .aonPowerCycle s = .next (settle (aonRespond { s with aon := { s.aon with pwrCycleReq := true } } 0x04 0x00 [])) ∧
      (s.pwr.entry = none → s.pwr.waking = none → s.pwr.current ≠ 0 → s.pwr.entering = none →
        exec .aonWake s = .next (settleAll (let v := aonRespond s 0x05 0x00 []
          { v with pwr := { v.pwr with waking := some noSource, vidReq := some (vidCode s 0) } })))) ∧
    (∀ src, s.up = true → asleep s = true → mayWake s src = true → s.pwr.entry = none → s.pwr.waking = none → s.pwr.current ≠ 0 →
      s.pwr.entering = none →
      ∃ v, exec (.wake (some src)) s = .next (settleAll v) ∧ v.pwr.waking = some src ∧ v.pwr.vidReq = some (vidCode s 0) ∧
        v.bec.latched = mark s.bec.latched src true ∧ { v with pwr := s.pwr, bec := s.bec } = s) ∧
    (∀ v, s.up = true → s.pwr.vidReq = some v → s.pwr.entering = some n → s.pwr.waking = none →
      ∃ y, exec .vidAck s = .next (settleAll y) ∧ y.pwr.vid = v ∧ y.pwr.current = n ∧ y.pwr.last = n ∧ y.pwr.entering = none ∧
        y.pwr.vidReq = none) ∧
    (∀ celsius, exec (.temperatureThreshold celsius) s = .next (settle { s with pwr := { s.pwr with temp := celsius } })) ∧
    (beginOf s q 0x46 = some (c, u) → n = fld (wd c.words 8) 1 0 →
      (inDry u = true → exec (.powerState q) s = .next (ended settleAll q s.nextId .rejected 0x02 0 u)) ∧
      (inDry u = false → n = 0 → exec (.powerState q) s = .next (ended settleAll q s.nextId .ok 0 0 u)) ∧
      (inDry u = false → n = 3 → lcAdmits u maskPFS = false →
        exec (.powerState q) s = .next (ended settleAll q s.nextId .rejected 0x04 0 u)) ∧
      (inDry u = false → n = 1 ∨ n = 2 ∨ (n = 3 ∧ lcAdmits u maskPFS = true) → u.cfg.job.isSome = true →
        exec (.powerState q) s = .next (ended settleAll q s.nextId .rejected 0x03 0 u)) ∧
      (inDry u = false → n = 1 ∨ n = 2 → u.cfg.job = none →
        exec (.powerState q) s = .next (pends settleAll q s.nextId (.wakeUp n)
          { u with pwr := { u.pwr with entry := some { cmd := s.nextId, target := n, since := u.time } } })) ∧
      (∀ y, inDry u = false → n = 3 → lcAdmits u maskPFS = true → u.cfg.job = none → y = endGrant u →
        exec (.powerState q) s = .next (pends settleAll q s.nextId (.wakeUp n)
          { y with pwr := { y.pwr with entry := some { cmd := s.nextId, target := n, since := y.time } } }))) ∧
    (∃ v, exec .powerLoss s = .next (settle v) ∧ v.up = false ∧ v.aon.up = false ∧ v.mpes = [] ∧ v.ports = [] ∧
      (s.lcc.target = none → v.otp = s.otp) ∧ v.cfg.flash = s.cfg.flash ∧ v.pending = s.pending)

/-- What the block does while no command waits, which is the model's own choice (log entry 2): where the hub runs, a microsecond passes,
requests that a watch held go on, units under rung 1 are ready again, the cipher job under way ends, and the flash write in
progress takes its next step; where it does not, its time stands still. A late COMMAND response is sent and held messages are
handled. Nothing is taken from the queue of commands. -/
def Obligations.IdleStep : Prop :=
  ∀ s : State, s.pending = [] →
    step s = .next (settle (applyFences (serveMessages (commandLate (idle s))))) ∧
    (running s = true → idle s = settleAll (flashTick (endJob (endRung1 (releaseHolds (tick s))))) ∧ (tick s).time = s.time + 1) ∧
    (running s = false → idle s = tick s ∧ (tick s).time = s.time ∧ (tick s).sessions = s.sessions ∧ (tick s).hubMem = s.hubMem)

/-- The machine right after reset, before the always-on island starts: nothing runs, no session, queue, fence, region, bond or key
exists, memory lists nothing, and the values that the register tables give for reset hold. -/
def Obligations.ResetState : Prop :=
  State.reset.up = false ∧ State.reset.aon.up = false ∧ State.reset.pending = [] ∧ State.reset.fences = [] ∧
  State.reset.regions = [] ∧ State.reset.hubMem = [] ∧ State.reset.hpe.mem = [] ∧ State.reset.started = [] ∧
  (∀ n, (getSlot State.reset n).state = .empty) ∧ (∀ b, (getBond State.reset b).state = .free) ∧
  (∀ p, (getPort State.reset p).state = .disabled) ∧ (∀ k i, (getRes State.reset k i).state = .free) ∧
  (∀ n, (getCvu State.reset n).count = 0) ∧ State.reset.frs.due = [] ∧ State.reset.frs.dryDown = none ∧
  State.reset.bec.stack = [] ∧ State.reset.bec.frozen = false ∧ State.reset.pwr.current = 0

/-! ## Life cycle, debug and the configuration flash (chapters 2, 14) -/

/-- LC_TRANSITION by a plain transition that is allowed begins it and waits; the same one again while it runs is BUSY. LCC_PLAIN
begins the same for a world that may write it. An OTP word programmed lets the next begin, where neither a wait nor a comparison
follows; a decode that agrees with the state in force only updates the counts.
DEBUG_AUTH with a certificate that passes opens a DEBUG session whose handle it returns, and draws a new nonce; REVOKE by ROOT or HOST
and expiry end the grant, after which none is active; the DEBUG world's doorbell moves its queue's tail. -/
def Obligations.LifeCycleAndGrant : Prop :=
  ∀ (s u : State) (q target : Nat) (c : Started) (w : World) (v : Word),
    (beginOf s q 0x40 = some (c, u) → target = fld (wd c.words 8) 3 0 → wd2 c.words 9 = 0 → u.lcc.target = none →
      plainRefusal u target = none →
      exec (.lcTransition q) s = .next (pends settleAll q s.nextId .lifeCycle (beginPlain u target))) ∧
    (beginOf s q 0x40 = some (c, u) → target = fld (wd c.words 8) 3 0 → u.lcc.target = some target →
      exec (.lcTransition q) s = .next (ended settleAll q s.nextId .busy 0 0 u)) ∧
    (running s = true → s.lcc.target = none → plainWorld s w = true → plainRefusal s 5 = none →
      exec (.lccPlainProbeClosed w) s = .next (settleAll (lcBegin s 5 (transitionWords s 5 false [] []) []))) ∧
    (running s = true → s.lcc.target = none → plainWorld s w = true → plainRefusal s lcVoided = none →
      exec (.lccPlainVoid w) s = .next (settleAll (beginVoid s))) ∧
    (∀ x y rest, s.aon.up = true → s.lcc.target = some target → s.lcc.prog = x :: y :: rest → x ≠ .clearTenants → y ≠ .compare →
      exec .otpWordProgrammed s = .next (fabricSettle { programWord s x 0xFFFFFFFF with
        lcc := { (programWord s x 0xFFFFFFFF).lcc with prog := y :: rest } })) ∧
    (s.aon.up = true → s.lcc.target = none → (decodeOtp s.otp).state = s.lcc.state → s.lcc.state ≠ lcUnreadable →
      exec .lcDecode s = .next (settleAll (putDecode s (decodeOtp s.otp)))) ∧
    (∀ v b i j, beginOf s q 0x41 = some (c, u) → noEntropy u = false →
      spaceCheck (viaPf (sessionOf u c)) (some (defaultSpace (viaPf (sessionOf u c)))) (wd2 c.words 8).toNat 8512 = none →
      readSpace u (viaPf (sessionOf u c)) (defaultSpace (viaPf (sessionOf u c))) (wd2 c.words 8) 8512 = (v, some b) →
      certFailure v b = none → freeIndex v .session = some i → freeIndex v .queue = some j →
      exec (.debugAuth q) s = .next (ended settleAll q s.nextId .ok 0
        (handle (grantNow v (viaPf (sessionOf u c)).world b i j) ⟨.session, i⟩) (newNonce (grantNow v (viaPf (sessionOf u c)).world b i j)))) ∧
    (s.up = true → exec (.revoke .root) s = .next (settleAll (endGrant s)) ∧ exec (.revoke .host) s = .next (settleAll (endGrant s)) ∧
      exec (.revoke .tenant) s = .next (settleAll s)) ∧
    (running s = true → exec .grantExpiry s = .next (settleAll (endGrant s)) ∧ (endGrant s).dbg.grant = none) ∧
    (∀ g j, s.up = true → s.dbg.grant = some g → (queuesOf s g.session).head? = some j →
      exec (.debugDoorbell .debug v) s = .next (settle { s with queues := tupd s.queues j fun x => { x with tail := fld v 31 16 % 16 } })) ∧
    (s.up = true → w ≠ .debug ∨ s.dbg.grant = none → exec (.debugDoorbell w v) s = .next (settle s))

/-- GLOBAL_STOP under a STOP grant without a stop domain stops a running block, and without a grant ends REJECTED; a STOP flit of the
grant's domain, not seen before and with hops left, stops it too, and without a grant changes nothing. RESUME lets a stopped block go on,
SCAN destroys slots and key contexts, RESET takes it to block reset. A watch of the grant's tenant waits for its step. CONFIG_UPDATE
and TRIM_WRITE put a write of the slot not in use in progress and wait. -/
def Obligations.StopWatchAndConfig : Prop :=
  ∀ (s u : State) (q p : Nat) (c : Started) (g : Grant) (f : Bytes),
    (beginOf s q 0x42 = some (c, u) → u.dbg.grant = some g → g.levels.getLsbD levelStop = true → u.dbg.stop = .running →
      g.stopDomain = 0 →
      exec (.globalStop q) s = .next (ended settleAll q s.nextId .ok 0 0 { u with dbg := { u.dbg with stop := .stopped } })) ∧
    (beginOf s q 0x42 = some (c, u) → u.dbg.grant = none →
      exec (.globalStop q) s = .next (ended settleAll q s.nextId .rejected 0x05 0 u)) ∧
    (running s = true → portCarries s p = true → s.dbg.grant = some g → g.levels.getLsbD levelStop = true →
      g.stopDomain.toNat = leField f 16 4 → leField f 16 4 ≠ 0 → s.dbg.seen.contains (BitVec.ofNat 32 (leField f 20 4)) = false →
      leField f 24 1 < 15 →
      ∃ v, exec (.stopFlit p f) s = .next (fabricSettle v) ∧ v.dbg.stop = .stopped ∧
        v.dbg.seen = s.dbg.seen ++ [BitVec.ofNat 32 (leField f 20 4)] ∧ { v with dbg := s.dbg, ports := s.ports } = s) ∧
    (running s = true → portCarries s p = true → s.dbg.grant = none → exec (.stopFlit p f) s = .next (fabricSettle s)) ∧
    (holdsLevel s levelStop = true → s.dbg.stop = .stopped →
      exec .resume s = .next (settleAll { s with dbg := { s.dbg with stop := .running } }) ∧
      (∃ v, exec .scan s = .next (settle v) ∧ v.dbg.stop = .scanned ∧ v.slots = [] ∧ (∀ a, (getAccord v a).ctx = none)) ∧
      (∃ v, exec .stopCtrlReset s = .next (settle v) ∧ v = blockReset s [] ∧ v.up = false ∧ v.sessions = State.reset.sessions)) ∧
    (∀ a r, beginOf s q 0x43 = some (c, u) → u.dbg.grant = some g → g.levels.getLsbD levelWatch = true →
      watchRegion u c = some (a, r) → 2 ≤ a → gidOf u a = g.watchGid → watchFenceOk u a = true →
      exec (.tensorWatch q) s = .next (pends settleAll q s.nextId .watch { u with dbg := { u.dbg with chunks := 0 } })) ∧
    (∀ v x h b, beginOf s q 0x44 = some (c, u) → mayWriteSlot u (sessionOf u c) = true → u.cfg.job = none → usedSeq u ≠ 0xFFFFFFFE →
      spaceCheck (sessionOf u c) (some .hub) (wd2 c.words 8).toNat 64 = none →
      readSpace u (sessionOf u c) .hub (wd2 c.words 8) 64 = (v, some h) → 64 ≤ leField h 8 4 → leField h 8 4 ≤ slotSize →
      spaceCheck (sessionOf u c) (some .hub) (wd2 c.words 8).toNat (leField h 8 4) = none →
      readSpace v (sessionOf u c) .hub (wd2 c.words 8 + 64) (leField h 8 4 - 64) = (x, some b) →
      ∃ j, exec (.configUpdate q) s = .next (pends settleAll q s.nextId .configWrite { x with cfg := { x.cfg with job := some j } }) ∧
        j.slotB = !x.cfg.selected ∧ j.body = b ∧ j.header = withSeq h (usedSeq x + 1)) ∧
    (∀ v t, beginOf s q 0x45 = some (c, u) → u.cfg.job = none → (usedSeq u) < 0xFFFFFFFD →
      spaceCheck (sessionOf u c) (some .hub) (wd2 c.words 8).toNat 48 = none →
      readSpace u (sessionOf u c) .hub (wd2 c.words 8) 48 = (v, some t) →
      ∃ j, exec (.trimWrite q) s = .next (pends settleAll q s.nextId .configWrite { v with cfg := { v.cfg with job := some j } }) ∧
        j.slotB = !v.cfg.selected ∧ j.body = (withTrims v t).drop 64)

/-! ## Management and attestation (chapter 15) -/

/-- A management message that arrives in the bound session of a running hub with nothing held and no response outstanding is handled at
once: CPL_READ gives the oldest unread entries, up to 16; STAGE_WRITE and STAGE_READ reach the staging area, and RANGE
answers bytes outside it; REG_READ without a selection reads registers open to all; MODULE_REPORT gives an UP or UNIDENTIFIED port its
module; DBG_ACCESS writes through MGMT's aperture, and without MGMT's grant is NOT_PERMITTED; a COMMAND is the next slot of
queue 1, with its response outstanding. Outside the bound session COMMAND and STAGE_WRITE change nothing. MGMT_SESSION_END ends the
session, drops what it held, and keeps the unread entries. -/
def Obligations.ManagementMessages : Prop :=
  ∀ (s : State) (offset : BitVec 32) (d : Bytes) (len : BitVec 16) (ws : List Word),
    (running s = true → s.mgmt.sec = .bound → s.mgmt.held = [] → s.mgmt.awaits = none →
      exec .cplRead s = .next (settle (applyFences (fabricSettle (answerMgmt
        { s with mgmt := { s.mgmt with unread := s.mgmt.unread.drop 16 } } 0x00 ((s.mgmt.unread.take 16).flatMap bytesOf))))) ∧
      (inDry s = false → stagingFits offset.toNat d.length = true →
        exec (.stageWrite offset d) s = .next (settle (applyFences (fabricSettle (answerMgmt
          { s with hubMem := memWriteBytes s.hubMem 0 (0x80000000 + offset.toNat) d } 0x00 []))))) ∧
      (inDry s = false → stagingFits offset.toNat d.length = false →
        exec (.stageWrite offset d) s = .next (settle (applyFences (fabricSettle (answerMgmt s 0x02 []))))) ∧
      (inDry s = false → stagingFits offset.toNat len.toNat = true →
        exec (.stageRead offset len) s = .next (settle (applyFences (fabricSettle (answerMgmt s 0x00
          (memReadBytes s.hubMem 0 (0x80000000 + offset.toNat) len.toNat)))))) ∧
      (∀ first count v b, 1 ≤ count.toNat → count.toNat ≤ 16 → (List.range count.toNat).all (fun i => openReg (first.toNat + 4 * i)) = true →
        readRegs s first.toNat count.toNat = (v, b) →
        exec (.regRead 0 0 first count) s = .next (settle (applyFences (fabricSettle (answerMgmt v 0x00 b))))) ∧
      (∀ port : BitVec 8, d.length = 61 → port.toNat < 32 →
        (getPort s port.toNat).state = .unidentified ∨ (getPort s port.toNat).state = .up →
        exec (.moduleReport port d) s = .next (settle (applyFences (fabricSettle
          (answerMgmt (reportModule s port.toNat (moduleIdOf d)) 0x00 []))))) ∧
      (∀ v, mayAperture s .mgmt = false →
        exec (.dbgAccess offset true v) s = .next (settle (applyFences (fabricSettle (answerMgmt s 0x03 []))))) ∧
      (∀ v, mayAperture s .mgmt = true →
        exec (.dbgAccess offset true v) s = .next (settle (applyFences (fabricSettle (answerMgmt
          (apertureWrite { s with dbg := { s.dbg with winAddr := offset &&& 0x00FFFFFC } } v) 0x00 []))))) ∧
      (∀ x, inDry s = false → tget s.queues 1 = some x → s.mgmt.unread.length < 64 → (x.tail + 1) % 2 ^ x.log2 ≠ x.head →
        exec (.command ws) s = .next (settle (applyFences (fabricSettle
          { s with queues := tset s.queues 1 { x with slots := tset x.slots x.tail ((List.range 16).map (wd ws))
                                                      tail := (x.tail + 1) % 2 ^ x.log2 }
                   mgmt := { s.mgmt with awaits := some (x.tail, s.time) } }))))) ∧
    (s.mgmt.sec ≠ .bound → exec (.command ws) s = .next s ∧ exec (.stageWrite offset d) s = .next s) ∧
    (s.mgmt.sec ≠ .none → ∃ v, exec .mgmtSessionEnd s = .next (settle v) ∧ v.mgmt.sec = .none ∧ v.mgmt.held = [] ∧
      v.mgmt.unread = s.mgmt.unread ∧ v.queues = s.queues ∧ { v with mgmt := s.mgmt } = s)

/-- SPDM over PCIe or I3C: version 1.2 only; then capabilities and algorithms in order; then, in a life-cycle state that offers
everything, digests, certificate portions, signed answers, unsigned measurements, and the vendor requests of certificates and quotes;
digests before the negotiation are answered UnexpectedRequest. GET_PQ_SIGNATURE signs the exchange that is still pending. The message
framing is open in the model (log entry 24). -/
def Obligations.AttestationRequests : Prop :=
  ∀ (s v : State) (t : Transport) (nonce : BitVec 256) (gid : BitVec 32), running s = true → t = .pcie ∨ t = .i3c →
    v = clearPending s t →
    (exec (.getVersion t) s = .next (fabricSettle (reply (setSpdm s t { getSpdm s t with stage := 1, transcript := [], pending := none })
      t 0x84 [] 0x04 [0x00, 0x12]))) ∧
    (1 ≤ (getSpdm s t).stage → exec (.getCapabilities t) s = .next (fabricSettle
      (reply (setSpdm v t { getSpdm v t with stage := Nat.max 2 (getSpdm s t).stage }) t 0xE1 [] 0x61 (toLE (capabilityFlags t) 4)))) ∧
    (2 ≤ (getSpdm s t).stage → exec (.negotiateAlgorithms t) s = .next (fabricSettle
      (reply (setSpdm v t { getSpdm v t with stage := 3 }) t 0xE3 [] 0x63 (algorithmSelection t)))) ∧
    (fullOffer s = true → (getSpdm s t).stage < 3 →
      exec (.getDigests t) s = .next (fabricSettle (replyError v t errUnexpected))) ∧
    (fullOffer s = true → 3 ≤ (getSpdm s t).stage →
      exec (.getDigests t) s = .next (fabricSettle (reply v t 0x81 [] 0x01 ([0x01] ++ sha384 (slotChain v)))) ∧
      (∀ offset length : BitVec 16, offset.toNat < (slotChain v).length →
        ∃ n, n = Nat.min length.toNat ((slotChain v).length - offset.toNat) ∧
        exec (.getCertificate t 0 offset length) s = .next (fabricSettle
          (reply v t 0x82 (0 :: toLE offset.toNat 2 ++ toLE length.toNat 2) 0x02
            (0 :: toLE n 2 ++ toLE ((slotChain v).length - offset.toNat - n) 2 ++ bslice (slotChain v) offset.toNat n)))) ∧
      exec (.challenge t nonce) s = .next (fabricSettle (signedReply v t 0x83 (toLE nonce.toNat 32) 0x03 (sha384 (slotChain v)))) ∧
      (∀ index n b, blocksFor v index.toNat = some (n, b) →
        exec (.getMeasurements t index false nonce) s = .next (fabricSettle
          (reply v t 0xE0 [index, 0] 0x60 (toLE n 1 ++ toLE b.length 3 ++ b)))) ∧
      (s.mgmt.sec = .none → ∀ r,
        exec (.getPqChain t r) s = .next (fabricSettle (vendorReply v t 0x0001 [] ((slotLayers v).flatMap (layerPq v))))) ∧
      (∀ h, (getSpdm s t).pending = some h →
        exec (.getPqSignature t) s = .next (fabricSettle (vendorReply s t 0x0002 [] (signMl s (toBE h.toNat 48))))) ∧
      (∀ a, accordByGid v gid = some a →
        exec (.getAccordCert t gid) s = .next (fabricSettle (vendorReply v t 0x0003 (toLE gid.toNat 4) (accordCerts v a))) ∧
        exec (.accordQuote t gid nonce) s = .next (fabricSettle
          (vendorReply v t 0x0004 (toLE gid.toNat 4 ++ toLE nonce.toNat 32) (quote v a nonce)))))

/-- The secured session on I3C: KEY_EXCHANGE, where randomness can be drawn and no session exists, agrees a secret with a fresh key pair and
signs its answer; where one exists it is refused. FINISH that verifies establishes the session; HEARTBEAT is answered inside it, KEY_UPDATE of
the requester's keys counts them, and PQ_BIND that verifies under the key of the requester's PQ chain binds it; END_SESSION ends
it. The message framing is open in the model (log entry 24). -/
def Obligations.SecuredSession : Prop :=
  ∀ (s v w : State) (r chain secret seed : Bytes), running s = true → fullOffer s = true → 3 ≤ (getSpdm s .i3c).stage →
    v = clearPending s .i3c →
    (s.mgmt.sec = .none → noEntropy v = false → drawFresh v 56 = (w, seed) → Config.ecdhX seed (exchangeData r) = some secret →
      ∃ x, exec (.keyExchange .i3c r) s = .next (fabricSettle { x with mgmt := { x.mgmt with sec := .exchanged, dhe := secret } }) ∧
        x = clearPending (signedReply w .i3c 0xE4 r 0x64 (exchangeTerms ++ bslice (Config.ecdhPublic seed) 0 96)) .i3c) ∧
    (s.mgmt.sec ≠ .none → exec (.keyExchange .i3c r) s = .next (fabricSettle (replyError v .i3c errSessionLimit))) ∧
    (∀ root leaf h, s.mgmt.sec = .exchanged → h = Config.spdmHash 0xE5 ((getSpdm v .i3c).transcript ++ chain) →
      Config.certKeys chain = some (root, leaf) → Config.ecdsaVerify leaf (Config.spdmSigned 0xE5 h) (finishSignature r) = true →
      finishMac r = Config.spdmMac 0xE5 s.mgmt.dhe h →
      ∃ x, exec (.finish .i3c r chain) s = .next (fabricSettle x) ∧ x.mgmt.sec = .finished ∧ x.mgmt.reqRoot = root ∧
        x.mgmt.reqLeaf = leaf ∧ { x with mgmt := s.mgmt } = s) ∧
    (mgmtSession s = true →
      exec (.heartbeat .i3c) s = .next (fabricSettle (reply v .i3c 0xE8 [] 0x68 [])) ∧
      exec (.endSession .i3c) s = .next (fabricSettle (endMgmtSession (reply v .i3c 0xEC [] 0x6C []))) ∧
      (leField r 2 1 = 1 → ∃ x, exec (.keyUpdate .i3c r) s = .next (fabricSettle x) ∧ x.mgmt.reqKeys = s.mgmt.reqKeys + 1 ∧
        x.mgmt.rspKeys = s.mgmt.rspKeys ∧ { x with mgmt := s.mgmt } = s) ∧
      (s.mgmt.sec ≠ .finished → Config.mldsaVerify s.mgmt.reqMldsa (toBE s.mgmt.th2.toNat 48) (bslice r 0 3309) = true →
        exec (.pqBind .i3c r) s = .next (fabricSettle
          (vendorReply { v with mgmt := { v.mgmt with sec := .bound } } .i3c 0x0005 r
            (signMl v (toBE s.mgmt.th2.toNat 48))))))
end

