-- ==== Sys2Proof/Laws/Table.lean ====
section
/-! SUPPORT. Laws of the tables that State is made of: what is read after an entry is set or removed. -/

namespace Sys2Proof.Machine

@[simp] theorem tget_tset_self {α : Type} (t : Tab α) (k : Nat) (v : α) : tget (tset t k v) k = some v := by
  induction t with
  | nil => simp [tset, tget]
  | cons h r ih =>
    obtain ⟨j, w⟩ := h
    unfold tset
    split
    · simp [tget]
    · split
      · simp [tget]
      · rename_i h1 h2
        have : j ≠ k := fun e => h2 e.symm
        simp [tget, this, ih]

theorem tget_tset_ne {α : Type} (t : Tab α) (k j : Nat) (v : α) (h : j ≠ k) : tget (tset t k v) j = tget t j := by
  induction t with
  | nil => simp [tset, tget, h.symm]
  | cons e r ih =>
    obtain ⟨n, w⟩ := e
    unfold tset
    split
    · simp [tget, h.symm]
    · split
      · rename_i h1 h2; subst h2; simp [tget, h.symm]
      · simp only [tget]; split <;> simp_all

@[simp] theorem tget_tdel_self {α : Type} (t : Tab α) (k : Nat) : tget (tdel t k) k = none := by
  induction t with
  | nil => rfl
  | cons e r ih =>
    obtain ⟨n, w⟩ := e
    by_cases h : n = k
    · subst h; simpa [tdel] using ih
    · simpa [tdel, tget, h] using ih

theorem tget_tdel_ne {α : Type} (t : Tab α) (k j : Nat) (h : j ≠ k) : tget (tdel t k) j = tget t j := by
  induction t with
  | nil => rfl
  | cons e r ih =>
    obtain ⟨n, w⟩ := e
    by_cases hn : n = k
    · subst hn
      have : tget (tdel ((n, w) :: r) n) j = tget (tdel r n) j := by simp [tdel]
      rw [this, ih]; simp [tget, h.symm]
    · have : tdel ((n, w) :: r) k = (n, w) :: tdel r k := by simp [tdel, hn]
      rw [this]; simp only [tget, ih]

@[simp] theorem tgetD_tset_self {α : Type} (t : Tab α) (k : Nat) (v d : α) : tgetD (tset t k v) k d = v := by simp [tgetD]

theorem tgetD_tset_ne {α : Type} (t : Tab α) (k j : Nat) (v d : α) (h : j ≠ k) : tgetD (tset t k v) j d = tgetD t j d := by
  simp [tgetD, tget_tset_ne _ _ _ _ h]

/-- A free index found is within its range and holds nothing. -/
theorem tfree_some {α : Type} {t : Tab α} {lo hi k : Nat} (h : tfree t lo hi = some k) :
    lo ≤ k ∧ k < hi ∧ tget t k = none := by
  unfold tfree at h
  have hm := List.mem_of_find?_eq_some h
  have hp := List.find?_some h
  simp only [List.mem_map, List.mem_range] at hm
  obtain ⟨a, ha, rfl⟩ := hm
  exact ⟨by omega, by omega, by simpa using hp⟩

end Sys2Proof.Machine
end

