-- ==== Sys2Proof/Laws/State.lean ====
section
/-! SUPPORT. What each update of a part of State leaves alone: one lemma for each field, so that no proof unfolds a record
update; and what is read back from the part updated. -/

namespace Sys2Proof.Machine

/-! ### setMpe -/

@[simp] theorem setMpe_pending (s : State) (m : Nat) (x : Mpe) : (setMpe s m x).pending = s.pending := rfl
@[simp] theorem setMpe_up (s : State) (m : Nat) (x : Mpe) : (setMpe s m x).up = s.up := rfl
@[simp] theorem setMpe_time (s : State) (m : Nat) (x : Mpe) : (setMpe s m x).time = s.time := rfl
@[simp] theorem setMpe_draws (s : State) (m : Nat) (x : Mpe) : (setMpe s m x).draws = s.draws := rfl
@[simp] theorem setMpe_stamp (s : State) (m : Nat) (x : Mpe) : (setMpe s m x).stamp = s.stamp := rfl
@[simp] theorem setMpe_chipId (s : State) (m : Nat) (x : Mpe) : (setMpe s m x).chipId = s.chipId := rfl
@[simp] theorem setMpe_stepping (s : State) (m : Nat) (x : Mpe) : (setMpe s m x).stepping = s.stepping := rfl
@[simp] theorem setMpe_fwVersion (s : State) (m : Nat) (x : Mpe) : (setMpe s m x).fwVersion = s.fwVersion := rfl
@[simp] theorem setMpe_fwWritten (s : State) (m : Nat) (x : Mpe) : (setMpe s m x).fwWritten = s.fwWritten := rfl
@[simp] theorem setMpe_unitOk0 (s : State) (m : Nat) (x : Mpe) : (setMpe s m x).unitOk0 = s.unitOk0 := rfl
@[simp] theorem setMpe_unitOk1 (s : State) (m : Nat) (x : Mpe) : (setMpe s m x).unitOk1 = s.unitOk1 := rfl
@[simp] theorem setMpe_scrubRate (s : State) (m : Nat) (x : Mpe) : (setMpe s m x).scrubRate = s.scrubRate := rfl
@[simp] theorem setMpe_foreignDb (s : State) (m : Nat) (x : Mpe) : (setMpe s m x).foreignDb = s.foreignDb := rfl
@[simp] theorem setMpe_linksDown (s : State) (m : Nat) (x : Mpe) : (setMpe s m x).linksDown = s.linksDown := rfl
@[simp] theorem setMpe_linkTries (s : State) (m : Nat) (x : Mpe) : (setMpe s m x).linkTries = s.linkTries := rfl
@[simp] theorem setMpe_sels (s : State) (m : Nat) (x : Mpe) : (setMpe s m x).sels = s.sels := rfl
@[simp] theorem setMpe_caps (s : State) (m : Nat) (x : Mpe) : (setMpe s m x).caps = s.caps := rfl
@[simp] theorem setMpe_gens (s : State) (m : Nat) (x : Mpe) : (setMpe s m x).gens = s.gens := rfl
@[simp] theorem setMpe_sessions (s : State) (m : Nat) (x : Mpe) : (setMpe s m x).sessions = s.sessions := rfl
@[simp] theorem setMpe_queues (s : State) (m : Nat) (x : Mpe) : (setMpe s m x).queues = s.queues := rfl
@[simp] theorem setMpe_fences (s : State) (m : Nat) (x : Mpe) : (setMpe s m x).fences = s.fences := rfl
@[simp] theorem setMpe_regions (s : State) (m : Nat) (x : Mpe) : (setMpe s m x).regions = s.regions := rfl
@[simp] theorem setMpe_bonds (s : State) (m : Nat) (x : Mpe) : (setMpe s m x).bonds = s.bonds := rfl
@[simp] theorem setMpe_keyObjs (s : State) (m : Nat) (x : Mpe) : (setMpe s m x).keyObjs = s.keyObjs := rfl
@[simp] theorem setMpe_started (s : State) (m : Nat) (x : Mpe) : (setMpe s m x).started = s.started := rfl
@[simp] theorem setMpe_nextId (s : State) (m : Nat) (x : Mpe) : (setMpe s m x).nextId = s.nextId := rfl
@[simp] theorem setMpe_accords (s : State) (m : Nat) (x : Mpe) : (setMpe s m x).accords = s.accords := rfl
@[simp] theorem setMpe_flaconSeq (s : State) (m : Nat) (x : Mpe) : (setMpe s m x).flaconSeq = s.flaconSeq := rfl
@[simp] theorem setMpe_channels (s : State) (m : Nat) (x : Mpe) : (setMpe s m x).channels = s.channels := rfl
@[simp] theorem setMpe_portRes (s : State) (m : Nat) (x : Mpe) : (setMpe s m x).portRes = s.portRes := rfl
@[simp] theorem setMpe_groups (s : State) (m : Nat) (x : Mpe) : (setMpe s m x).groups = s.groups := rfl
@[simp] theorem setMpe_slots (s : State) (m : Nat) (x : Mpe) : (setMpe s m x).slots = s.slots := rfl
@[simp] theorem setMpe_rootsLoaded (s : State) (m : Nat) (x : Mpe) : (setMpe s m x).rootsLoaded = s.rootsLoaded := rfl
@[simp] theorem setMpe_drbgReady (s : State) (m : Nat) (x : Mpe) : (setMpe s m x).drbgReady = s.drbgReady := rfl
@[simp] theorem setMpe_entropyFail (s : State) (m : Nat) (x : Mpe) : (setMpe s m x).entropyFail = s.entropyFail := rfl
@[simp] theorem setMpe_drbgRequests (s : State) (m : Nat) (x : Mpe) : (setMpe s m x).drbgRequests = s.drbgRequests := rfl
@[simp] theorem setMpe_fills (s : State) (m : Nat) (x : Mpe) : (setMpe s m x).fills = s.fills := rfl
@[simp] theorem setMpe_spills (s : State) (m : Nat) (x : Mpe) : (setMpe s m x).spills = s.spills := rfl
@[simp] theorem setMpe_cores (s : State) (m : Nat) (x : Mpe) : (setMpe s m x).cores = s.cores := rfl
@[simp] theorem setMpe_responses (s : State) (m : Nat) (x : Mpe) : (setMpe s m x).responses = s.responses := rfl
@[simp] theorem setMpe_ports (s : State) (m : Nat) (x : Mpe) : (setMpe s m x).ports = s.ports := rfl
@[simp] theorem setMpe_otus (s : State) (m : Nat) (x : Mpe) : (setMpe s m x).otus = s.otus := rfl
@[simp] theorem setMpe_extents (s : State) (m : Nat) (x : Mpe) : (setMpe s m x).extents = s.extents := rfl
@[simp] theorem setMpe_mailboxRoot (s : State) (m : Nat) (x : Mpe) : (setMpe s m x).mailboxRoot = s.mailboxRoot := rfl
@[simp] theorem setMpe_mailboxHost (s : State) (m : Nat) (x : Mpe) : (setMpe s m x).mailboxHost = s.mailboxHost := rfl
@[simp] theorem setMpe_invalidations (s : State) (m : Nat) (x : Mpe) : (setMpe s m x).invalidations = s.invalidations := rfl
@[simp] theorem setMpe_hpe (s : State) (m : Nat) (x : Mpe) : (setMpe s m x).hpe = s.hpe := rfl
@[simp] theorem setMpe_hubMem (s : State) (m : Nat) (x : Mpe) : (setMpe s m x).hubMem = s.hubMem := rfl
@[simp] theorem setMpe_gce (s : State) (m : Nat) (x : Mpe) : (setMpe s m x).gce = s.gce := rfl
@[simp] theorem setMpe_cvus (s : State) (m : Nat) (x : Mpe) : (setMpe s m x).cvus = s.cvus := rfl
@[simp] theorem setMpe_otp (s : State) (m : Nat) (x : Mpe) : (setMpe s m x).otp = s.otp := rfl
@[simp] theorem setMpe_lcc (s : State) (m : Nat) (x : Mpe) : (setMpe s m x).lcc = s.lcc := rfl
@[simp] theorem setMpe_dbg (s : State) (m : Nat) (x : Mpe) : (setMpe s m x).dbg = s.dbg := rfl
@[simp] theorem setMpe_frs (s : State) (m : Nat) (x : Mpe) : (setMpe s m x).frs = s.frs := rfl
@[simp] theorem setMpe_bec (s : State) (m : Nat) (x : Mpe) : (setMpe s m x).bec = s.bec := rfl
@[simp] theorem setMpe_pwr (s : State) (m : Nat) (x : Mpe) : (setMpe s m x).pwr = s.pwr := rfl
@[simp] theorem setMpe_bist (s : State) (m : Nat) (x : Mpe) : (setMpe s m x).bist = s.bist := rfl
@[simp] theorem setMpe_cfg (s : State) (m : Nat) (x : Mpe) : (setMpe s m x).cfg = s.cfg := rfl
@[simp] theorem setMpe_mgmt (s : State) (m : Nat) (x : Mpe) : (setMpe s m x).mgmt = s.mgmt := rfl
@[simp] theorem setMpe_aon (s : State) (m : Nat) (x : Mpe) : (setMpe s m x).aon = s.aon := rfl
@[simp] theorem setMpe_fenceReady (s : State) (m : Nat) (x : Mpe) : (setMpe s m x).fenceReady = s.fenceReady := rfl
@[simp] theorem setMpe_fenceTurn (s : State) (m : Nat) (x : Mpe) : (setMpe s m x).fenceTurn = s.fenceTurn := rfl
@[simp] theorem setMpe_queueTurn (s : State) (m : Nat) (x : Mpe) : (setMpe s m x).queueTurn = s.queueTurn := rfl
@[simp] theorem setMpe_drbgSince (s : State) (m : Nat) (x : Mpe) : (setMpe s m x).drbgSince = s.drbgSince := rfl
@[simp] theorem setMpe_drbgKey (s : State) (m : Nat) (x : Mpe) : (setMpe s m x).drbgKey = s.drbgKey := rfl
@[simp] theorem setMpe_drbgV (s : State) (m : Nat) (x : Mpe) : (setMpe s m x).drbgV = s.drbgV := rfl
@[simp] theorem setMpe_mpeKeys (s : State) (m : Nat) (x : Mpe) : (setMpe s m x).mpeKeys = s.mpeKeys := rfl
@[simp] theorem setMpe_shortfalls (s : State) (m : Nat) (x : Mpe) : (setMpe s m x).shortfalls = s.shortfalls := rfl

/-! ### updMpe -/

@[simp] theorem updMpe_pending (s : State) (m : Nat) (f : Mpe → Mpe) : (updMpe s m f).pending = s.pending := rfl
@[simp] theorem updMpe_up (s : State) (m : Nat) (f : Mpe → Mpe) : (updMpe s m f).up = s.up := rfl
@[simp] theorem updMpe_time (s : State) (m : Nat) (f : Mpe → Mpe) : (updMpe s m f).time = s.time := rfl
@[simp] theorem updMpe_draws (s : State) (m : Nat) (f : Mpe → Mpe) : (updMpe s m f).draws = s.draws := rfl
@[simp] theorem updMpe_stamp (s : State) (m : Nat) (f : Mpe → Mpe) : (updMpe s m f).stamp = s.stamp := rfl
@[simp] theorem updMpe_chipId (s : State) (m : Nat) (f : Mpe → Mpe) : (updMpe s m f).chipId = s.chipId := rfl
@[simp] theorem updMpe_stepping (s : State) (m : Nat) (f : Mpe → Mpe) : (updMpe s m f).stepping = s.stepping := rfl
@[simp] theorem updMpe_fwVersion (s : State) (m : Nat) (f : Mpe → Mpe) : (updMpe s m f).fwVersion = s.fwVersion := rfl
@[simp] theorem updMpe_fwWritten (s : State) (m : Nat) (f : Mpe → Mpe) : (updMpe s m f).fwWritten = s.fwWritten := rfl
@[simp] theorem updMpe_unitOk0 (s : State) (m : Nat) (f : Mpe → Mpe) : (updMpe s m f).unitOk0 = s.unitOk0 := rfl
@[simp] theorem updMpe_unitOk1 (s : State) (m : Nat) (f : Mpe → Mpe) : (updMpe s m f).unitOk1 = s.unitOk1 := rfl
@[simp] theorem updMpe_scrubRate (s : State) (m : Nat) (f : Mpe → Mpe) : (updMpe s m f).scrubRate = s.scrubRate := rfl
@[simp] theorem updMpe_foreignDb (s : State) (m : Nat) (f : Mpe → Mpe) : (updMpe s m f).foreignDb = s.foreignDb := rfl
@[simp] theorem updMpe_linksDown (s : State) (m : Nat) (f : Mpe → Mpe) : (updMpe s m f).linksDown = s.linksDown := rfl
@[simp] theorem updMpe_linkTries (s : State) (m : Nat) (f : Mpe → Mpe) : (updMpe s m f).linkTries = s.linkTries := rfl
@[simp] theorem updMpe_sels (s : State) (m : Nat) (f : Mpe → Mpe) : (updMpe s m f).sels = s.sels := rfl
@[simp] theorem updMpe_caps (s : State) (m : Nat) (f : Mpe → Mpe) : (updMpe s m f).caps = s.caps := rfl
@[simp] theorem updMpe_gens (s : State) (m : Nat) (f : Mpe → Mpe) : (updMpe s m f).gens = s.gens := rfl
@[simp] theorem updMpe_sessions (s : State) (m : Nat) (f : Mpe → Mpe) : (updMpe s m f).sessions = s.sessions := rfl
@[simp] theorem updMpe_queues (s : State) (m : Nat) (f : Mpe → Mpe) : (updMpe s m f).queues = s.queues := rfl
@[simp] theorem updMpe_fences (s : State) (m : Nat) (f : Mpe → Mpe) : (updMpe s m f).fences = s.fences := rfl
@[simp] theorem updMpe_regions (s : State) (m : Nat) (f : Mpe → Mpe) : (updMpe s m f).regions = s.regions := rfl
@[simp] theorem updMpe_bonds (s : State) (m : Nat) (f : Mpe → Mpe) : (updMpe s m f).bonds = s.bonds := rfl
@[simp] theorem updMpe_keyObjs (s : State) (m : Nat) (f : Mpe → Mpe) : (updMpe s m f).keyObjs = s.keyObjs := rfl
@[simp] theorem updMpe_started (s : State) (m : Nat) (f : Mpe → Mpe) : (updMpe s m f).started = s.started := rfl
@[simp] theorem updMpe_nextId (s : State) (m : Nat) (f : Mpe → Mpe) : (updMpe s m f).nextId = s.nextId := rfl
@[simp] theorem updMpe_accords (s : State) (m : Nat) (f : Mpe → Mpe) : (updMpe s m f).accords = s.accords := rfl
@[simp] theorem updMpe_flaconSeq (s : State) (m : Nat) (f : Mpe → Mpe) : (updMpe s m f).flaconSeq = s.flaconSeq := rfl
@[simp] theorem updMpe_channels (s : State) (m : Nat) (f : Mpe → Mpe) : (updMpe s m f).channels = s.channels := rfl
@[simp] theorem updMpe_portRes (s : State) (m : Nat) (f : Mpe → Mpe) : (updMpe s m f).portRes = s.portRes := rfl
@[simp] theorem updMpe_groups (s : State) (m : Nat) (f : Mpe → Mpe) : (updMpe s m f).groups = s.groups := rfl
@[simp] theorem updMpe_slots (s : State) (m : Nat) (f : Mpe → Mpe) : (updMpe s m f).slots = s.slots := rfl
@[simp] theorem updMpe_rootsLoaded (s : State) (m : Nat) (f : Mpe → Mpe) : (updMpe s m f).rootsLoaded = s.rootsLoaded := rfl
@[simp] theorem updMpe_drbgReady (s : State) (m : Nat) (f : Mpe → Mpe) : (updMpe s m f).drbgReady = s.drbgReady := rfl
@[simp] theorem updMpe_entropyFail (s : State) (m : Nat) (f : Mpe → Mpe) : (updMpe s m f).entropyFail = s.entropyFail := rfl
@[simp] theorem updMpe_drbgRequests (s : State) (m : Nat) (f : Mpe → Mpe) : (updMpe s m f).drbgRequests = s.drbgRequests := rfl
@[simp] theorem updMpe_fills (s : State) (m : Nat) (f : Mpe → Mpe) : (updMpe s m f).fills = s.fills := rfl
@[simp] theorem updMpe_spills (s : State) (m : Nat) (f : Mpe → Mpe) : (updMpe s m f).spills = s.spills := rfl
@[simp] theorem updMpe_cores (s : State) (m : Nat) (f : Mpe → Mpe) : (updMpe s m f).cores = s.cores := rfl
@[simp] theorem updMpe_responses (s : State) (m : Nat) (f : Mpe → Mpe) : (updMpe s m f).responses = s.responses := rfl
@[simp] theorem updMpe_ports (s : State) (m : Nat) (f : Mpe → Mpe) : (updMpe s m f).ports = s.ports := rfl
@[simp] theorem updMpe_otus (s : State) (m : Nat) (f : Mpe → Mpe) : (updMpe s m f).otus = s.otus := rfl
@[simp] theorem updMpe_extents (s : State) (m : Nat) (f : Mpe → Mpe) : (updMpe s m f).extents = s.extents := rfl
@[simp] theorem updMpe_mailboxRoot (s : State) (m : Nat) (f : Mpe → Mpe) : (updMpe s m f).mailboxRoot = s.mailboxRoot := rfl
@[simp] theorem updMpe_mailboxHost (s : State) (m : Nat) (f : Mpe → Mpe) : (updMpe s m f).mailboxHost = s.mailboxHost := rfl
@[simp] theorem updMpe_invalidations (s : State) (m : Nat) (f : Mpe → Mpe) : (updMpe s m f).invalidations = s.invalidations := rfl
@[simp] theorem updMpe_hpe (s : State) (m : Nat) (f : Mpe → Mpe) : (updMpe s m f).hpe = s.hpe := rfl
@[simp] theorem updMpe_hubMem (s : State) (m : Nat) (f : Mpe → Mpe) : (updMpe s m f).hubMem = s.hubMem := rfl
@[simp] theorem updMpe_gce (s : State) (m : Nat) (f : Mpe → Mpe) : (updMpe s m f).gce = s.gce := rfl
@[simp] theorem updMpe_cvus (s : State) (m : Nat) (f : Mpe → Mpe) : (updMpe s m f).cvus = s.cvus := rfl
@[simp] theorem updMpe_otp (s : State) (m : Nat) (f : Mpe → Mpe) : (updMpe s m f).otp = s.otp := rfl
@[simp] theorem updMpe_lcc (s : State) (m : Nat) (f : Mpe → Mpe) : (updMpe s m f).lcc = s.lcc := rfl
@[simp] theorem updMpe_dbg (s : State) (m : Nat) (f : Mpe → Mpe) : (updMpe s m f).dbg = s.dbg := rfl
@[simp] theorem updMpe_frs (s : State) (m : Nat) (f : Mpe → Mpe) : (updMpe s m f).frs = s.frs := rfl
@[simp] theorem updMpe_bec (s : State) (m : Nat) (f : Mpe → Mpe) : (updMpe s m f).bec = s.bec := rfl
@[simp] theorem updMpe_pwr (s : State) (m : Nat) (f : Mpe → Mpe) : (updMpe s m f).pwr = s.pwr := rfl
@[simp] theorem updMpe_bist (s : State) (m : Nat) (f : Mpe → Mpe) : (updMpe s m f).bist = s.bist := rfl
@[simp] theorem updMpe_cfg (s : State) (m : Nat) (f : Mpe → Mpe) : (updMpe s m f).cfg = s.cfg := rfl
@[simp] theorem updMpe_mgmt (s : State) (m : Nat) (f : Mpe → Mpe) : (updMpe s m f).mgmt = s.mgmt := rfl
@[simp] theorem updMpe_aon (s : State) (m : Nat) (f : Mpe → Mpe) : (updMpe s m f).aon = s.aon := rfl
@[simp] theorem updMpe_fenceReady (s : State) (m : Nat) (f : Mpe → Mpe) : (updMpe s m f).fenceReady = s.fenceReady := rfl
@[simp] theorem updMpe_fenceTurn (s : State) (m : Nat) (f : Mpe → Mpe) : (updMpe s m f).fenceTurn = s.fenceTurn := rfl
@[simp] theorem updMpe_queueTurn (s : State) (m : Nat) (f : Mpe → Mpe) : (updMpe s m f).queueTurn = s.queueTurn := rfl
@[simp] theorem updMpe_drbgSince (s : State) (m : Nat) (f : Mpe → Mpe) : (updMpe s m f).drbgSince = s.drbgSince := rfl
@[simp] theorem updMpe_drbgKey (s : State) (m : Nat) (f : Mpe → Mpe) : (updMpe s m f).drbgKey = s.drbgKey := rfl
@[simp] theorem updMpe_drbgV (s : State) (m : Nat) (f : Mpe → Mpe) : (updMpe s m f).drbgV = s.drbgV := rfl
@[simp] theorem updMpe_mpeKeys (s : State) (m : Nat) (f : Mpe → Mpe) : (updMpe s m f).mpeKeys = s.mpeKeys := rfl
@[simp] theorem updMpe_shortfalls (s : State) (m : Nat) (f : Mpe → Mpe) : (updMpe s m f).shortfalls = s.shortfalls := rfl

/-! ### setPort -/

@[simp] theorem setPort_pending (s : State) (p : Nat) (x : Port) : (setPort s p x).pending = s.pending := rfl
@[simp] theorem setPort_up (s : State) (p : Nat) (x : Port) : (setPort s p x).up = s.up := rfl
@[simp] theorem setPort_time (s : State) (p : Nat) (x : Port) : (setPort s p x).time = s.time := rfl
@[simp] theorem setPort_draws (s : State) (p : Nat) (x : Port) : (setPort s p x).draws = s.draws := rfl
@[simp] theorem setPort_stamp (s : State) (p : Nat) (x : Port) : (setPort s p x).stamp = s.stamp := rfl
@[simp] theorem setPort_chipId (s : State) (p : Nat) (x : Port) : (setPort s p x).chipId = s.chipId := rfl
@[simp] theorem setPort_stepping (s : State) (p : Nat) (x : Port) : (setPort s p x).stepping = s.stepping := rfl
@[simp] theorem setPort_fwVersion (s : State) (p : Nat) (x : Port) : (setPort s p x).fwVersion = s.fwVersion := rfl
@[simp] theorem setPort_fwWritten (s : State) (p : Nat) (x : Port) : (setPort s p x).fwWritten = s.fwWritten := rfl
@[simp] theorem setPort_unitOk0 (s : State) (p : Nat) (x : Port) : (setPort s p x).unitOk0 = s.unitOk0 := rfl
@[simp] theorem setPort_unitOk1 (s : State) (p : Nat) (x : Port) : (setPort s p x).unitOk1 = s.unitOk1 := rfl
@[simp] theorem setPort_scrubRate (s : State) (p : Nat) (x : Port) : (setPort s p x).scrubRate = s.scrubRate := rfl
@[simp] theorem setPort_foreignDb (s : State) (p : Nat) (x : Port) : (setPort s p x).foreignDb = s.foreignDb := rfl
@[simp] theorem setPort_linksDown (s : State) (p : Nat) (x : Port) : (setPort s p x).linksDown = s.linksDown := rfl
@[simp] theorem setPort_linkTries (s : State) (p : Nat) (x : Port) : (setPort s p x).linkTries = s.linkTries := rfl
@[simp] theorem setPort_sels (s : State) (p : Nat) (x : Port) : (setPort s p x).sels = s.sels := rfl
@[simp] theorem setPort_caps (s : State) (p : Nat) (x : Port) : (setPort s p x).caps = s.caps := rfl
@[simp] theorem setPort_gens (s : State) (p : Nat) (x : Port) : (setPort s p x).gens = s.gens := rfl
@[simp] theorem setPort_sessions (s : State) (p : Nat) (x : Port) : (setPort s p x).sessions = s.sessions := rfl
@[simp] theorem setPort_queues (s : State) (p : Nat) (x : Port) : (setPort s p x).queues = s.queues := rfl
@[simp] theorem setPort_fences (s : State) (p : Nat) (x : Port) : (setPort s p x).fences = s.fences := rfl
@[simp] theorem setPort_regions (s : State) (p : Nat) (x : Port) : (setPort s p x).regions = s.regions := rfl
@[simp] theorem setPort_bonds (s : State) (p : Nat) (x : Port) : (setPort s p x).bonds = s.bonds := rfl
@[simp] theorem setPort_keyObjs (s : State) (p : Nat) (x : Port) : (setPort s p x).keyObjs = s.keyObjs := rfl
@[simp] theorem setPort_started (s : State) (p : Nat) (x : Port) : (setPort s p x).started = s.started := rfl
@[simp] theorem setPort_nextId (s : State) (p : Nat) (x : Port) : (setPort s p x).nextId = s.nextId := rfl
@[simp] theorem setPort_accords (s : State) (p : Nat) (x : Port) : (setPort s p x).accords = s.accords := rfl
@[simp] theorem setPort_flaconSeq (s : State) (p : Nat) (x : Port) : (setPort s p x).flaconSeq = s.flaconSeq := rfl
@[simp] theorem setPort_channels (s : State) (p : Nat) (x : Port) : (setPort s p x).channels = s.channels := rfl
@[simp] theorem setPort_portRes (s : State) (p : Nat) (x : Port) : (setPort s p x).portRes = s.portRes := rfl
@[simp] theorem setPort_groups (s : State) (p : Nat) (x : Port) : (setPort s p x).groups = s.groups := rfl
@[simp] theorem setPort_slots (s : State) (p : Nat) (x : Port) : (setPort s p x).slots = s.slots := rfl
@[simp] theorem setPort_rootsLoaded (s : State) (p : Nat) (x : Port) : (setPort s p x).rootsLoaded = s.rootsLoaded := rfl
@[simp] theorem setPort_drbgReady (s : State) (p : Nat) (x : Port) : (setPort s p x).drbgReady = s.drbgReady := rfl
@[simp] theorem setPort_entropyFail (s : State) (p : Nat) (x : Port) : (setPort s p x).entropyFail = s.entropyFail := rfl
@[simp] theorem setPort_drbgRequests (s : State) (p : Nat) (x : Port) : (setPort s p x).drbgRequests = s.drbgRequests := rfl
@[simp] theorem setPort_fills (s : State) (p : Nat) (x : Port) : (setPort s p x).fills = s.fills := rfl
@[simp] theorem setPort_spills (s : State) (p : Nat) (x : Port) : (setPort s p x).spills = s.spills := rfl
@[simp] theorem setPort_mpes (s : State) (p : Nat) (x : Port) : (setPort s p x).mpes = s.mpes := rfl
@[simp] theorem setPort_cores (s : State) (p : Nat) (x : Port) : (setPort s p x).cores = s.cores := rfl
@[simp] theorem setPort_responses (s : State) (p : Nat) (x : Port) : (setPort s p x).responses = s.responses := rfl
@[simp] theorem setPort_otus (s : State) (p : Nat) (x : Port) : (setPort s p x).otus = s.otus := rfl
@[simp] theorem setPort_extents (s : State) (p : Nat) (x : Port) : (setPort s p x).extents = s.extents := rfl
@[simp] theorem setPort_mailboxRoot (s : State) (p : Nat) (x : Port) : (setPort s p x).mailboxRoot = s.mailboxRoot := rfl
@[simp] theorem setPort_mailboxHost (s : State) (p : Nat) (x : Port) : (setPort s p x).mailboxHost = s.mailboxHost := rfl
@[simp] theorem setPort_invalidations (s : State) (p : Nat) (x : Port) : (setPort s p x).invalidations = s.invalidations := rfl
@[simp] theorem setPort_hpe (s : State) (p : Nat) (x : Port) : (setPort s p x).hpe = s.hpe := rfl
@[simp] theorem setPort_hubMem (s : State) (p : Nat) (x : Port) : (setPort s p x).hubMem = s.hubMem := rfl
@[simp] theorem setPort_gce (s : State) (p : Nat) (x : Port) : (setPort s p x).gce = s.gce := rfl
@[simp] theorem setPort_cvus (s : State) (p : Nat) (x : Port) : (setPort s p x).cvus = s.cvus := rfl
@[simp] theorem setPort_otp (s : State) (p : Nat) (x : Port) : (setPort s p x).otp = s.otp := rfl
@[simp] theorem setPort_lcc (s : State) (p : Nat) (x : Port) : (setPort s p x).lcc = s.lcc := rfl
@[simp] theorem setPort_dbg (s : State) (p : Nat) (x : Port) : (setPort s p x).dbg = s.dbg := rfl
@[simp] theorem setPort_frs (s : State) (p : Nat) (x : Port) : (setPort s p x).frs = s.frs := rfl
@[simp] theorem setPort_bec (s : State) (p : Nat) (x : Port) : (setPort s p x).bec = s.bec := rfl
@[simp] theorem setPort_pwr (s : State) (p : Nat) (x : Port) : (setPort s p x).pwr = s.pwr := rfl
@[simp] theorem setPort_bist (s : State) (p : Nat) (x : Port) : (setPort s p x).bist = s.bist := rfl
@[simp] theorem setPort_cfg (s : State) (p : Nat) (x : Port) : (setPort s p x).cfg = s.cfg := rfl
@[simp] theorem setPort_mgmt (s : State) (p : Nat) (x : Port) : (setPort s p x).mgmt = s.mgmt := rfl
@[simp] theorem setPort_aon (s : State) (p : Nat) (x : Port) : (setPort s p x).aon = s.aon := rfl
@[simp] theorem setPort_fenceReady (s : State) (p : Nat) (x : Port) : (setPort s p x).fenceReady = s.fenceReady := rfl
@[simp] theorem setPort_fenceTurn (s : State) (p : Nat) (x : Port) : (setPort s p x).fenceTurn = s.fenceTurn := rfl
@[simp] theorem setPort_queueTurn (s : State) (p : Nat) (x : Port) : (setPort s p x).queueTurn = s.queueTurn := rfl
@[simp] theorem setPort_drbgSince (s : State) (p : Nat) (x : Port) : (setPort s p x).drbgSince = s.drbgSince := rfl
@[simp] theorem setPort_drbgKey (s : State) (p : Nat) (x : Port) : (setPort s p x).drbgKey = s.drbgKey := rfl
@[simp] theorem setPort_drbgV (s : State) (p : Nat) (x : Port) : (setPort s p x).drbgV = s.drbgV := rfl
@[simp] theorem setPort_mpeKeys (s : State) (p : Nat) (x : Port) : (setPort s p x).mpeKeys = s.mpeKeys := rfl
@[simp] theorem setPort_shortfalls (s : State) (p : Nat) (x : Port) : (setPort s p x).shortfalls = s.shortfalls := rfl

/-! ### updPort -/

@[simp] theorem updPort_pending (s : State) (p : Nat) (f : Port → Port) : (updPort s p f).pending = s.pending := rfl
@[simp] theorem updPort_up (s : State) (p : Nat) (f : Port → Port) : (updPort s p f).up = s.up := rfl
@[simp] theorem updPort_time (s : State) (p : Nat) (f : Port → Port) : (updPort s p f).time = s.time := rfl
@[simp] theorem updPort_draws (s : State) (p : Nat) (f : Port → Port) : (updPort s p f).draws = s.draws := rfl
@[simp] theorem updPort_stamp (s : State) (p : Nat) (f : Port → Port) : (updPort s p f).stamp = s.stamp := rfl
@[simp] theorem updPort_chipId (s : State) (p : Nat) (f : Port → Port) : (updPort s p f).chipId = s.chipId := rfl
@[simp] theorem updPort_stepping (s : State) (p : Nat) (f : Port → Port) : (updPort s p f).stepping = s.stepping := rfl
@[simp] theorem updPort_fwVersion (s : State) (p : Nat) (f : Port → Port) : (updPort s p f).fwVersion = s.fwVersion := rfl
@[simp] theorem updPort_fwWritten (s : State) (p : Nat) (f : Port → Port) : (updPort s p f).fwWritten = s.fwWritten := rfl
@[simp] theorem updPort_unitOk0 (s : State) (p : Nat) (f : Port → Port) : (updPort s p f).unitOk0 = s.unitOk0 := rfl
@[simp] theorem updPort_unitOk1 (s : State) (p : Nat) (f : Port → Port) : (updPort s p f).unitOk1 = s.unitOk1 := rfl
@[simp] theorem updPort_scrubRate (s : State) (p : Nat) (f : Port → Port) : (updPort s p f).scrubRate = s.scrubRate := rfl
@[simp] theorem updPort_foreignDb (s : State) (p : Nat) (f : Port → Port) : (updPort s p f).foreignDb = s.foreignDb := rfl
@[simp] theorem updPort_linksDown (s : State) (p : Nat) (f : Port → Port) : (updPort s p f).linksDown = s.linksDown := rfl
@[simp] theorem updPort_linkTries (s : State) (p : Nat) (f : Port → Port) : (updPort s p f).linkTries = s.linkTries := rfl
@[simp] theorem updPort_sels (s : State) (p : Nat) (f : Port → Port) : (updPort s p f).sels = s.sels := rfl
@[simp] theorem updPort_caps (s : State) (p : Nat) (f : Port → Port) : (updPort s p f).caps = s.caps := rfl
@[simp] theorem updPort_gens (s : State) (p : Nat) (f : Port → Port) : (updPort s p f).gens = s.gens := rfl
@[simp] theorem updPort_sessions (s : State) (p : Nat) (f : Port → Port) : (updPort s p f).sessions = s.sessions := rfl
@[simp] theorem updPort_queues (s : State) (p : Nat) (f : Port → Port) : (updPort s p f).queues = s.queues := rfl
@[simp] theorem updPort_fences (s : State) (p : Nat) (f : Port → Port) : (updPort s p f).fences = s.fences := rfl
@[simp] theorem updPort_regions (s : State) (p : Nat) (f : Port → Port) : (updPort s p f).regions = s.regions := rfl
@[simp] theorem updPort_bonds (s : State) (p : Nat) (f : Port → Port) : (updPort s p f).bonds = s.bonds := rfl
@[simp] theorem updPort_keyObjs (s : State) (p : Nat) (f : Port → Port) : (updPort s p f).keyObjs = s.keyObjs := rfl
@[simp] theorem updPort_started (s : State) (p : Nat) (f : Port → Port) : (updPort s p f).started = s.started := rfl
@[simp] theorem updPort_nextId (s : State) (p : Nat) (f : Port → Port) : (updPort s p f).nextId = s.nextId := rfl
@[simp] theorem updPort_accords (s : State) (p : Nat) (f : Port → Port) : (updPort s p f).accords = s.accords := rfl
@[simp] theorem updPort_flaconSeq (s : State) (p : Nat) (f : Port → Port) : (updPort s p f).flaconSeq = s.flaconSeq := rfl
@[simp] theorem updPort_channels (s : State) (p : Nat) (f : Port → Port) : (updPort s p f).channels = s.channels := rfl
@[simp] theorem updPort_portRes (s : State) (p : Nat) (f : Port → Port) : (updPort s p f).portRes = s.portRes := rfl
@[simp] theorem updPort_groups (s : State) (p : Nat) (f : Port → Port) : (updPort s p f).groups = s.groups := rfl
@[simp] theorem updPort_slots (s : State) (p : Nat) (f : Port → Port) : (updPort s p f).slots = s.slots := rfl
@[simp] theorem updPort_rootsLoaded (s : State) (p : Nat) (f : Port → Port) : (updPort s p f).rootsLoaded = s.rootsLoaded := rfl
@[simp] theorem updPort_drbgReady (s : State) (p : Nat) (f : Port → Port) : (updPort s p f).drbgReady = s.drbgReady := rfl
@[simp] theorem updPort_entropyFail (s : State) (p : Nat) (f : Port → Port) : (updPort s p f).entropyFail = s.entropyFail := rfl
@[simp] theorem updPort_drbgRequests (s : State) (p : Nat) (f : Port → Port) : (updPort s p f).drbgRequests = s.drbgRequests := rfl
@[simp] theorem updPort_fills (s : State) (p : Nat) (f : Port → Port) : (updPort s p f).fills = s.fills := rfl
@[simp] theorem updPort_spills (s : State) (p : Nat) (f : Port → Port) : (updPort s p f).spills = s.spills := rfl
@[simp] theorem updPort_mpes (s : State) (p : Nat) (f : Port → Port) : (updPort s p f).mpes = s.mpes := rfl
@[simp] theorem updPort_cores (s : State) (p : Nat) (f : Port → Port) : (updPort s p f).cores = s.cores := rfl
@[simp] theorem updPort_responses (s : State) (p : Nat) (f : Port → Port) : (updPort s p f).responses = s.responses := rfl
@[simp] theorem updPort_otus (s : State) (p : Nat) (f : Port → Port) : (updPort s p f).otus = s.otus := rfl
@[simp] theorem updPort_extents (s : State) (p : Nat) (f : Port → Port) : (updPort s p f).extents = s.extents := rfl
@[simp] theorem updPort_mailboxRoot (s : State) (p : Nat) (f : Port → Port) : (updPort s p f).mailboxRoot = s.mailboxRoot := rfl
@[simp] theorem updPort_mailboxHost (s : State) (p : Nat) (f : Port → Port) : (updPort s p f).mailboxHost = s.mailboxHost := rfl
@[simp] theorem updPort_invalidations (s : State) (p : Nat) (f : Port → Port) : (updPort s p f).invalidations = s.invalidations := rfl
@[simp] theorem updPort_hpe (s : State) (p : Nat) (f : Port → Port) : (updPort s p f).hpe = s.hpe := rfl
@[simp] theorem updPort_hubMem (s : State) (p : Nat) (f : Port → Port) : (updPort s p f).hubMem = s.hubMem := rfl
@[simp] theorem updPort_gce (s : State) (p : Nat) (f : Port → Port) : (updPort s p f).gce = s.gce := rfl
@[simp] theorem updPort_cvus (s : State) (p : Nat) (f : Port → Port) : (updPort s p f).cvus = s.cvus := rfl
@[simp] theorem updPort_otp (s : State) (p : Nat) (f : Port → Port) : (updPort s p f).otp = s.otp := rfl
@[simp] theorem updPort_lcc (s : State) (p : Nat) (f : Port → Port) : (updPort s p f).lcc = s.lcc := rfl
@[simp] theorem updPort_dbg (s : State) (p : Nat) (f : Port → Port) : (updPort s p f).dbg = s.dbg := rfl
@[simp] theorem updPort_frs (s : State) (p : Nat) (f : Port → Port) : (updPort s p f).frs = s.frs := rfl
@[simp] theorem updPort_bec (s : State) (p : Nat) (f : Port → Port) : (updPort s p f).bec = s.bec := rfl
@[simp] theorem updPort_pwr (s : State) (p : Nat) (f : Port → Port) : (updPort s p f).pwr = s.pwr := rfl
@[simp] theorem updPort_bist (s : State) (p : Nat) (f : Port → Port) : (updPort s p f).bist = s.bist := rfl
@[simp] theorem updPort_cfg (s : State) (p : Nat) (f : Port → Port) : (updPort s p f).cfg = s.cfg := rfl
@[simp] theorem updPort_mgmt (s : State) (p : Nat) (f : Port → Port) : (updPort s p f).mgmt = s.mgmt := rfl
@[simp] theorem updPort_aon (s : State) (p : Nat) (f : Port → Port) : (updPort s p f).aon = s.aon := rfl
@[simp] theorem updPort_fenceReady (s : State) (p : Nat) (f : Port → Port) : (updPort s p f).fenceReady = s.fenceReady := rfl
@[simp] theorem updPort_fenceTurn (s : State) (p : Nat) (f : Port → Port) : (updPort s p f).fenceTurn = s.fenceTurn := rfl
@[simp] theorem updPort_queueTurn (s : State) (p : Nat) (f : Port → Port) : (updPort s p f).queueTurn = s.queueTurn := rfl
@[simp] theorem updPort_drbgSince (s : State) (p : Nat) (f : Port → Port) : (updPort s p f).drbgSince = s.drbgSince := rfl
@[simp] theorem updPort_drbgKey (s : State) (p : Nat) (f : Port → Port) : (updPort s p f).drbgKey = s.drbgKey := rfl
@[simp] theorem updPort_drbgV (s : State) (p : Nat) (f : Port → Port) : (updPort s p f).drbgV = s.drbgV := rfl
@[simp] theorem updPort_mpeKeys (s : State) (p : Nat) (f : Port → Port) : (updPort s p f).mpeKeys = s.mpeKeys := rfl
@[simp] theorem updPort_shortfalls (s : State) (p : Nat) (f : Port → Port) : (updPort s p f).shortfalls = s.shortfalls := rfl

/-! ### updOtu -/

@[simp] theorem updOtu_pending (s : State) (o : Nat) (f : Otu → Otu) : (updOtu s o f).pending = s.pending := rfl
@[simp] theorem updOtu_up (s : State) (o : Nat) (f : Otu → Otu) : (updOtu s o f).up = s.up := rfl
@[simp] theorem updOtu_time (s : State) (o : Nat) (f : Otu → Otu) : (updOtu s o f).time = s.time := rfl
@[simp] theorem updOtu_draws (s : State) (o : Nat) (f : Otu → Otu) : (updOtu s o f).draws = s.draws := rfl
@[simp] theorem updOtu_stamp (s : State) (o : Nat) (f : Otu → Otu) : (updOtu s o f).stamp = s.stamp := rfl
@[simp] theorem updOtu_chipId (s : State) (o : Nat) (f : Otu → Otu) : (updOtu s o f).chipId = s.chipId := rfl
@[simp] theorem updOtu_stepping (s : State) (o : Nat) (f : Otu → Otu) : (updOtu s o f).stepping = s.stepping := rfl
@[simp] theorem updOtu_fwVersion (s : State) (o : Nat) (f : Otu → Otu) : (updOtu s o f).fwVersion = s.fwVersion := rfl
@[simp] theorem updOtu_fwWritten (s : State) (o : Nat) (f : Otu → Otu) : (updOtu s o f).fwWritten = s.fwWritten := rfl
@[simp] theorem updOtu_unitOk0 (s : State) (o : Nat) (f : Otu → Otu) : (updOtu s o f).unitOk0 = s.unitOk0 := rfl
@[simp] theorem updOtu_unitOk1 (s : State) (o : Nat) (f : Otu → Otu) : (updOtu s o f).unitOk1 = s.unitOk1 := rfl
@[simp] theorem updOtu_scrubRate (s : State) (o : Nat) (f : Otu → Otu) : (updOtu s o f).scrubRate = s.scrubRate := rfl
@[simp] theorem updOtu_foreignDb (s : State) (o : Nat) (f : Otu → Otu) : (updOtu s o f).foreignDb = s.foreignDb := rfl
@[simp] theorem updOtu_linksDown (s : State) (o : Nat) (f : Otu → Otu) : (updOtu s o f).linksDown = s.linksDown := rfl
@[simp] theorem updOtu_linkTries (s : State) (o : Nat) (f : Otu → Otu) : (updOtu s o f).linkTries = s.linkTries := rfl
@[simp] theorem updOtu_sels (s : State) (o : Nat) (f : Otu → Otu) : (updOtu s o f).sels = s.sels := rfl
@[simp] theorem updOtu_caps (s : State) (o : Nat) (f : Otu → Otu) : (updOtu s o f).caps = s.caps := rfl
@[simp] theorem updOtu_gens (s : State) (o : Nat) (f : Otu → Otu) : (updOtu s o f).gens = s.gens := rfl
@[simp] theorem updOtu_sessions (s : State) (o : Nat) (f : Otu → Otu) : (updOtu s o f).sessions = s.sessions := rfl
@[simp] theorem updOtu_queues (s : State) (o : Nat) (f : Otu → Otu) : (updOtu s o f).queues = s.queues := rfl
@[simp] theorem updOtu_fences (s : State) (o : Nat) (f : Otu → Otu) : (updOtu s o f).fences = s.fences := rfl
@[simp] theorem updOtu_regions (s : State) (o : Nat) (f : Otu → Otu) : (updOtu s o f).regions = s.regions := rfl
@[simp] theorem updOtu_bonds (s : State) (o : Nat) (f : Otu → Otu) : (updOtu s o f).bonds = s.bonds := rfl
@[simp] theorem updOtu_keyObjs (s : State) (o : Nat) (f : Otu → Otu) : (updOtu s o f).keyObjs = s.keyObjs := rfl
@[simp] theorem updOtu_started (s : State) (o : Nat) (f : Otu → Otu) : (updOtu s o f).started = s.started := rfl
@[simp] theorem updOtu_nextId (s : State) (o : Nat) (f : Otu → Otu) : (updOtu s o f).nextId = s.nextId := rfl
@[simp] theorem updOtu_accords (s : State) (o : Nat) (f : Otu → Otu) : (updOtu s o f).accords = s.accords := rfl
@[simp] theorem updOtu_flaconSeq (s : State) (o : Nat) (f : Otu → Otu) : (updOtu s o f).flaconSeq = s.flaconSeq := rfl
@[simp] theorem updOtu_channels (s : State) (o : Nat) (f : Otu → Otu) : (updOtu s o f).channels = s.channels := rfl
@[simp] theorem updOtu_portRes (s : State) (o : Nat) (f : Otu → Otu) : (updOtu s o f).portRes = s.portRes := rfl
@[simp] theorem updOtu_groups (s : State) (o : Nat) (f : Otu → Otu) : (updOtu s o f).groups = s.groups := rfl
@[simp] theorem updOtu_slots (s : State) (o : Nat) (f : Otu → Otu) : (updOtu s o f).slots = s.slots := rfl
@[simp] theorem updOtu_rootsLoaded (s : State) (o : Nat) (f : Otu → Otu) : (updOtu s o f).rootsLoaded = s.rootsLoaded := rfl
@[simp] theorem updOtu_drbgReady (s : State) (o : Nat) (f : Otu → Otu) : (updOtu s o f).drbgReady = s.drbgReady := rfl
@[simp] theorem updOtu_entropyFail (s : State) (o : Nat) (f : Otu → Otu) : (updOtu s o f).entropyFail = s.entropyFail := rfl
@[simp] theorem updOtu_drbgRequests (s : State) (o : Nat) (f : Otu → Otu) : (updOtu s o f).drbgRequests = s.drbgRequests := rfl
@[simp] theorem updOtu_fills (s : State) (o : Nat) (f : Otu → Otu) : (updOtu s o f).fills = s.fills := rfl
@[simp] theorem updOtu_spills (s : State) (o : Nat) (f : Otu → Otu) : (updOtu s o f).spills = s.spills := rfl
@[simp] theorem updOtu_mpes (s : State) (o : Nat) (f : Otu → Otu) : (updOtu s o f).mpes = s.mpes := rfl
@[simp] theorem updOtu_cores (s : State) (o : Nat) (f : Otu → Otu) : (updOtu s o f).cores = s.cores := rfl
@[simp] theorem updOtu_responses (s : State) (o : Nat) (f : Otu → Otu) : (updOtu s o f).responses = s.responses := rfl
@[simp] theorem updOtu_ports (s : State) (o : Nat) (f : Otu → Otu) : (updOtu s o f).ports = s.ports := rfl
@[simp] theorem updOtu_extents (s : State) (o : Nat) (f : Otu → Otu) : (updOtu s o f).extents = s.extents := rfl
@[simp] theorem updOtu_mailboxRoot (s : State) (o : Nat) (f : Otu → Otu) : (updOtu s o f).mailboxRoot = s.mailboxRoot := rfl
@[simp] theorem updOtu_mailboxHost (s : State) (o : Nat) (f : Otu → Otu) : (updOtu s o f).mailboxHost = s.mailboxHost := rfl
@[simp] theorem updOtu_invalidations (s : State) (o : Nat) (f : Otu → Otu) : (updOtu s o f).invalidations = s.invalidations := rfl
@[simp] theorem updOtu_hpe (s : State) (o : Nat) (f : Otu → Otu) : (updOtu s o f).hpe = s.hpe := rfl
@[simp] theorem updOtu_hubMem (s : State) (o : Nat) (f : Otu → Otu) : (updOtu s o f).hubMem = s.hubMem := rfl
@[simp] theorem updOtu_gce (s : State) (o : Nat) (f : Otu → Otu) : (updOtu s o f).gce = s.gce := rfl
@[simp] theorem updOtu_cvus (s : State) (o : Nat) (f : Otu → Otu) : (updOtu s o f).cvus = s.cvus := rfl
@[simp] theorem updOtu_otp (s : State) (o : Nat) (f : Otu → Otu) : (updOtu s o f).otp = s.otp := rfl
@[simp] theorem updOtu_lcc (s : State) (o : Nat) (f : Otu → Otu) : (updOtu s o f).lcc = s.lcc := rfl
@[simp] theorem updOtu_dbg (s : State) (o : Nat) (f : Otu → Otu) : (updOtu s o f).dbg = s.dbg := rfl
@[simp] theorem updOtu_frs (s : State) (o : Nat) (f : Otu → Otu) : (updOtu s o f).frs = s.frs := rfl
@[simp] theorem updOtu_bec (s : State) (o : Nat) (f : Otu → Otu) : (updOtu s o f).bec = s.bec := rfl
@[simp] theorem updOtu_pwr (s : State) (o : Nat) (f : Otu → Otu) : (updOtu s o f).pwr = s.pwr := rfl
@[simp] theorem updOtu_bist (s : State) (o : Nat) (f : Otu → Otu) : (updOtu s o f).bist = s.bist := rfl
@[simp] theorem updOtu_cfg (s : State) (o : Nat) (f : Otu → Otu) : (updOtu s o f).cfg = s.cfg := rfl
@[simp] theorem updOtu_mgmt (s : State) (o : Nat) (f : Otu → Otu) : (updOtu s o f).mgmt = s.mgmt := rfl
@[simp] theorem updOtu_aon (s : State) (o : Nat) (f : Otu → Otu) : (updOtu s o f).aon = s.aon := rfl
@[simp] theorem updOtu_fenceReady (s : State) (o : Nat) (f : Otu → Otu) : (updOtu s o f).fenceReady = s.fenceReady := rfl
@[simp] theorem updOtu_fenceTurn (s : State) (o : Nat) (f : Otu → Otu) : (updOtu s o f).fenceTurn = s.fenceTurn := rfl
@[simp] theorem updOtu_queueTurn (s : State) (o : Nat) (f : Otu → Otu) : (updOtu s o f).queueTurn = s.queueTurn := rfl
@[simp] theorem updOtu_drbgSince (s : State) (o : Nat) (f : Otu → Otu) : (updOtu s o f).drbgSince = s.drbgSince := rfl
@[simp] theorem updOtu_drbgKey (s : State) (o : Nat) (f : Otu → Otu) : (updOtu s o f).drbgKey = s.drbgKey := rfl
@[simp] theorem updOtu_drbgV (s : State) (o : Nat) (f : Otu → Otu) : (updOtu s o f).drbgV = s.drbgV := rfl
@[simp] theorem updOtu_mpeKeys (s : State) (o : Nat) (f : Otu → Otu) : (updOtu s o f).mpeKeys = s.mpeKeys := rfl
@[simp] theorem updOtu_shortfalls (s : State) (o : Nat) (f : Otu → Otu) : (updOtu s o f).shortfalls = s.shortfalls := rfl

/-! ### updCore -/

@[simp] theorem updCore_pending (s : State) (cg : Nat) (f : Core → Core) : (updCore s cg f).pending = s.pending := rfl
@[simp] theorem updCore_up (s : State) (cg : Nat) (f : Core → Core) : (updCore s cg f).up = s.up := rfl
@[simp] theorem updCore_time (s : State) (cg : Nat) (f : Core → Core) : (updCore s cg f).time = s.time := rfl
@[simp] theorem updCore_draws (s : State) (cg : Nat) (f : Core → Core) : (updCore s cg f).draws = s.draws := rfl
@[simp] theorem updCore_stamp (s : State) (cg : Nat) (f : Core → Core) : (updCore s cg f).stamp = s.stamp := rfl
@[simp] theorem updCore_chipId (s : State) (cg : Nat) (f : Core → Core) : (updCore s cg f).chipId = s.chipId := rfl
@[simp] theorem updCore_stepping (s : State) (cg : Nat) (f : Core → Core) : (updCore s cg f).stepping = s.stepping := rfl
@[simp] theorem updCore_fwVersion (s : State) (cg : Nat) (f : Core → Core) : (updCore s cg f).fwVersion = s.fwVersion := rfl
@[simp] theorem updCore_fwWritten (s : State) (cg : Nat) (f : Core → Core) : (updCore s cg f).fwWritten = s.fwWritten := rfl
@[simp] theorem updCore_unitOk0 (s : State) (cg : Nat) (f : Core → Core) : (updCore s cg f).unitOk0 = s.unitOk0 := rfl
@[simp] theorem updCore_unitOk1 (s : State) (cg : Nat) (f : Core → Core) : (updCore s cg f).unitOk1 = s.unitOk1 := rfl
@[simp] theorem updCore_scrubRate (s : State) (cg : Nat) (f : Core → Core) : (updCore s cg f).scrubRate = s.scrubRate := rfl
@[simp] theorem updCore_foreignDb (s : State) (cg : Nat) (f : Core → Core) : (updCore s cg f).foreignDb = s.foreignDb := rfl
@[simp] theorem updCore_linksDown (s : State) (cg : Nat) (f : Core → Core) : (updCore s cg f).linksDown = s.linksDown := rfl
@[simp] theorem updCore_linkTries (s : State) (cg : Nat) (f : Core → Core) : (updCore s cg f).linkTries = s.linkTries := rfl
@[simp] theorem updCore_sels (s : State) (cg : Nat) (f : Core → Core) : (updCore s cg f).sels = s.sels := rfl
@[simp] theorem updCore_caps (s : State) (cg : Nat) (f : Core → Core) : (updCore s cg f).caps = s.caps := rfl
@[simp] theorem updCore_gens (s : State) (cg : Nat) (f : Core → Core) : (updCore s cg f).gens = s.gens := rfl
@[simp] theorem updCore_sessions (s : State) (cg : Nat) (f : Core → Core) : (updCore s cg f).sessions = s.sessions := rfl
@[simp] theorem updCore_queues (s : State) (cg : Nat) (f : Core → Core) : (updCore s cg f).queues = s.queues := rfl
@[simp] theorem updCore_fences (s : State) (cg : Nat) (f : Core → Core) : (updCore s cg f).fences = s.fences := rfl
@[simp] theorem updCore_regions (s : State) (cg : Nat) (f : Core → Core) : (updCore s cg f).regions = s.regions := rfl
@[simp] theorem updCore_bonds (s : State) (cg : Nat) (f : Core → Core) : (updCore s cg f).bonds = s.bonds := rfl
@[simp] theorem updCore_keyObjs (s : State) (cg : Nat) (f : Core → Core) : (updCore s cg f).keyObjs = s.keyObjs := rfl
@[simp] theorem updCore_started (s : State) (cg : Nat) (f : Core → Core) : (updCore s cg f).started = s.started := rfl
@[simp] theorem updCore_nextId (s : State) (cg : Nat) (f : Core → Core) : (updCore s cg f).nextId = s.nextId := rfl
@[simp] theorem updCore_accords (s : State) (cg : Nat) (f : Core → Core) : (updCore s cg f).accords = s.accords := rfl
@[simp] theorem updCore_flaconSeq (s : State) (cg : Nat) (f : Core → Core) : (updCore s cg f).flaconSeq = s.flaconSeq := rfl
@[simp] theorem updCore_channels (s : State) (cg : Nat) (f : Core → Core) : (updCore s cg f).channels = s.channels := rfl
@[simp] theorem updCore_portRes (s : State) (cg : Nat) (f : Core → Core) : (updCore s cg f).portRes = s.portRes := rfl
@[simp] theorem updCore_groups (s : State) (cg : Nat) (f : Core → Core) : (updCore s cg f).groups = s.groups := rfl
@[simp] theorem updCore_slots (s : State) (cg : Nat) (f : Core → Core) : (updCore s cg f).slots = s.slots := rfl
@[simp] theorem updCore_rootsLoaded (s : State) (cg : Nat) (f : Core → Core) : (updCore s cg f).rootsLoaded = s.rootsLoaded := rfl
@[simp] theorem updCore_drbgReady (s : State) (cg : Nat) (f : Core → Core) : (updCore s cg f).drbgReady = s.drbgReady := rfl
@[simp] theorem updCore_entropyFail (s : State) (cg : Nat) (f : Core → Core) : (updCore s cg f).entropyFail = s.entropyFail := rfl
@[simp] theorem updCore_drbgRequests (s : State) (cg : Nat) (f : Core → Core) : (updCore s cg f).drbgRequests = s.drbgRequests := rfl
@[simp] theorem updCore_fills (s : State) (cg : Nat) (f : Core → Core) : (updCore s cg f).fills = s.fills := rfl
@[simp] theorem updCore_spills (s : State) (cg : Nat) (f : Core → Core) : (updCore s cg f).spills = s.spills := rfl
@[simp] theorem updCore_mpes (s : State) (cg : Nat) (f : Core → Core) : (updCore s cg f).mpes = s.mpes := rfl
@[simp] theorem updCore_responses (s : State) (cg : Nat) (f : Core → Core) : (updCore s cg f).responses = s.responses := rfl
@[simp] theorem updCore_ports (s : State) (cg : Nat) (f : Core → Core) : (updCore s cg f).ports = s.ports := rfl
@[simp] theorem updCore_otus (s : State) (cg : Nat) (f : Core → Core) : (updCore s cg f).otus = s.otus := rfl
@[simp] theorem updCore_extents (s : State) (cg : Nat) (f : Core → Core) : (updCore s cg f).extents = s.extents := rfl
@[simp] theorem updCore_mailboxRoot (s : State) (cg : Nat) (f : Core → Core) : (updCore s cg f).mailboxRoot = s.mailboxRoot := rfl
@[simp] theorem updCore_mailboxHost (s : State) (cg : Nat) (f : Core → Core) : (updCore s cg f).mailboxHost = s.mailboxHost := rfl
@[simp] theorem updCore_invalidations (s : State) (cg : Nat) (f : Core → Core) : (updCore s cg f).invalidations = s.invalidations := rfl
@[simp] theorem updCore_hpe (s : State) (cg : Nat) (f : Core → Core) : (updCore s cg f).hpe = s.hpe := rfl
@[simp] theorem updCore_hubMem (s : State) (cg : Nat) (f : Core → Core) : (updCore s cg f).hubMem = s.hubMem := rfl
@[simp] theorem updCore_gce (s : State) (cg : Nat) (f : Core → Core) : (updCore s cg f).gce = s.gce := rfl
@[simp] theorem updCore_cvus (s : State) (cg : Nat) (f : Core → Core) : (updCore s cg f).cvus = s.cvus := rfl
@[simp] theorem updCore_otp (s : State) (cg : Nat) (f : Core → Core) : (updCore s cg f).otp = s.otp := rfl
@[simp] theorem updCore_lcc (s : State) (cg : Nat) (f : Core → Core) : (updCore s cg f).lcc = s.lcc := rfl
@[simp] theorem updCore_dbg (s : State) (cg : Nat) (f : Core → Core) : (updCore s cg f).dbg = s.dbg := rfl
@[simp] theorem updCore_frs (s : State) (cg : Nat) (f : Core → Core) : (updCore s cg f).frs = s.frs := rfl
@[simp] theorem updCore_bec (s : State) (cg : Nat) (f : Core → Core) : (updCore s cg f).bec = s.bec := rfl
@[simp] theorem updCore_pwr (s : State) (cg : Nat) (f : Core → Core) : (updCore s cg f).pwr = s.pwr := rfl
@[simp] theorem updCore_bist (s : State) (cg : Nat) (f : Core → Core) : (updCore s cg f).bist = s.bist := rfl
@[simp] theorem updCore_cfg (s : State) (cg : Nat) (f : Core → Core) : (updCore s cg f).cfg = s.cfg := rfl
@[simp] theorem updCore_mgmt (s : State) (cg : Nat) (f : Core → Core) : (updCore s cg f).mgmt = s.mgmt := rfl
@[simp] theorem updCore_aon (s : State) (cg : Nat) (f : Core → Core) : (updCore s cg f).aon = s.aon := rfl
@[simp] theorem updCore_fenceReady (s : State) (cg : Nat) (f : Core → Core) : (updCore s cg f).fenceReady = s.fenceReady := rfl
@[simp] theorem updCore_fenceTurn (s : State) (cg : Nat) (f : Core → Core) : (updCore s cg f).fenceTurn = s.fenceTurn := rfl
@[simp] theorem updCore_queueTurn (s : State) (cg : Nat) (f : Core → Core) : (updCore s cg f).queueTurn = s.queueTurn := rfl
@[simp] theorem updCore_drbgSince (s : State) (cg : Nat) (f : Core → Core) : (updCore s cg f).drbgSince = s.drbgSince := rfl
@[simp] theorem updCore_drbgKey (s : State) (cg : Nat) (f : Core → Core) : (updCore s cg f).drbgKey = s.drbgKey := rfl
@[simp] theorem updCore_drbgV (s : State) (cg : Nat) (f : Core → Core) : (updCore s cg f).drbgV = s.drbgV := rfl
@[simp] theorem updCore_mpeKeys (s : State) (cg : Nat) (f : Core → Core) : (updCore s cg f).mpeKeys = s.mpeKeys := rfl
@[simp] theorem updCore_shortfalls (s : State) (cg : Nat) (f : Core → Core) : (updCore s cg f).shortfalls = s.shortfalls := rfl

/-! ### updAccord -/

@[simp] theorem updAccord_pending (s : State) (a : Nat) (f : Accord → Accord) : (updAccord s a f).pending = s.pending := rfl
@[simp] theorem updAccord_up (s : State) (a : Nat) (f : Accord → Accord) : (updAccord s a f).up = s.up := rfl
@[simp] theorem updAccord_time (s : State) (a : Nat) (f : Accord → Accord) : (updAccord s a f).time = s.time := rfl
@[simp] theorem updAccord_draws (s : State) (a : Nat) (f : Accord → Accord) : (updAccord s a f).draws = s.draws := rfl
@[simp] theorem updAccord_stamp (s : State) (a : Nat) (f : Accord → Accord) : (updAccord s a f).stamp = s.stamp := rfl
@[simp] theorem updAccord_chipId (s : State) (a : Nat) (f : Accord → Accord) : (updAccord s a f).chipId = s.chipId := rfl
@[simp] theorem updAccord_stepping (s : State) (a : Nat) (f : Accord → Accord) : (updAccord s a f).stepping = s.stepping := rfl
@[simp] theorem updAccord_fwVersion (s : State) (a : Nat) (f : Accord → Accord) : (updAccord s a f).fwVersion = s.fwVersion := rfl
@[simp] theorem updAccord_fwWritten (s : State) (a : Nat) (f : Accord → Accord) : (updAccord s a f).fwWritten = s.fwWritten := rfl
@[simp] theorem updAccord_unitOk0 (s : State) (a : Nat) (f : Accord → Accord) : (updAccord s a f).unitOk0 = s.unitOk0 := rfl
@[simp] theorem updAccord_unitOk1 (s : State) (a : Nat) (f : Accord → Accord) : (updAccord s a f).unitOk1 = s.unitOk1 := rfl
@[simp] theorem updAccord_scrubRate (s : State) (a : Nat) (f : Accord → Accord) : (updAccord s a f).scrubRate = s.scrubRate := rfl
@[simp] theorem updAccord_foreignDb (s : State) (a : Nat) (f : Accord → Accord) : (updAccord s a f).foreignDb = s.foreignDb := rfl
@[simp] theorem updAccord_linksDown (s : State) (a : Nat) (f : Accord → Accord) : (updAccord s a f).linksDown = s.linksDown := rfl
@[simp] theorem updAccord_linkTries (s : State) (a : Nat) (f : Accord → Accord) : (updAccord s a f).linkTries = s.linkTries := rfl
@[simp] theorem updAccord_sels (s : State) (a : Nat) (f : Accord → Accord) : (updAccord s a f).sels = s.sels := rfl
@[simp] theorem updAccord_caps (s : State) (a : Nat) (f : Accord → Accord) : (updAccord s a f).caps = s.caps := rfl
@[simp] theorem updAccord_gens (s : State) (a : Nat) (f : Accord → Accord) : (updAccord s a f).gens = s.gens := rfl
@[simp] theorem updAccord_sessions (s : State) (a : Nat) (f : Accord → Accord) : (updAccord s a f).sessions = s.sessions := rfl
@[simp] theorem updAccord_queues (s : State) (a : Nat) (f : Accord → Accord) : (updAccord s a f).queues = s.queues := rfl
@[simp] theorem updAccord_fences (s : State) (a : Nat) (f : Accord → Accord) : (updAccord s a f).fences = s.fences := rfl
@[simp] theorem updAccord_regions (s : State) (a : Nat) (f : Accord → Accord) : (updAccord s a f).regions = s.regions := rfl
@[simp] theorem updAccord_bonds (s : State) (a : Nat) (f : Accord → Accord) : (updAccord s a f).bonds = s.bonds := rfl
@[simp] theorem updAccord_keyObjs (s : State) (a : Nat) (f : Accord → Accord) : (updAccord s a f).keyObjs = s.keyObjs := rfl
@[simp] theorem updAccord_started (s : State) (a : Nat) (f : Accord → Accord) : (updAccord s a f).started = s.started := rfl
@[simp] theorem updAccord_nextId (s : State) (a : Nat) (f : Accord → Accord) : (updAccord s a f).nextId = s.nextId := rfl
@[simp] theorem updAccord_flaconSeq (s : State) (a : Nat) (f : Accord → Accord) : (updAccord s a f).flaconSeq = s.flaconSeq := rfl
@[simp] theorem updAccord_channels (s : State) (a : Nat) (f : Accord → Accord) : (updAccord s a f).channels = s.channels := rfl
@[simp] theorem updAccord_portRes (s : State) (a : Nat) (f : Accord → Accord) : (updAccord s a f).portRes = s.portRes := rfl
@[simp] theorem updAccord_groups (s : State) (a : Nat) (f : Accord → Accord) : (updAccord s a f).groups = s.groups := rfl
@[simp] theorem updAccord_slots (s : State) (a : Nat) (f : Accord → Accord) : (updAccord s a f).slots = s.slots := rfl
@[simp] theorem updAccord_rootsLoaded (s : State) (a : Nat) (f : Accord → Accord) : (updAccord s a f).rootsLoaded = s.rootsLoaded := rfl
@[simp] theorem updAccord_drbgReady (s : State) (a : Nat) (f : Accord → Accord) : (updAccord s a f).drbgReady = s.drbgReady := rfl
@[simp] theorem updAccord_entropyFail (s : State) (a : Nat) (f : Accord → Accord) : (updAccord s a f).entropyFail = s.entropyFail := rfl
@[simp] theorem updAccord_drbgRequests (s : State) (a : Nat) (f : Accord → Accord) : (updAccord s a f).drbgRequests = s.drbgRequests := rfl
@[simp] theorem updAccord_fills (s : State) (a : Nat) (f : Accord → Accord) : (updAccord s a f).fills = s.fills := rfl
@[simp] theorem updAccord_spills (s : State) (a : Nat) (f : Accord → Accord) : (updAccord s a f).spills = s.spills := rfl
@[simp] theorem updAccord_mpes (s : State) (a : Nat) (f : Accord → Accord) : (updAccord s a f).mpes = s.mpes := rfl
@[simp] theorem updAccord_cores (s : State) (a : Nat) (f : Accord → Accord) : (updAccord s a f).cores = s.cores := rfl
@[simp] theorem updAccord_responses (s : State) (a : Nat) (f : Accord → Accord) : (updAccord s a f).responses = s.responses := rfl
@[simp] theorem updAccord_ports (s : State) (a : Nat) (f : Accord → Accord) : (updAccord s a f).ports = s.ports := rfl
@[simp] theorem updAccord_otus (s : State) (a : Nat) (f : Accord → Accord) : (updAccord s a f).otus = s.otus := rfl
@[simp] theorem updAccord_extents (s : State) (a : Nat) (f : Accord → Accord) : (updAccord s a f).extents = s.extents := rfl
@[simp] theorem updAccord_mailboxRoot (s : State) (a : Nat) (f : Accord → Accord) : (updAccord s a f).mailboxRoot = s.mailboxRoot := rfl
@[simp] theorem updAccord_mailboxHost (s : State) (a : Nat) (f : Accord → Accord) : (updAccord s a f).mailboxHost = s.mailboxHost := rfl
@[simp] theorem updAccord_invalidations (s : State) (a : Nat) (f : Accord → Accord) : (updAccord s a f).invalidations = s.invalidations := rfl
@[simp] theorem updAccord_hpe (s : State) (a : Nat) (f : Accord → Accord) : (updAccord s a f).hpe = s.hpe := rfl
@[simp] theorem updAccord_hubMem (s : State) (a : Nat) (f : Accord → Accord) : (updAccord s a f).hubMem = s.hubMem := rfl
@[simp] theorem updAccord_gce (s : State) (a : Nat) (f : Accord → Accord) : (updAccord s a f).gce = s.gce := rfl
@[simp] theorem updAccord_cvus (s : State) (a : Nat) (f : Accord → Accord) : (updAccord s a f).cvus = s.cvus := rfl
@[simp] theorem updAccord_otp (s : State) (a : Nat) (f : Accord → Accord) : (updAccord s a f).otp = s.otp := rfl
@[simp] theorem updAccord_lcc (s : State) (a : Nat) (f : Accord → Accord) : (updAccord s a f).lcc = s.lcc := rfl
@[simp] theorem updAccord_dbg (s : State) (a : Nat) (f : Accord → Accord) : (updAccord s a f).dbg = s.dbg := rfl
@[simp] theorem updAccord_frs (s : State) (a : Nat) (f : Accord → Accord) : (updAccord s a f).frs = s.frs := rfl
@[simp] theorem updAccord_bec (s : State) (a : Nat) (f : Accord → Accord) : (updAccord s a f).bec = s.bec := rfl
@[simp] theorem updAccord_pwr (s : State) (a : Nat) (f : Accord → Accord) : (updAccord s a f).pwr = s.pwr := rfl
@[simp] theorem updAccord_bist (s : State) (a : Nat) (f : Accord → Accord) : (updAccord s a f).bist = s.bist := rfl
@[simp] theorem updAccord_cfg (s : State) (a : Nat) (f : Accord → Accord) : (updAccord s a f).cfg = s.cfg := rfl
@[simp] theorem updAccord_mgmt (s : State) (a : Nat) (f : Accord → Accord) : (updAccord s a f).mgmt = s.mgmt := rfl
@[simp] theorem updAccord_aon (s : State) (a : Nat) (f : Accord → Accord) : (updAccord s a f).aon = s.aon := rfl
@[simp] theorem updAccord_fenceReady (s : State) (a : Nat) (f : Accord → Accord) : (updAccord s a f).fenceReady = s.fenceReady := rfl
@[simp] theorem updAccord_fenceTurn (s : State) (a : Nat) (f : Accord → Accord) : (updAccord s a f).fenceTurn = s.fenceTurn := rfl
@[simp] theorem updAccord_queueTurn (s : State) (a : Nat) (f : Accord → Accord) : (updAccord s a f).queueTurn = s.queueTurn := rfl
@[simp] theorem updAccord_drbgSince (s : State) (a : Nat) (f : Accord → Accord) : (updAccord s a f).drbgSince = s.drbgSince := rfl
@[simp] theorem updAccord_drbgKey (s : State) (a : Nat) (f : Accord → Accord) : (updAccord s a f).drbgKey = s.drbgKey := rfl
@[simp] theorem updAccord_drbgV (s : State) (a : Nat) (f : Accord → Accord) : (updAccord s a f).drbgV = s.drbgV := rfl
@[simp] theorem updAccord_mpeKeys (s : State) (a : Nat) (f : Accord → Accord) : (updAccord s a f).mpeKeys = s.mpeKeys := rfl
@[simp] theorem updAccord_shortfalls (s : State) (a : Nat) (f : Accord → Accord) : (updAccord s a f).shortfalls = s.shortfalls := rfl

/-! ### updSlot -/

@[simp] theorem updSlot_pending (s : State) (k : Nat) (f : Slot → Slot) : (updSlot s k f).pending = s.pending := rfl
@[simp] theorem updSlot_up (s : State) (k : Nat) (f : Slot → Slot) : (updSlot s k f).up = s.up := rfl
@[simp] theorem updSlot_time (s : State) (k : Nat) (f : Slot → Slot) : (updSlot s k f).time = s.time := rfl
@[simp] theorem updSlot_draws (s : State) (k : Nat) (f : Slot → Slot) : (updSlot s k f).draws = s.draws := rfl
@[simp] theorem updSlot_stamp (s : State) (k : Nat) (f : Slot → Slot) : (updSlot s k f).stamp = s.stamp := rfl
@[simp] theorem updSlot_chipId (s : State) (k : Nat) (f : Slot → Slot) : (updSlot s k f).chipId = s.chipId := rfl
@[simp] theorem updSlot_stepping (s : State) (k : Nat) (f : Slot → Slot) : (updSlot s k f).stepping = s.stepping := rfl
@[simp] theorem updSlot_fwVersion (s : State) (k : Nat) (f : Slot → Slot) : (updSlot s k f).fwVersion = s.fwVersion := rfl
@[simp] theorem updSlot_fwWritten (s : State) (k : Nat) (f : Slot → Slot) : (updSlot s k f).fwWritten = s.fwWritten := rfl
@[simp] theorem updSlot_unitOk0 (s : State) (k : Nat) (f : Slot → Slot) : (updSlot s k f).unitOk0 = s.unitOk0 := rfl
@[simp] theorem updSlot_unitOk1 (s : State) (k : Nat) (f : Slot → Slot) : (updSlot s k f).unitOk1 = s.unitOk1 := rfl
@[simp] theorem updSlot_scrubRate (s : State) (k : Nat) (f : Slot → Slot) : (updSlot s k f).scrubRate = s.scrubRate := rfl
@[simp] theorem updSlot_foreignDb (s : State) (k : Nat) (f : Slot → Slot) : (updSlot s k f).foreignDb = s.foreignDb := rfl
@[simp] theorem updSlot_linksDown (s : State) (k : Nat) (f : Slot → Slot) : (updSlot s k f).linksDown = s.linksDown := rfl
@[simp] theorem updSlot_linkTries (s : State) (k : Nat) (f : Slot → Slot) : (updSlot s k f).linkTries = s.linkTries := rfl
@[simp] theorem updSlot_sels (s : State) (k : Nat) (f : Slot → Slot) : (updSlot s k f).sels = s.sels := rfl
@[simp] theorem updSlot_caps (s : State) (k : Nat) (f : Slot → Slot) : (updSlot s k f).caps = s.caps := rfl
@[simp] theorem updSlot_gens (s : State) (k : Nat) (f : Slot → Slot) : (updSlot s k f).gens = s.gens := rfl
@[simp] theorem updSlot_sessions (s : State) (k : Nat) (f : Slot → Slot) : (updSlot s k f).sessions = s.sessions := rfl
@[simp] theorem updSlot_queues (s : State) (k : Nat) (f : Slot → Slot) : (updSlot s k f).queues = s.queues := rfl
@[simp] theorem updSlot_fences (s : State) (k : Nat) (f : Slot → Slot) : (updSlot s k f).fences = s.fences := rfl
@[simp] theorem updSlot_regions (s : State) (k : Nat) (f : Slot → Slot) : (updSlot s k f).regions = s.regions := rfl
@[simp] theorem updSlot_bonds (s : State) (k : Nat) (f : Slot → Slot) : (updSlot s k f).bonds = s.bonds := rfl
@[simp] theorem updSlot_keyObjs (s : State) (k : Nat) (f : Slot → Slot) : (updSlot s k f).keyObjs = s.keyObjs := rfl
@[simp] theorem updSlot_started (s : State) (k : Nat) (f : Slot → Slot) : (updSlot s k f).started = s.started := rfl
@[simp] theorem updSlot_nextId (s : State) (k : Nat) (f : Slot → Slot) : (updSlot s k f).nextId = s.nextId := rfl
@[simp] theorem updSlot_accords (s : State) (k : Nat) (f : Slot → Slot) : (updSlot s k f).accords = s.accords := rfl
@[simp] theorem updSlot_flaconSeq (s : State) (k : Nat) (f : Slot → Slot) : (updSlot s k f).flaconSeq = s.flaconSeq := rfl
@[simp] theorem updSlot_channels (s : State) (k : Nat) (f : Slot → Slot) : (updSlot s k f).channels = s.channels := rfl
@[simp] theorem updSlot_portRes (s : State) (k : Nat) (f : Slot → Slot) : (updSlot s k f).portRes = s.portRes := rfl
@[simp] theorem updSlot_groups (s : State) (k : Nat) (f : Slot → Slot) : (updSlot s k f).groups = s.groups := rfl
@[simp] theorem updSlot_rootsLoaded (s : State) (k : Nat) (f : Slot → Slot) : (updSlot s k f).rootsLoaded = s.rootsLoaded := rfl
@[simp] theorem updSlot_drbgReady (s : State) (k : Nat) (f : Slot → Slot) : (updSlot s k f).drbgReady = s.drbgReady := rfl
@[simp] theorem updSlot_entropyFail (s : State) (k : Nat) (f : Slot → Slot) : (updSlot s k f).entropyFail = s.entropyFail := rfl
@[simp] theorem updSlot_drbgRequests (s : State) (k : Nat) (f : Slot → Slot) : (updSlot s k f).drbgRequests = s.drbgRequests := rfl
@[simp] theorem updSlot_fills (s : State) (k : Nat) (f : Slot → Slot) : (updSlot s k f).fills = s.fills := rfl
@[simp] theorem updSlot_spills (s : State) (k : Nat) (f : Slot → Slot) : (updSlot s k f).spills = s.spills := rfl
@[simp] theorem updSlot_mpes (s : State) (k : Nat) (f : Slot → Slot) : (updSlot s k f).mpes = s.mpes := rfl
@[simp] theorem updSlot_cores (s : State) (k : Nat) (f : Slot → Slot) : (updSlot s k f).cores = s.cores := rfl
@[simp] theorem updSlot_responses (s : State) (k : Nat) (f : Slot → Slot) : (updSlot s k f).responses = s.responses := rfl
@[simp] theorem updSlot_ports (s : State) (k : Nat) (f : Slot → Slot) : (updSlot s k f).ports = s.ports := rfl
@[simp] theorem updSlot_otus (s : State) (k : Nat) (f : Slot → Slot) : (updSlot s k f).otus = s.otus := rfl
@[simp] theorem updSlot_extents (s : State) (k : Nat) (f : Slot → Slot) : (updSlot s k f).extents = s.extents := rfl
@[simp] theorem updSlot_mailboxRoot (s : State) (k : Nat) (f : Slot → Slot) : (updSlot s k f).mailboxRoot = s.mailboxRoot := rfl
@[simp] theorem updSlot_mailboxHost (s : State) (k : Nat) (f : Slot → Slot) : (updSlot s k f).mailboxHost = s.mailboxHost := rfl
@[simp] theorem updSlot_invalidations (s : State) (k : Nat) (f : Slot → Slot) : (updSlot s k f).invalidations = s.invalidations := rfl
@[simp] theorem updSlot_hpe (s : State) (k : Nat) (f : Slot → Slot) : (updSlot s k f).hpe = s.hpe := rfl
@[simp] theorem updSlot_hubMem (s : State) (k : Nat) (f : Slot → Slot) : (updSlot s k f).hubMem = s.hubMem := rfl
@[simp] theorem updSlot_gce (s : State) (k : Nat) (f : Slot → Slot) : (updSlot s k f).gce = s.gce := rfl
@[simp] theorem updSlot_cvus (s : State) (k : Nat) (f : Slot → Slot) : (updSlot s k f).cvus = s.cvus := rfl
@[simp] theorem updSlot_otp (s : State) (k : Nat) (f : Slot → Slot) : (updSlot s k f).otp = s.otp := rfl
@[simp] theorem updSlot_lcc (s : State) (k : Nat) (f : Slot → Slot) : (updSlot s k f).lcc = s.lcc := rfl
@[simp] theorem updSlot_dbg (s : State) (k : Nat) (f : Slot → Slot) : (updSlot s k f).dbg = s.dbg := rfl
@[simp] theorem updSlot_frs (s : State) (k : Nat) (f : Slot → Slot) : (updSlot s k f).frs = s.frs := rfl
@[simp] theorem updSlot_bec (s : State) (k : Nat) (f : Slot → Slot) : (updSlot s k f).bec = s.bec := rfl
@[simp] theorem updSlot_pwr (s : State) (k : Nat) (f : Slot → Slot) : (updSlot s k f).pwr = s.pwr := rfl
@[simp] theorem updSlot_bist (s : State) (k : Nat) (f : Slot → Slot) : (updSlot s k f).bist = s.bist := rfl
@[simp] theorem updSlot_cfg (s : State) (k : Nat) (f : Slot → Slot) : (updSlot s k f).cfg = s.cfg := rfl
@[simp] theorem updSlot_mgmt (s : State) (k : Nat) (f : Slot → Slot) : (updSlot s k f).mgmt = s.mgmt := rfl
@[simp] theorem updSlot_aon (s : State) (k : Nat) (f : Slot → Slot) : (updSlot s k f).aon = s.aon := rfl
@[simp] theorem updSlot_fenceReady (s : State) (k : Nat) (f : Slot → Slot) : (updSlot s k f).fenceReady = s.fenceReady := rfl
@[simp] theorem updSlot_fenceTurn (s : State) (k : Nat) (f : Slot → Slot) : (updSlot s k f).fenceTurn = s.fenceTurn := rfl
@[simp] theorem updSlot_queueTurn (s : State) (k : Nat) (f : Slot → Slot) : (updSlot s k f).queueTurn = s.queueTurn := rfl
@[simp] theorem updSlot_drbgSince (s : State) (k : Nat) (f : Slot → Slot) : (updSlot s k f).drbgSince = s.drbgSince := rfl
@[simp] theorem updSlot_drbgKey (s : State) (k : Nat) (f : Slot → Slot) : (updSlot s k f).drbgKey = s.drbgKey := rfl
@[simp] theorem updSlot_drbgV (s : State) (k : Nat) (f : Slot → Slot) : (updSlot s k f).drbgV = s.drbgV := rfl
@[simp] theorem updSlot_mpeKeys (s : State) (k : Nat) (f : Slot → Slot) : (updSlot s k f).mpeKeys = s.mpeKeys := rfl
@[simp] theorem updSlot_shortfalls (s : State) (k : Nat) (f : Slot → Slot) : (updSlot s k f).shortfalls = s.shortfalls := rfl

/-! ### updBond -/

@[simp] theorem updBond_pending (s : State) (b : Nat) (f : Bond → Bond) : (updBond s b f).pending = s.pending := rfl
@[simp] theorem updBond_up (s : State) (b : Nat) (f : Bond → Bond) : (updBond s b f).up = s.up := rfl
@[simp] theorem updBond_time (s : State) (b : Nat) (f : Bond → Bond) : (updBond s b f).time = s.time := rfl
@[simp] theorem updBond_draws (s : State) (b : Nat) (f : Bond → Bond) : (updBond s b f).draws = s.draws := rfl
@[simp] theorem updBond_stamp (s : State) (b : Nat) (f : Bond → Bond) : (updBond s b f).stamp = s.stamp := rfl
@[simp] theorem updBond_chipId (s : State) (b : Nat) (f : Bond → Bond) : (updBond s b f).chipId = s.chipId := rfl
@[simp] theorem updBond_stepping (s : State) (b : Nat) (f : Bond → Bond) : (updBond s b f).stepping = s.stepping := rfl
@[simp] theorem updBond_fwVersion (s : State) (b : Nat) (f : Bond → Bond) : (updBond s b f).fwVersion = s.fwVersion := rfl
@[simp] theorem updBond_fwWritten (s : State) (b : Nat) (f : Bond → Bond) : (updBond s b f).fwWritten = s.fwWritten := rfl
@[simp] theorem updBond_unitOk0 (s : State) (b : Nat) (f : Bond → Bond) : (updBond s b f).unitOk0 = s.unitOk0 := rfl
@[simp] theorem updBond_unitOk1 (s : State) (b : Nat) (f : Bond → Bond) : (updBond s b f).unitOk1 = s.unitOk1 := rfl
@[simp] theorem updBond_scrubRate (s : State) (b : Nat) (f : Bond → Bond) : (updBond s b f).scrubRate = s.scrubRate := rfl
@[simp] theorem updBond_foreignDb (s : State) (b : Nat) (f : Bond → Bond) : (updBond s b f).foreignDb = s.foreignDb := rfl
@[simp] theorem updBond_linksDown (s : State) (b : Nat) (f : Bond → Bond) : (updBond s b f).linksDown = s.linksDown := rfl
@[simp] theorem updBond_linkTries (s : State) (b : Nat) (f : Bond → Bond) : (updBond s b f).linkTries = s.linkTries := rfl
@[simp] theorem updBond_sels (s : State) (b : Nat) (f : Bond → Bond) : (updBond s b f).sels = s.sels := rfl
@[simp] theorem updBond_caps (s : State) (b : Nat) (f : Bond → Bond) : (updBond s b f).caps = s.caps := rfl
@[simp] theorem updBond_gens (s : State) (b : Nat) (f : Bond → Bond) : (updBond s b f).gens = s.gens := rfl
@[simp] theorem updBond_sessions (s : State) (b : Nat) (f : Bond → Bond) : (updBond s b f).sessions = s.sessions := rfl
@[simp] theorem updBond_queues (s : State) (b : Nat) (f : Bond → Bond) : (updBond s b f).queues = s.queues := rfl
@[simp] theorem updBond_fences (s : State) (b : Nat) (f : Bond → Bond) : (updBond s b f).fences = s.fences := rfl
@[simp] theorem updBond_regions (s : State) (b : Nat) (f : Bond → Bond) : (updBond s b f).regions = s.regions := rfl
@[simp] theorem updBond_keyObjs (s : State) (b : Nat) (f : Bond → Bond) : (updBond s b f).keyObjs = s.keyObjs := rfl
@[simp] theorem updBond_started (s : State) (b : Nat) (f : Bond → Bond) : (updBond s b f).started = s.started := rfl
@[simp] theorem updBond_nextId (s : State) (b : Nat) (f : Bond → Bond) : (updBond s b f).nextId = s.nextId := rfl
@[simp] theorem updBond_accords (s : State) (b : Nat) (f : Bond → Bond) : (updBond s b f).accords = s.accords := rfl
@[simp] theorem updBond_flaconSeq (s : State) (b : Nat) (f : Bond → Bond) : (updBond s b f).flaconSeq = s.flaconSeq := rfl
@[simp] theorem updBond_channels (s : State) (b : Nat) (f : Bond → Bond) : (updBond s b f).channels = s.channels := rfl
@[simp] theorem updBond_portRes (s : State) (b : Nat) (f : Bond → Bond) : (updBond s b f).portRes = s.portRes := rfl
@[simp] theorem updBond_groups (s : State) (b : Nat) (f : Bond → Bond) : (updBond s b f).groups = s.groups := rfl
@[simp] theorem updBond_slots (s : State) (b : Nat) (f : Bond → Bond) : (updBond s b f).slots = s.slots := rfl
@[simp] theorem updBond_rootsLoaded (s : State) (b : Nat) (f : Bond → Bond) : (updBond s b f).rootsLoaded = s.rootsLoaded := rfl
@[simp] theorem updBond_drbgReady (s : State) (b : Nat) (f : Bond → Bond) : (updBond s b f).drbgReady = s.drbgReady := rfl
@[simp] theorem updBond_entropyFail (s : State) (b : Nat) (f : Bond → Bond) : (updBond s b f).entropyFail = s.entropyFail := rfl
@[simp] theorem updBond_drbgRequests (s : State) (b : Nat) (f : Bond → Bond) : (updBond s b f).drbgRequests = s.drbgRequests := rfl
@[simp] theorem updBond_fills (s : State) (b : Nat) (f : Bond → Bond) : (updBond s b f).fills = s.fills := rfl
@[simp] theorem updBond_spills (s : State) (b : Nat) (f : Bond → Bond) : (updBond s b f).spills = s.spills := rfl
@[simp] theorem updBond_mpes (s : State) (b : Nat) (f : Bond → Bond) : (updBond s b f).mpes = s.mpes := rfl
@[simp] theorem updBond_cores (s : State) (b : Nat) (f : Bond → Bond) : (updBond s b f).cores = s.cores := rfl
@[simp] theorem updBond_responses (s : State) (b : Nat) (f : Bond → Bond) : (updBond s b f).responses = s.responses := rfl
@[simp] theorem updBond_ports (s : State) (b : Nat) (f : Bond → Bond) : (updBond s b f).ports = s.ports := rfl
@[simp] theorem updBond_otus (s : State) (b : Nat) (f : Bond → Bond) : (updBond s b f).otus = s.otus := rfl
@[simp] theorem updBond_extents (s : State) (b : Nat) (f : Bond → Bond) : (updBond s b f).extents = s.extents := rfl
@[simp] theorem updBond_mailboxRoot (s : State) (b : Nat) (f : Bond → Bond) : (updBond s b f).mailboxRoot = s.mailboxRoot := rfl
@[simp] theorem updBond_mailboxHost (s : State) (b : Nat) (f : Bond → Bond) : (updBond s b f).mailboxHost = s.mailboxHost := rfl
@[simp] theorem updBond_invalidations (s : State) (b : Nat) (f : Bond → Bond) : (updBond s b f).invalidations = s.invalidations := rfl
@[simp] theorem updBond_hpe (s : State) (b : Nat) (f : Bond → Bond) : (updBond s b f).hpe = s.hpe := rfl
@[simp] theorem updBond_hubMem (s : State) (b : Nat) (f : Bond → Bond) : (updBond s b f).hubMem = s.hubMem := rfl
@[simp] theorem updBond_gce (s : State) (b : Nat) (f : Bond → Bond) : (updBond s b f).gce = s.gce := rfl
@[simp] theorem updBond_cvus (s : State) (b : Nat) (f : Bond → Bond) : (updBond s b f).cvus = s.cvus := rfl
@[simp] theorem updBond_otp (s : State) (b : Nat) (f : Bond → Bond) : (updBond s b f).otp = s.otp := rfl
@[simp] theorem updBond_lcc (s : State) (b : Nat) (f : Bond → Bond) : (updBond s b f).lcc = s.lcc := rfl
@[simp] theorem updBond_dbg (s : State) (b : Nat) (f : Bond → Bond) : (updBond s b f).dbg = s.dbg := rfl
@[simp] theorem updBond_frs (s : State) (b : Nat) (f : Bond → Bond) : (updBond s b f).frs = s.frs := rfl
@[simp] theorem updBond_bec (s : State) (b : Nat) (f : Bond → Bond) : (updBond s b f).bec = s.bec := rfl
@[simp] theorem updBond_pwr (s : State) (b : Nat) (f : Bond → Bond) : (updBond s b f).pwr = s.pwr := rfl
@[simp] theorem updBond_bist (s : State) (b : Nat) (f : Bond → Bond) : (updBond s b f).bist = s.bist := rfl
@[simp] theorem updBond_cfg (s : State) (b : Nat) (f : Bond → Bond) : (updBond s b f).cfg = s.cfg := rfl
@[simp] theorem updBond_mgmt (s : State) (b : Nat) (f : Bond → Bond) : (updBond s b f).mgmt = s.mgmt := rfl
@[simp] theorem updBond_aon (s : State) (b : Nat) (f : Bond → Bond) : (updBond s b f).aon = s.aon := rfl
@[simp] theorem updBond_fenceReady (s : State) (b : Nat) (f : Bond → Bond) : (updBond s b f).fenceReady = s.fenceReady := rfl
@[simp] theorem updBond_fenceTurn (s : State) (b : Nat) (f : Bond → Bond) : (updBond s b f).fenceTurn = s.fenceTurn := rfl
@[simp] theorem updBond_queueTurn (s : State) (b : Nat) (f : Bond → Bond) : (updBond s b f).queueTurn = s.queueTurn := rfl
@[simp] theorem updBond_drbgSince (s : State) (b : Nat) (f : Bond → Bond) : (updBond s b f).drbgSince = s.drbgSince := rfl
@[simp] theorem updBond_drbgKey (s : State) (b : Nat) (f : Bond → Bond) : (updBond s b f).drbgKey = s.drbgKey := rfl
@[simp] theorem updBond_drbgV (s : State) (b : Nat) (f : Bond → Bond) : (updBond s b f).drbgV = s.drbgV := rfl
@[simp] theorem updBond_mpeKeys (s : State) (b : Nat) (f : Bond → Bond) : (updBond s b f).mpeKeys = s.mpeKeys := rfl
@[simp] theorem updBond_shortfalls (s : State) (b : Nat) (f : Bond → Bond) : (updBond s b f).shortfalls = s.shortfalls := rfl

/-! ### updVf -/

@[simp] theorem updVf_pending (s : State) (v : Nat) (f : Vf → Vf) : (updVf s v f).pending = s.pending := rfl
@[simp] theorem updVf_up (s : State) (v : Nat) (f : Vf → Vf) : (updVf s v f).up = s.up := rfl
@[simp] theorem updVf_time (s : State) (v : Nat) (f : Vf → Vf) : (updVf s v f).time = s.time := rfl
@[simp] theorem updVf_draws (s : State) (v : Nat) (f : Vf → Vf) : (updVf s v f).draws = s.draws := rfl
@[simp] theorem updVf_stamp (s : State) (v : Nat) (f : Vf → Vf) : (updVf s v f).stamp = s.stamp := rfl
@[simp] theorem updVf_chipId (s : State) (v : Nat) (f : Vf → Vf) : (updVf s v f).chipId = s.chipId := rfl
@[simp] theorem updVf_stepping (s : State) (v : Nat) (f : Vf → Vf) : (updVf s v f).stepping = s.stepping := rfl
@[simp] theorem updVf_fwVersion (s : State) (v : Nat) (f : Vf → Vf) : (updVf s v f).fwVersion = s.fwVersion := rfl
@[simp] theorem updVf_fwWritten (s : State) (v : Nat) (f : Vf → Vf) : (updVf s v f).fwWritten = s.fwWritten := rfl
@[simp] theorem updVf_unitOk0 (s : State) (v : Nat) (f : Vf → Vf) : (updVf s v f).unitOk0 = s.unitOk0 := rfl
@[simp] theorem updVf_unitOk1 (s : State) (v : Nat) (f : Vf → Vf) : (updVf s v f).unitOk1 = s.unitOk1 := rfl
@[simp] theorem updVf_scrubRate (s : State) (v : Nat) (f : Vf → Vf) : (updVf s v f).scrubRate = s.scrubRate := rfl
@[simp] theorem updVf_foreignDb (s : State) (v : Nat) (f : Vf → Vf) : (updVf s v f).foreignDb = s.foreignDb := rfl
@[simp] theorem updVf_linksDown (s : State) (v : Nat) (f : Vf → Vf) : (updVf s v f).linksDown = s.linksDown := rfl
@[simp] theorem updVf_linkTries (s : State) (v : Nat) (f : Vf → Vf) : (updVf s v f).linkTries = s.linkTries := rfl
@[simp] theorem updVf_sels (s : State) (v : Nat) (f : Vf → Vf) : (updVf s v f).sels = s.sels := rfl
@[simp] theorem updVf_caps (s : State) (v : Nat) (f : Vf → Vf) : (updVf s v f).caps = s.caps := rfl
@[simp] theorem updVf_gens (s : State) (v : Nat) (f : Vf → Vf) : (updVf s v f).gens = s.gens := rfl
@[simp] theorem updVf_sessions (s : State) (v : Nat) (f : Vf → Vf) : (updVf s v f).sessions = s.sessions := rfl
@[simp] theorem updVf_queues (s : State) (v : Nat) (f : Vf → Vf) : (updVf s v f).queues = s.queues := rfl
@[simp] theorem updVf_fences (s : State) (v : Nat) (f : Vf → Vf) : (updVf s v f).fences = s.fences := rfl
@[simp] theorem updVf_regions (s : State) (v : Nat) (f : Vf → Vf) : (updVf s v f).regions = s.regions := rfl
@[simp] theorem updVf_bonds (s : State) (v : Nat) (f : Vf → Vf) : (updVf s v f).bonds = s.bonds := rfl
@[simp] theorem updVf_keyObjs (s : State) (v : Nat) (f : Vf → Vf) : (updVf s v f).keyObjs = s.keyObjs := rfl
@[simp] theorem updVf_started (s : State) (v : Nat) (f : Vf → Vf) : (updVf s v f).started = s.started := rfl
@[simp] theorem updVf_nextId (s : State) (v : Nat) (f : Vf → Vf) : (updVf s v f).nextId = s.nextId := rfl
@[simp] theorem updVf_accords (s : State) (v : Nat) (f : Vf → Vf) : (updVf s v f).accords = s.accords := rfl
@[simp] theorem updVf_flaconSeq (s : State) (v : Nat) (f : Vf → Vf) : (updVf s v f).flaconSeq = s.flaconSeq := rfl
@[simp] theorem updVf_channels (s : State) (v : Nat) (f : Vf → Vf) : (updVf s v f).channels = s.channels := rfl
@[simp] theorem updVf_portRes (s : State) (v : Nat) (f : Vf → Vf) : (updVf s v f).portRes = s.portRes := rfl
@[simp] theorem updVf_groups (s : State) (v : Nat) (f : Vf → Vf) : (updVf s v f).groups = s.groups := rfl
@[simp] theorem updVf_slots (s : State) (v : Nat) (f : Vf → Vf) : (updVf s v f).slots = s.slots := rfl
@[simp] theorem updVf_rootsLoaded (s : State) (v : Nat) (f : Vf → Vf) : (updVf s v f).rootsLoaded = s.rootsLoaded := rfl
@[simp] theorem updVf_drbgReady (s : State) (v : Nat) (f : Vf → Vf) : (updVf s v f).drbgReady = s.drbgReady := rfl
@[simp] theorem updVf_entropyFail (s : State) (v : Nat) (f : Vf → Vf) : (updVf s v f).entropyFail = s.entropyFail := rfl
@[simp] theorem updVf_drbgRequests (s : State) (v : Nat) (f : Vf → Vf) : (updVf s v f).drbgRequests = s.drbgRequests := rfl
@[simp] theorem updVf_fills (s : State) (v : Nat) (f : Vf → Vf) : (updVf s v f).fills = s.fills := rfl
@[simp] theorem updVf_spills (s : State) (v : Nat) (f : Vf → Vf) : (updVf s v f).spills = s.spills := rfl
@[simp] theorem updVf_mpes (s : State) (v : Nat) (f : Vf → Vf) : (updVf s v f).mpes = s.mpes := rfl
@[simp] theorem updVf_cores (s : State) (v : Nat) (f : Vf → Vf) : (updVf s v f).cores = s.cores := rfl
@[simp] theorem updVf_responses (s : State) (v : Nat) (f : Vf → Vf) : (updVf s v f).responses = s.responses := rfl
@[simp] theorem updVf_ports (s : State) (v : Nat) (f : Vf → Vf) : (updVf s v f).ports = s.ports := rfl
@[simp] theorem updVf_otus (s : State) (v : Nat) (f : Vf → Vf) : (updVf s v f).otus = s.otus := rfl
@[simp] theorem updVf_extents (s : State) (v : Nat) (f : Vf → Vf) : (updVf s v f).extents = s.extents := rfl
@[simp] theorem updVf_mailboxRoot (s : State) (v : Nat) (f : Vf → Vf) : (updVf s v f).mailboxRoot = s.mailboxRoot := rfl
@[simp] theorem updVf_mailboxHost (s : State) (v : Nat) (f : Vf → Vf) : (updVf s v f).mailboxHost = s.mailboxHost := rfl
@[simp] theorem updVf_invalidations (s : State) (v : Nat) (f : Vf → Vf) : (updVf s v f).invalidations = s.invalidations := rfl
@[simp] theorem updVf_hubMem (s : State) (v : Nat) (f : Vf → Vf) : (updVf s v f).hubMem = s.hubMem := rfl
@[simp] theorem updVf_gce (s : State) (v : Nat) (f : Vf → Vf) : (updVf s v f).gce = s.gce := rfl
@[simp] theorem updVf_cvus (s : State) (v : Nat) (f : Vf → Vf) : (updVf s v f).cvus = s.cvus := rfl
@[simp] theorem updVf_otp (s : State) (v : Nat) (f : Vf → Vf) : (updVf s v f).otp = s.otp := rfl
@[simp] theorem updVf_lcc (s : State) (v : Nat) (f : Vf → Vf) : (updVf s v f).lcc = s.lcc := rfl
@[simp] theorem updVf_dbg (s : State) (v : Nat) (f : Vf → Vf) : (updVf s v f).dbg = s.dbg := rfl
@[simp] theorem updVf_frs (s : State) (v : Nat) (f : Vf → Vf) : (updVf s v f).frs = s.frs := rfl
@[simp] theorem updVf_bec (s : State) (v : Nat) (f : Vf → Vf) : (updVf s v f).bec = s.bec := rfl
@[simp] theorem updVf_pwr (s : State) (v : Nat) (f : Vf → Vf) : (updVf s v f).pwr = s.pwr := rfl
@[simp] theorem updVf_bist (s : State) (v : Nat) (f : Vf → Vf) : (updVf s v f).bist = s.bist := rfl
@[simp] theorem updVf_cfg (s : State) (v : Nat) (f : Vf → Vf) : (updVf s v f).cfg = s.cfg := rfl
@[simp] theorem updVf_mgmt (s : State) (v : Nat) (f : Vf → Vf) : (updVf s v f).mgmt = s.mgmt := rfl
@[simp] theorem updVf_aon (s : State) (v : Nat) (f : Vf → Vf) : (updVf s v f).aon = s.aon := rfl
@[simp] theorem updVf_fenceReady (s : State) (v : Nat) (f : Vf → Vf) : (updVf s v f).fenceReady = s.fenceReady := rfl
@[simp] theorem updVf_fenceTurn (s : State) (v : Nat) (f : Vf → Vf) : (updVf s v f).fenceTurn = s.fenceTurn := rfl
@[simp] theorem updVf_queueTurn (s : State) (v : Nat) (f : Vf → Vf) : (updVf s v f).queueTurn = s.queueTurn := rfl
@[simp] theorem updVf_drbgSince (s : State) (v : Nat) (f : Vf → Vf) : (updVf s v f).drbgSince = s.drbgSince := rfl
@[simp] theorem updVf_drbgKey (s : State) (v : Nat) (f : Vf → Vf) : (updVf s v f).drbgKey = s.drbgKey := rfl
@[simp] theorem updVf_drbgV (s : State) (v : Nat) (f : Vf → Vf) : (updVf s v f).drbgV = s.drbgV := rfl
@[simp] theorem updVf_mpeKeys (s : State) (v : Nat) (f : Vf → Vf) : (updVf s v f).mpeKeys = s.mpeKeys := rfl
@[simp] theorem updVf_shortfalls (s : State) (v : Nat) (f : Vf → Vf) : (updVf s v f).shortfalls = s.shortfalls := rfl

/-! ### setRes -/

@[simp] theorem setRes_pending (s : State) (k : ResKind) (n : Nat) (r : Res) : (setRes s k n r).pending = s.pending := by cases k <;> rfl
@[simp] theorem setRes_up (s : State) (k : ResKind) (n : Nat) (r : Res) : (setRes s k n r).up = s.up := by cases k <;> rfl
@[simp] theorem setRes_time (s : State) (k : ResKind) (n : Nat) (r : Res) : (setRes s k n r).time = s.time := by cases k <;> rfl
@[simp] theorem setRes_draws (s : State) (k : ResKind) (n : Nat) (r : Res) : (setRes s k n r).draws = s.draws := by cases k <;> rfl
@[simp] theorem setRes_stamp (s : State) (k : ResKind) (n : Nat) (r : Res) : (setRes s k n r).stamp = s.stamp := by cases k <;> rfl
@[simp] theorem setRes_chipId (s : State) (k : ResKind) (n : Nat) (r : Res) : (setRes s k n r).chipId = s.chipId := by cases k <;> rfl
@[simp] theorem setRes_stepping (s : State) (k : ResKind) (n : Nat) (r : Res) : (setRes s k n r).stepping = s.stepping := by cases k <;> rfl
@[simp] theorem setRes_fwVersion (s : State) (k : ResKind) (n : Nat) (r : Res) : (setRes s k n r).fwVersion = s.fwVersion := by cases k <;> rfl
@[simp] theorem setRes_fwWritten (s : State) (k : ResKind) (n : Nat) (r : Res) : (setRes s k n r).fwWritten = s.fwWritten := by cases k <;> rfl
@[simp] theorem setRes_unitOk0 (s : State) (k : ResKind) (n : Nat) (r : Res) : (setRes s k n r).unitOk0 = s.unitOk0 := by cases k <;> rfl
@[simp] theorem setRes_unitOk1 (s : State) (k : ResKind) (n : Nat) (r : Res) : (setRes s k n r).unitOk1 = s.unitOk1 := by cases k <;> rfl
@[simp] theorem setRes_scrubRate (s : State) (k : ResKind) (n : Nat) (r : Res) : (setRes s k n r).scrubRate = s.scrubRate := by cases k <;> rfl
@[simp] theorem setRes_foreignDb (s : State) (k : ResKind) (n : Nat) (r : Res) : (setRes s k n r).foreignDb = s.foreignDb := by cases k <;> rfl
@[simp] theorem setRes_linksDown (s : State) (k : ResKind) (n : Nat) (r : Res) : (setRes s k n r).linksDown = s.linksDown := by cases k <;> rfl
@[simp] theorem setRes_linkTries (s : State) (k : ResKind) (n : Nat) (r : Res) : (setRes s k n r).linkTries = s.linkTries := by cases k <;> rfl
@[simp] theorem setRes_sels (s : State) (k : ResKind) (n : Nat) (r : Res) : (setRes s k n r).sels = s.sels := by cases k <;> rfl
@[simp] theorem setRes_caps (s : State) (k : ResKind) (n : Nat) (r : Res) : (setRes s k n r).caps = s.caps := by cases k <;> rfl
@[simp] theorem setRes_gens (s : State) (k : ResKind) (n : Nat) (r : Res) : (setRes s k n r).gens = s.gens := by cases k <;> rfl
@[simp] theorem setRes_sessions (s : State) (k : ResKind) (n : Nat) (r : Res) : (setRes s k n r).sessions = s.sessions := by cases k <;> rfl
@[simp] theorem setRes_queues (s : State) (k : ResKind) (n : Nat) (r : Res) : (setRes s k n r).queues = s.queues := by cases k <;> rfl
@[simp] theorem setRes_fences (s : State) (k : ResKind) (n : Nat) (r : Res) : (setRes s k n r).fences = s.fences := by cases k <;> rfl
@[simp] theorem setRes_regions (s : State) (k : ResKind) (n : Nat) (r : Res) : (setRes s k n r).regions = s.regions := by cases k <;> rfl
@[simp] theorem setRes_bonds (s : State) (k : ResKind) (n : Nat) (r : Res) : (setRes s k n r).bonds = s.bonds := by cases k <;> rfl
@[simp] theorem setRes_keyObjs (s : State) (k : ResKind) (n : Nat) (r : Res) : (setRes s k n r).keyObjs = s.keyObjs := by cases k <;> rfl
@[simp] theorem setRes_started (s : State) (k : ResKind) (n : Nat) (r : Res) : (setRes s k n r).started = s.started := by cases k <;> rfl
@[simp] theorem setRes_nextId (s : State) (k : ResKind) (n : Nat) (r : Res) : (setRes s k n r).nextId = s.nextId := by cases k <;> rfl
@[simp] theorem setRes_accords (s : State) (k : ResKind) (n : Nat) (r : Res) : (setRes s k n r).accords = s.accords := by cases k <;> rfl
@[simp] theorem setRes_flaconSeq (s : State) (k : ResKind) (n : Nat) (r : Res) : (setRes s k n r).flaconSeq = s.flaconSeq := by cases k <;> rfl
@[simp] theorem setRes_slots (s : State) (k : ResKind) (n : Nat) (r : Res) : (setRes s k n r).slots = s.slots := by cases k <;> rfl
@[simp] theorem setRes_rootsLoaded (s : State) (k : ResKind) (n : Nat) (r : Res) : (setRes s k n r).rootsLoaded = s.rootsLoaded := by cases k <;> rfl
@[simp] theorem setRes_drbgReady (s : State) (k : ResKind) (n : Nat) (r : Res) : (setRes s k n r).drbgReady = s.drbgReady := by cases k <;> rfl
@[simp] theorem setRes_entropyFail (s : State) (k : ResKind) (n : Nat) (r : Res) : (setRes s k n r).entropyFail = s.entropyFail := by cases k <;> rfl
@[simp] theorem setRes_drbgRequests (s : State) (k : ResKind) (n : Nat) (r : Res) : (setRes s k n r).drbgRequests = s.drbgRequests := by cases k <;> rfl
@[simp] theorem setRes_fills (s : State) (k : ResKind) (n : Nat) (r : Res) : (setRes s k n r).fills = s.fills := by cases k <;> rfl
@[simp] theorem setRes_spills (s : State) (k : ResKind) (n : Nat) (r : Res) : (setRes s k n r).spills = s.spills := by cases k <;> rfl
@[simp] theorem setRes_mpes (s : State) (k : ResKind) (n : Nat) (r : Res) : (setRes s k n r).mpes = s.mpes := by cases k <;> rfl
@[simp] theorem setRes_cores (s : State) (k : ResKind) (n : Nat) (r : Res) : (setRes s k n r).cores = s.cores := by cases k <;> rfl
@[simp] theorem setRes_responses (s : State) (k : ResKind) (n : Nat) (r : Res) : (setRes s k n r).responses = s.responses := by cases k <;> rfl
@[simp] theorem setRes_ports (s : State) (k : ResKind) (n : Nat) (r : Res) : (setRes s k n r).ports = s.ports := by cases k <;> rfl
@[simp] theorem setRes_otus (s : State) (k : ResKind) (n : Nat) (r : Res) : (setRes s k n r).otus = s.otus := by cases k <;> rfl
@[simp] theorem setRes_extents (s : State) (k : ResKind) (n : Nat) (r : Res) : (setRes s k n r).extents = s.extents := by cases k <;> rfl
@[simp] theorem setRes_mailboxRoot (s : State) (k : ResKind) (n : Nat) (r : Res) : (setRes s k n r).mailboxRoot = s.mailboxRoot := by cases k <;> rfl
@[simp] theorem setRes_mailboxHost (s : State) (k : ResKind) (n : Nat) (r : Res) : (setRes s k n r).mailboxHost = s.mailboxHost := by cases k <;> rfl
@[simp] theorem setRes_invalidations (s : State) (k : ResKind) (n : Nat) (r : Res) : (setRes s k n r).invalidations = s.invalidations := by cases k <;> rfl
@[simp] theorem setRes_hpe (s : State) (k : ResKind) (n : Nat) (r : Res) : (setRes s k n r).hpe = s.hpe := by cases k <;> rfl
@[simp] theorem setRes_hubMem (s : State) (k : ResKind) (n : Nat) (r : Res) : (setRes s k n r).hubMem = s.hubMem := by cases k <;> rfl
@[simp] theorem setRes_gce (s : State) (k : ResKind) (n : Nat) (r : Res) : (setRes s k n r).gce = s.gce := by cases k <;> rfl
@[simp] theorem setRes_cvus (s : State) (k : ResKind) (n : Nat) (r : Res) : (setRes s k n r).cvus = s.cvus := by cases k <;> rfl
@[simp] theorem setRes_otp (s : State) (k : ResKind) (n : Nat) (r : Res) : (setRes s k n r).otp = s.otp := by cases k <;> rfl
@[simp] theorem setRes_lcc (s : State) (k : ResKind) (n : Nat) (r : Res) : (setRes s k n r).lcc = s.lcc := by cases k <;> rfl
@[simp] theorem setRes_dbg (s : State) (k : ResKind) (n : Nat) (r : Res) : (setRes s k n r).dbg = s.dbg := by cases k <;> rfl
@[simp] theorem setRes_frs (s : State) (k : ResKind) (n : Nat) (r : Res) : (setRes s k n r).frs = s.frs := by cases k <;> rfl
@[simp] theorem setRes_bec (s : State) (k : ResKind) (n : Nat) (r : Res) : (setRes s k n r).bec = s.bec := by cases k <;> rfl
@[simp] theorem setRes_pwr (s : State) (k : ResKind) (n : Nat) (r : Res) : (setRes s k n r).pwr = s.pwr := by cases k <;> rfl
@[simp] theorem setRes_bist (s : State) (k : ResKind) (n : Nat) (r : Res) : (setRes s k n r).bist = s.bist := by cases k <;> rfl
@[simp] theorem setRes_cfg (s : State) (k : ResKind) (n : Nat) (r : Res) : (setRes s k n r).cfg = s.cfg := by cases k <;> rfl
@[simp] theorem setRes_mgmt (s : State) (k : ResKind) (n : Nat) (r : Res) : (setRes s k n r).mgmt = s.mgmt := by cases k <;> rfl
@[simp] theorem setRes_aon (s : State) (k : ResKind) (n : Nat) (r : Res) : (setRes s k n r).aon = s.aon := by cases k <;> rfl

/-! ### pulse -/

@[simp] theorem pulse_pending (s : State) (n : Nat) : (pulse s n).pending = s.pending := rfl
@[simp] theorem pulse_up (s : State) (n : Nat) : (pulse s n).up = s.up := rfl
@[simp] theorem pulse_time (s : State) (n : Nat) : (pulse s n).time = s.time := rfl
@[simp] theorem pulse_draws (s : State) (n : Nat) : (pulse s n).draws = s.draws := rfl
@[simp] theorem pulse_stamp (s : State) (n : Nat) : (pulse s n).stamp = s.stamp := rfl
@[simp] theorem pulse_chipId (s : State) (n : Nat) : (pulse s n).chipId = s.chipId := rfl
@[simp] theorem pulse_stepping (s : State) (n : Nat) : (pulse s n).stepping = s.stepping := rfl
@[simp] theorem pulse_fwVersion (s : State) (n : Nat) : (pulse s n).fwVersion = s.fwVersion := rfl
@[simp] theorem pulse_fwWritten (s : State) (n : Nat) : (pulse s n).fwWritten = s.fwWritten := rfl
@[simp] theorem pulse_unitOk0 (s : State) (n : Nat) : (pulse s n).unitOk0 = s.unitOk0 := rfl
@[simp] theorem pulse_unitOk1 (s : State) (n : Nat) : (pulse s n).unitOk1 = s.unitOk1 := rfl
@[simp] theorem pulse_scrubRate (s : State) (n : Nat) : (pulse s n).scrubRate = s.scrubRate := rfl
@[simp] theorem pulse_foreignDb (s : State) (n : Nat) : (pulse s n).foreignDb = s.foreignDb := rfl
@[simp] theorem pulse_linksDown (s : State) (n : Nat) : (pulse s n).linksDown = s.linksDown := rfl
@[simp] theorem pulse_linkTries (s : State) (n : Nat) : (pulse s n).linkTries = s.linkTries := rfl
@[simp] theorem pulse_sels (s : State) (n : Nat) : (pulse s n).sels = s.sels := rfl
@[simp] theorem pulse_caps (s : State) (n : Nat) : (pulse s n).caps = s.caps := rfl
@[simp] theorem pulse_gens (s : State) (n : Nat) : (pulse s n).gens = s.gens := rfl
@[simp] theorem pulse_sessions (s : State) (n : Nat) : (pulse s n).sessions = s.sessions := rfl
@[simp] theorem pulse_queues (s : State) (n : Nat) : (pulse s n).queues = s.queues := rfl
@[simp] theorem pulse_fences (s : State) (n : Nat) : (pulse s n).fences = s.fences := rfl
@[simp] theorem pulse_regions (s : State) (n : Nat) : (pulse s n).regions = s.regions := rfl
@[simp] theorem pulse_bonds (s : State) (n : Nat) : (pulse s n).bonds = s.bonds := rfl
@[simp] theorem pulse_keyObjs (s : State) (n : Nat) : (pulse s n).keyObjs = s.keyObjs := rfl
@[simp] theorem pulse_started (s : State) (n : Nat) : (pulse s n).started = s.started := rfl
@[simp] theorem pulse_nextId (s : State) (n : Nat) : (pulse s n).nextId = s.nextId := rfl
@[simp] theorem pulse_accords (s : State) (n : Nat) : (pulse s n).accords = s.accords := rfl
@[simp] theorem pulse_flaconSeq (s : State) (n : Nat) : (pulse s n).flaconSeq = s.flaconSeq := rfl
@[simp] theorem pulse_channels (s : State) (n : Nat) : (pulse s n).channels = s.channels := rfl
@[simp] theorem pulse_portRes (s : State) (n : Nat) : (pulse s n).portRes = s.portRes := rfl
@[simp] theorem pulse_groups (s : State) (n : Nat) : (pulse s n).groups = s.groups := rfl
@[simp] theorem pulse_slots (s : State) (n : Nat) : (pulse s n).slots = s.slots := rfl
@[simp] theorem pulse_rootsLoaded (s : State) (n : Nat) : (pulse s n).rootsLoaded = s.rootsLoaded := rfl
@[simp] theorem pulse_drbgReady (s : State) (n : Nat) : (pulse s n).drbgReady = s.drbgReady := rfl
@[simp] theorem pulse_entropyFail (s : State) (n : Nat) : (pulse s n).entropyFail = s.entropyFail := rfl
@[simp] theorem pulse_drbgRequests (s : State) (n : Nat) : (pulse s n).drbgRequests = s.drbgRequests := rfl
@[simp] theorem pulse_fills (s : State) (n : Nat) : (pulse s n).fills = s.fills := rfl
@[simp] theorem pulse_spills (s : State) (n : Nat) : (pulse s n).spills = s.spills := rfl
@[simp] theorem pulse_mpes (s : State) (n : Nat) : (pulse s n).mpes = s.mpes := rfl
@[simp] theorem pulse_cores (s : State) (n : Nat) : (pulse s n).cores = s.cores := rfl
@[simp] theorem pulse_responses (s : State) (n : Nat) : (pulse s n).responses = s.responses := rfl
@[simp] theorem pulse_ports (s : State) (n : Nat) : (pulse s n).ports = s.ports := rfl
@[simp] theorem pulse_otus (s : State) (n : Nat) : (pulse s n).otus = s.otus := rfl
@[simp] theorem pulse_extents (s : State) (n : Nat) : (pulse s n).extents = s.extents := rfl
@[simp] theorem pulse_mailboxRoot (s : State) (n : Nat) : (pulse s n).mailboxRoot = s.mailboxRoot := rfl
@[simp] theorem pulse_mailboxHost (s : State) (n : Nat) : (pulse s n).mailboxHost = s.mailboxHost := rfl
@[simp] theorem pulse_invalidations (s : State) (n : Nat) : (pulse s n).invalidations = s.invalidations := rfl
@[simp] theorem pulse_hpe (s : State) (n : Nat) : (pulse s n).hpe = s.hpe := rfl
@[simp] theorem pulse_hubMem (s : State) (n : Nat) : (pulse s n).hubMem = s.hubMem := rfl
@[simp] theorem pulse_gce (s : State) (n : Nat) : (pulse s n).gce = s.gce := rfl
@[simp] theorem pulse_cvus (s : State) (n : Nat) : (pulse s n).cvus = s.cvus := rfl
@[simp] theorem pulse_otp (s : State) (n : Nat) : (pulse s n).otp = s.otp := rfl
@[simp] theorem pulse_lcc (s : State) (n : Nat) : (pulse s n).lcc = s.lcc := rfl
@[simp] theorem pulse_dbg (s : State) (n : Nat) : (pulse s n).dbg = s.dbg := rfl
@[simp] theorem pulse_frs (s : State) (n : Nat) : (pulse s n).frs = s.frs := rfl
@[simp] theorem pulse_pwr (s : State) (n : Nat) : (pulse s n).pwr = s.pwr := rfl
@[simp] theorem pulse_bist (s : State) (n : Nat) : (pulse s n).bist = s.bist := rfl
@[simp] theorem pulse_cfg (s : State) (n : Nat) : (pulse s n).cfg = s.cfg := rfl
@[simp] theorem pulse_mgmt (s : State) (n : Nat) : (pulse s n).mgmt = s.mgmt := rfl
@[simp] theorem pulse_aon (s : State) (n : Nat) : (pulse s n).aon = s.aon := rfl
@[simp] theorem pulse_fenceReady (s : State) (n : Nat) : (pulse s n).fenceReady = s.fenceReady := rfl
@[simp] theorem pulse_fenceTurn (s : State) (n : Nat) : (pulse s n).fenceTurn = s.fenceTurn := rfl
@[simp] theorem pulse_queueTurn (s : State) (n : Nat) : (pulse s n).queueTurn = s.queueTurn := rfl
@[simp] theorem pulse_drbgSince (s : State) (n : Nat) : (pulse s n).drbgSince = s.drbgSince := rfl
@[simp] theorem pulse_drbgKey (s : State) (n : Nat) : (pulse s n).drbgKey = s.drbgKey := rfl
@[simp] theorem pulse_drbgV (s : State) (n : Nat) : (pulse s n).drbgV = s.drbgV := rfl
@[simp] theorem pulse_mpeKeys (s : State) (n : Nat) : (pulse s n).mpeKeys = s.mpeKeys := rfl
@[simp] theorem pulse_shortfalls (s : State) (n : Nat) : (pulse s n).shortfalls = s.shortfalls := rfl

/-! ### settle -/

@[simp] theorem settle_pending (s : State) : (settle s).pending = s.pending := rfl
@[simp] theorem settle_up (s : State) : (settle s).up = s.up := rfl
@[simp] theorem settle_time (s : State) : (settle s).time = s.time := rfl
@[simp] theorem settle_draws (s : State) : (settle s).draws = s.draws := rfl
@[simp] theorem settle_stamp (s : State) : (settle s).stamp = s.stamp := rfl
@[simp] theorem settle_chipId (s : State) : (settle s).chipId = s.chipId := rfl
@[simp] theorem settle_stepping (s : State) : (settle s).stepping = s.stepping := rfl
@[simp] theorem settle_fwVersion (s : State) : (settle s).fwVersion = s.fwVersion := rfl
@[simp] theorem settle_fwWritten (s : State) : (settle s).fwWritten = s.fwWritten := rfl
@[simp] theorem settle_unitOk0 (s : State) : (settle s).unitOk0 = s.unitOk0 := rfl
@[simp] theorem settle_unitOk1 (s : State) : (settle s).unitOk1 = s.unitOk1 := rfl
@[simp] theorem settle_scrubRate (s : State) : (settle s).scrubRate = s.scrubRate := rfl
@[simp] theorem settle_foreignDb (s : State) : (settle s).foreignDb = s.foreignDb := rfl
@[simp] theorem settle_linksDown (s : State) : (settle s).linksDown = s.linksDown := rfl
@[simp] theorem settle_linkTries (s : State) : (settle s).linkTries = s.linkTries := rfl
@[simp] theorem settle_sels (s : State) : (settle s).sels = s.sels := rfl
@[simp] theorem settle_caps (s : State) : (settle s).caps = s.caps := rfl
@[simp] theorem settle_gens (s : State) : (settle s).gens = s.gens := rfl
@[simp] theorem settle_sessions (s : State) : (settle s).sessions = s.sessions := rfl
@[simp] theorem settle_queues (s : State) : (settle s).queues = s.queues := rfl
@[simp] theorem settle_fences (s : State) : (settle s).fences = s.fences := rfl
@[simp] theorem settle_regions (s : State) : (settle s).regions = s.regions := rfl
@[simp] theorem settle_bonds (s : State) : (settle s).bonds = s.bonds := rfl
@[simp] theorem settle_keyObjs (s : State) : (settle s).keyObjs = s.keyObjs := rfl
@[simp] theorem settle_started (s : State) : (settle s).started = s.started := rfl
@[simp] theorem settle_nextId (s : State) : (settle s).nextId = s.nextId := rfl
@[simp] theorem settle_accords (s : State) : (settle s).accords = s.accords := rfl
@[simp] theorem settle_flaconSeq (s : State) : (settle s).flaconSeq = s.flaconSeq := rfl
@[simp] theorem settle_channels (s : State) : (settle s).channels = s.channels := rfl
@[simp] theorem settle_portRes (s : State) : (settle s).portRes = s.portRes := rfl
@[simp] theorem settle_groups (s : State) : (settle s).groups = s.groups := rfl
@[simp] theorem settle_slots (s : State) : (settle s).slots = s.slots := rfl
@[simp] theorem settle_rootsLoaded (s : State) : (settle s).rootsLoaded = s.rootsLoaded := rfl
@[simp] theorem settle_drbgReady (s : State) : (settle s).drbgReady = s.drbgReady := rfl
@[simp] theorem settle_entropyFail (s : State) : (settle s).entropyFail = s.entropyFail := rfl
@[simp] theorem settle_drbgRequests (s : State) : (settle s).drbgRequests = s.drbgRequests := rfl
@[simp] theorem settle_fills (s : State) : (settle s).fills = s.fills := rfl
@[simp] theorem settle_spills (s : State) : (settle s).spills = s.spills := rfl
@[simp] theorem settle_mpes (s : State) : (settle s).mpes = s.mpes := rfl
@[simp] theorem settle_cores (s : State) : (settle s).cores = s.cores := rfl
@[simp] theorem settle_responses (s : State) : (settle s).responses = s.responses := rfl
@[simp] theorem settle_ports (s : State) : (settle s).ports = s.ports := rfl
@[simp] theorem settle_otus (s : State) : (settle s).otus = s.otus := rfl
@[simp] theorem settle_extents (s : State) : (settle s).extents = s.extents := rfl
@[simp] theorem settle_mailboxRoot (s : State) : (settle s).mailboxRoot = s.mailboxRoot := rfl
@[simp] theorem settle_mailboxHost (s : State) : (settle s).mailboxHost = s.mailboxHost := rfl
@[simp] theorem settle_invalidations (s : State) : (settle s).invalidations = s.invalidations := rfl
@[simp] theorem settle_hpe (s : State) : (settle s).hpe = s.hpe := rfl
@[simp] theorem settle_hubMem (s : State) : (settle s).hubMem = s.hubMem := rfl
@[simp] theorem settle_gce (s : State) : (settle s).gce = s.gce := rfl
@[simp] theorem settle_cvus (s : State) : (settle s).cvus = s.cvus := rfl
@[simp] theorem settle_otp (s : State) : (settle s).otp = s.otp := rfl
@[simp] theorem settle_lcc (s : State) : (settle s).lcc = s.lcc := rfl
@[simp] theorem settle_dbg (s : State) : (settle s).dbg = s.dbg := rfl
@[simp] theorem settle_frs (s : State) : (settle s).frs = s.frs := rfl
@[simp] theorem settle_pwr (s : State) : (settle s).pwr = s.pwr := rfl
@[simp] theorem settle_bist (s : State) : (settle s).bist = s.bist := rfl
@[simp] theorem settle_cfg (s : State) : (settle s).cfg = s.cfg := rfl
@[simp] theorem settle_mgmt (s : State) : (settle s).mgmt = s.mgmt := rfl
@[simp] theorem settle_aon (s : State) : (settle s).aon = s.aon := rfl
@[simp] theorem settle_fenceReady (s : State) : (settle s).fenceReady = s.fenceReady := rfl
@[simp] theorem settle_fenceTurn (s : State) : (settle s).fenceTurn = s.fenceTurn := rfl
@[simp] theorem settle_queueTurn (s : State) : (settle s).queueTurn = s.queueTurn := rfl
@[simp] theorem settle_drbgSince (s : State) : (settle s).drbgSince = s.drbgSince := rfl
@[simp] theorem settle_drbgKey (s : State) : (settle s).drbgKey = s.drbgKey := rfl
@[simp] theorem settle_drbgV (s : State) : (settle s).drbgV = s.drbgV := rfl
@[simp] theorem settle_mpeKeys (s : State) : (settle s).mpeKeys = s.mpeKeys := rfl
@[simp] theorem settle_shortfalls (s : State) : (settle s).shortfalls = s.shortfalls := rfl

/-! ### drawNat -/

@[simp] theorem drawNat_pending (s : State) : ((drawNat s).1).pending = s.pending := rfl
@[simp] theorem drawNat_up (s : State) : ((drawNat s).1).up = s.up := rfl
@[simp] theorem drawNat_time (s : State) : ((drawNat s).1).time = s.time := rfl
@[simp] theorem drawNat_stamp (s : State) : ((drawNat s).1).stamp = s.stamp := rfl
@[simp] theorem drawNat_chipId (s : State) : ((drawNat s).1).chipId = s.chipId := rfl
@[simp] theorem drawNat_stepping (s : State) : ((drawNat s).1).stepping = s.stepping := rfl
@[simp] theorem drawNat_fwVersion (s : State) : ((drawNat s).1).fwVersion = s.fwVersion := rfl
@[simp] theorem drawNat_fwWritten (s : State) : ((drawNat s).1).fwWritten = s.fwWritten := rfl
@[simp] theorem drawNat_unitOk0 (s : State) : ((drawNat s).1).unitOk0 = s.unitOk0 := rfl
@[simp] theorem drawNat_unitOk1 (s : State) : ((drawNat s).1).unitOk1 = s.unitOk1 := rfl
@[simp] theorem drawNat_scrubRate (s : State) : ((drawNat s).1).scrubRate = s.scrubRate := rfl
@[simp] theorem drawNat_foreignDb (s : State) : ((drawNat s).1).foreignDb = s.foreignDb := rfl
@[simp] theorem drawNat_linksDown (s : State) : ((drawNat s).1).linksDown = s.linksDown := rfl
@[simp] theorem drawNat_linkTries (s : State) : ((drawNat s).1).linkTries = s.linkTries := rfl
@[simp] theorem drawNat_sels (s : State) : ((drawNat s).1).sels = s.sels := rfl
@[simp] theorem drawNat_caps (s : State) : ((drawNat s).1).caps = s.caps := rfl
@[simp] theorem drawNat_gens (s : State) : ((drawNat s).1).gens = s.gens := rfl
@[simp] theorem drawNat_sessions (s : State) : ((drawNat s).1).sessions = s.sessions := rfl
@[simp] theorem drawNat_queues (s : State) : ((drawNat s).1).queues = s.queues := rfl
@[simp] theorem drawNat_fences (s : State) : ((drawNat s).1).fences = s.fences := rfl
@[simp] theorem drawNat_regions (s : State) : ((drawNat s).1).regions = s.regions := rfl
@[simp] theorem drawNat_bonds (s : State) : ((drawNat s).1).bonds = s.bonds := rfl
@[simp] theorem drawNat_keyObjs (s : State) : ((drawNat s).1).keyObjs = s.keyObjs := rfl
@[simp] theorem drawNat_started (s : State) : ((drawNat s).1).started = s.started := rfl
@[simp] theorem drawNat_nextId (s : State) : ((drawNat s).1).nextId = s.nextId := rfl
@[simp] theorem drawNat_accords (s : State) : ((drawNat s).1).accords = s.accords := rfl
@[simp] theorem drawNat_flaconSeq (s : State) : ((drawNat s).1).flaconSeq = s.flaconSeq := rfl
@[simp] theorem drawNat_channels (s : State) : ((drawNat s).1).channels = s.channels := rfl
@[simp] theorem drawNat_portRes (s : State) : ((drawNat s).1).portRes = s.portRes := rfl
@[simp] theorem drawNat_groups (s : State) : ((drawNat s).1).groups = s.groups := rfl
@[simp] theorem drawNat_slots (s : State) : ((drawNat s).1).slots = s.slots := rfl
@[simp] theorem drawNat_rootsLoaded (s : State) : ((drawNat s).1).rootsLoaded = s.rootsLoaded := rfl
@[simp] theorem drawNat_drbgReady (s : State) : ((drawNat s).1).drbgReady = s.drbgReady := rfl
@[simp] theorem drawNat_entropyFail (s : State) : ((drawNat s).1).entropyFail = s.entropyFail := rfl
@[simp] theorem drawNat_drbgRequests (s : State) : ((drawNat s).1).drbgRequests = s.drbgRequests := rfl
@[simp] theorem drawNat_fills (s : State) : ((drawNat s).1).fills = s.fills := rfl
@[simp] theorem drawNat_spills (s : State) : ((drawNat s).1).spills = s.spills := rfl
@[simp] theorem drawNat_mpes (s : State) : ((drawNat s).1).mpes = s.mpes := rfl
@[simp] theorem drawNat_cores (s : State) : ((drawNat s).1).cores = s.cores := rfl
@[simp] theorem drawNat_responses (s : State) : ((drawNat s).1).responses = s.responses := rfl
@[simp] theorem drawNat_ports (s : State) : ((drawNat s).1).ports = s.ports := rfl
@[simp] theorem drawNat_otus (s : State) : ((drawNat s).1).otus = s.otus := rfl
@[simp] theorem drawNat_extents (s : State) : ((drawNat s).1).extents = s.extents := rfl
@[simp] theorem drawNat_mailboxRoot (s : State) : ((drawNat s).1).mailboxRoot = s.mailboxRoot := rfl
@[simp] theorem drawNat_mailboxHost (s : State) : ((drawNat s).1).mailboxHost = s.mailboxHost := rfl
@[simp] theorem drawNat_invalidations (s : State) : ((drawNat s).1).invalidations = s.invalidations := rfl
@[simp] theorem drawNat_hpe (s : State) : ((drawNat s).1).hpe = s.hpe := rfl
@[simp] theorem drawNat_hubMem (s : State) : ((drawNat s).1).hubMem = s.hubMem := rfl
@[simp] theorem drawNat_gce (s : State) : ((drawNat s).1).gce = s.gce := rfl
@[simp] theorem drawNat_cvus (s : State) : ((drawNat s).1).cvus = s.cvus := rfl
@[simp] theorem drawNat_otp (s : State) : ((drawNat s).1).otp = s.otp := rfl
@[simp] theorem drawNat_lcc (s : State) : ((drawNat s).1).lcc = s.lcc := rfl
@[simp] theorem drawNat_dbg (s : State) : ((drawNat s).1).dbg = s.dbg := rfl
@[simp] theorem drawNat_frs (s : State) : ((drawNat s).1).frs = s.frs := rfl
@[simp] theorem drawNat_bec (s : State) : ((drawNat s).1).bec = s.bec := rfl
@[simp] theorem drawNat_pwr (s : State) : ((drawNat s).1).pwr = s.pwr := rfl
@[simp] theorem drawNat_bist (s : State) : ((drawNat s).1).bist = s.bist := rfl
@[simp] theorem drawNat_cfg (s : State) : ((drawNat s).1).cfg = s.cfg := rfl
@[simp] theorem drawNat_mgmt (s : State) : ((drawNat s).1).mgmt = s.mgmt := rfl
@[simp] theorem drawNat_aon (s : State) : ((drawNat s).1).aon = s.aon := rfl
@[simp] theorem drawNat_fenceReady (s : State) : ((drawNat s).1).fenceReady = s.fenceReady := rfl
@[simp] theorem drawNat_fenceTurn (s : State) : ((drawNat s).1).fenceTurn = s.fenceTurn := rfl
@[simp] theorem drawNat_queueTurn (s : State) : ((drawNat s).1).queueTurn = s.queueTurn := rfl
@[simp] theorem drawNat_drbgSince (s : State) : ((drawNat s).1).drbgSince = s.drbgSince := rfl
@[simp] theorem drawNat_drbgKey (s : State) : ((drawNat s).1).drbgKey = s.drbgKey := rfl
@[simp] theorem drawNat_drbgV (s : State) : ((drawNat s).1).drbgV = s.drbgV := rfl
@[simp] theorem drawNat_mpeKeys (s : State) : ((drawNat s).1).mpeKeys = s.mpeKeys := rfl
@[simp] theorem drawNat_shortfalls (s : State) : ((drawNat s).1).shortfalls = s.shortfalls := rfl

/-! ### raise -/

@[simp] theorem raise_pending (s : State) (f : Raised) : (raise s f).pending = s.pending := by unfold raise; split <;> rfl
@[simp] theorem raise_up (s : State) (f : Raised) : (raise s f).up = s.up := by unfold raise; split <;> rfl
@[simp] theorem raise_time (s : State) (f : Raised) : (raise s f).time = s.time := by unfold raise; split <;> rfl
@[simp] theorem raise_draws (s : State) (f : Raised) : (raise s f).draws = s.draws := by unfold raise; split <;> rfl
@[simp] theorem raise_stamp (s : State) (f : Raised) : (raise s f).stamp = s.stamp := by unfold raise; split <;> rfl
@[simp] theorem raise_chipId (s : State) (f : Raised) : (raise s f).chipId = s.chipId := by unfold raise; split <;> rfl
@[simp] theorem raise_stepping (s : State) (f : Raised) : (raise s f).stepping = s.stepping := by unfold raise; split <;> rfl
@[simp] theorem raise_fwVersion (s : State) (f : Raised) : (raise s f).fwVersion = s.fwVersion := by unfold raise; split <;> rfl
@[simp] theorem raise_fwWritten (s : State) (f : Raised) : (raise s f).fwWritten = s.fwWritten := by unfold raise; split <;> rfl
@[simp] theorem raise_unitOk0 (s : State) (f : Raised) : (raise s f).unitOk0 = s.unitOk0 := by unfold raise; split <;> rfl
@[simp] theorem raise_unitOk1 (s : State) (f : Raised) : (raise s f).unitOk1 = s.unitOk1 := by unfold raise; split <;> rfl
@[simp] theorem raise_scrubRate (s : State) (f : Raised) : (raise s f).scrubRate = s.scrubRate := by unfold raise; split <;> rfl
@[simp] theorem raise_foreignDb (s : State) (f : Raised) : (raise s f).foreignDb = s.foreignDb := by unfold raise; split <;> rfl
@[simp] theorem raise_linksDown (s : State) (f : Raised) : (raise s f).linksDown = s.linksDown := by unfold raise; split <;> rfl
@[simp] theorem raise_linkTries (s : State) (f : Raised) : (raise s f).linkTries = s.linkTries := by unfold raise; split <;> rfl
@[simp] theorem raise_sels (s : State) (f : Raised) : (raise s f).sels = s.sels := by unfold raise; split <;> rfl
@[simp] theorem raise_caps (s : State) (f : Raised) : (raise s f).caps = s.caps := by unfold raise; split <;> rfl
@[simp] theorem raise_gens (s : State) (f : Raised) : (raise s f).gens = s.gens := by unfold raise; split <;> rfl
@[simp] theorem raise_sessions (s : State) (f : Raised) : (raise s f).sessions = s.sessions := by unfold raise; split <;> rfl
@[simp] theorem raise_queues (s : State) (f : Raised) : (raise s f).queues = s.queues := by unfold raise; split <;> rfl
@[simp] theorem raise_fences (s : State) (f : Raised) : (raise s f).fences = s.fences := by unfold raise; split <;> rfl
@[simp] theorem raise_regions (s : State) (f : Raised) : (raise s f).regions = s.regions := by unfold raise; split <;> rfl
@[simp] theorem raise_bonds (s : State) (f : Raised) : (raise s f).bonds = s.bonds := by unfold raise; split <;> rfl
@[simp] theorem raise_keyObjs (s : State) (f : Raised) : (raise s f).keyObjs = s.keyObjs := by unfold raise; split <;> rfl
@[simp] theorem raise_started (s : State) (f : Raised) : (raise s f).started = s.started := by unfold raise; split <;> rfl
@[simp] theorem raise_nextId (s : State) (f : Raised) : (raise s f).nextId = s.nextId := by unfold raise; split <;> rfl
@[simp] theorem raise_accords (s : State) (f : Raised) : (raise s f).accords = s.accords := by unfold raise; split <;> rfl
@[simp] theorem raise_flaconSeq (s : State) (f : Raised) : (raise s f).flaconSeq = s.flaconSeq := by unfold raise; split <;> rfl
@[simp] theorem raise_channels (s : State) (f : Raised) : (raise s f).channels = s.channels := by unfold raise; split <;> rfl
@[simp] theorem raise_portRes (s : State) (f : Raised) : (raise s f).portRes = s.portRes := by unfold raise; split <;> rfl
@[simp] theorem raise_groups (s : State) (f : Raised) : (raise s f).groups = s.groups := by unfold raise; split <;> rfl
@[simp] theorem raise_slots (s : State) (f : Raised) : (raise s f).slots = s.slots := by unfold raise; split <;> rfl
@[simp] theorem raise_rootsLoaded (s : State) (f : Raised) : (raise s f).rootsLoaded = s.rootsLoaded := by unfold raise; split <;> rfl
@[simp] theorem raise_drbgReady (s : State) (f : Raised) : (raise s f).drbgReady = s.drbgReady := by unfold raise; split <;> rfl
@[simp] theorem raise_entropyFail (s : State) (f : Raised) : (raise s f).entropyFail = s.entropyFail := by unfold raise; split <;> rfl
@[simp] theorem raise_drbgRequests (s : State) (f : Raised) : (raise s f).drbgRequests = s.drbgRequests := by unfold raise; split <;> rfl
@[simp] theorem raise_fills (s : State) (f : Raised) : (raise s f).fills = s.fills := by unfold raise; split <;> rfl
@[simp] theorem raise_spills (s : State) (f : Raised) : (raise s f).spills = s.spills := by unfold raise; split <;> rfl
@[simp] theorem raise_mpes (s : State) (f : Raised) : (raise s f).mpes = s.mpes := by unfold raise; split <;> rfl
@[simp] theorem raise_cores (s : State) (f : Raised) : (raise s f).cores = s.cores := by unfold raise; split <;> rfl
@[simp] theorem raise_responses (s : State) (f : Raised) : (raise s f).responses = s.responses := by unfold raise; split <;> rfl
@[simp] theorem raise_ports (s : State) (f : Raised) : (raise s f).ports = s.ports := by unfold raise; split <;> rfl
@[simp] theorem raise_otus (s : State) (f : Raised) : (raise s f).otus = s.otus := by unfold raise; split <;> rfl
@[simp] theorem raise_extents (s : State) (f : Raised) : (raise s f).extents = s.extents := by unfold raise; split <;> rfl
@[simp] theorem raise_mailboxRoot (s : State) (f : Raised) : (raise s f).mailboxRoot = s.mailboxRoot := by unfold raise; split <;> rfl
@[simp] theorem raise_mailboxHost (s : State) (f : Raised) : (raise s f).mailboxHost = s.mailboxHost := by unfold raise; split <;> rfl
@[simp] theorem raise_invalidations (s : State) (f : Raised) : (raise s f).invalidations = s.invalidations := by unfold raise; split <;> rfl
@[simp] theorem raise_hpe (s : State) (f : Raised) : (raise s f).hpe = s.hpe := by unfold raise; split <;> rfl
@[simp] theorem raise_hubMem (s : State) (f : Raised) : (raise s f).hubMem = s.hubMem := by unfold raise; split <;> rfl
@[simp] theorem raise_gce (s : State) (f : Raised) : (raise s f).gce = s.gce := by unfold raise; split <;> rfl
@[simp] theorem raise_cvus (s : State) (f : Raised) : (raise s f).cvus = s.cvus := by unfold raise; split <;> rfl
@[simp] theorem raise_otp (s : State) (f : Raised) : (raise s f).otp = s.otp := by unfold raise; split <;> rfl
@[simp] theorem raise_lcc (s : State) (f : Raised) : (raise s f).lcc = s.lcc := by unfold raise; split <;> rfl
@[simp] theorem raise_dbg (s : State) (f : Raised) : (raise s f).dbg = s.dbg := by unfold raise; split <;> rfl
@[simp] theorem raise_bec (s : State) (f : Raised) : (raise s f).bec = s.bec := by unfold raise; split <;> rfl
@[simp] theorem raise_pwr (s : State) (f : Raised) : (raise s f).pwr = s.pwr := by unfold raise; split <;> rfl
@[simp] theorem raise_bist (s : State) (f : Raised) : (raise s f).bist = s.bist := by unfold raise; split <;> rfl
@[simp] theorem raise_cfg (s : State) (f : Raised) : (raise s f).cfg = s.cfg := by unfold raise; split <;> rfl
@[simp] theorem raise_mgmt (s : State) (f : Raised) : (raise s f).mgmt = s.mgmt := by unfold raise; split <;> rfl
@[simp] theorem raise_aon (s : State) (f : Raised) : (raise s f).aon = s.aon := by unfold raise; split <;> rfl

/-! ### What is read back -/

@[simp] theorem getMpe_setMpe_self (s : State) (n : Nat) (x : Mpe) : getMpe (setMpe s n x) n = x := by
  simp [getMpe, setMpe, tgetD]
theorem getMpe_setMpe_ne (s : State) (n k : Nat) (x : Mpe) (h : k ≠ n) : getMpe (setMpe s n x) k = getMpe s k := by
  simp [getMpe, setMpe, tgetD, tget_tset_ne _ _ _ _ h]
@[simp] theorem getMpe_updMpe_self (s : State) (n : Nat) (f : Mpe → Mpe) : getMpe (updMpe s n f) n = f (getMpe s n) := by
  simp [getMpe, updMpe, tgetD, setMpe]
theorem getMpe_updMpe_ne (s : State) (n k : Nat) (f : Mpe → Mpe) (h : k ≠ n) :
    getMpe (updMpe s n f) k = getMpe s k := by
  simp [getMpe, updMpe, tgetD, setMpe, tget_tset_ne _ _ _ _ h]
@[simp] theorem getPort_setPort_self (s : State) (n : Nat) (x : Port) : getPort (setPort s n x) n = x := by
  simp [getPort, setPort, tgetD]
theorem getPort_setPort_ne (s : State) (n k : Nat) (x : Port) (h : k ≠ n) : getPort (setPort s n x) k = getPort s k := by
  simp [getPort, setPort, tgetD, tget_tset_ne _ _ _ _ h]
@[simp] theorem getPort_updPort_self (s : State) (n : Nat) (f : Port → Port) : getPort (updPort s n f) n = f (getPort s n) := by
  simp [getPort, updPort, tgetD, setPort]
theorem getPort_updPort_ne (s : State) (n k : Nat) (f : Port → Port) (h : k ≠ n) :
    getPort (updPort s n f) k = getPort s k := by
  simp [getPort, updPort, tgetD, setPort, tget_tset_ne _ _ _ _ h]
@[simp] theorem getOtu_updOtu_self (s : State) (n : Nat) (f : Otu → Otu) : getOtu (updOtu s n f) n = f (getOtu s n) := by
  simp [getOtu, updOtu, tgetD]
theorem getOtu_updOtu_ne (s : State) (n k : Nat) (f : Otu → Otu) (h : k ≠ n) :
    getOtu (updOtu s n f) k = getOtu s k := by
  simp [getOtu, updOtu, tgetD, tget_tset_ne _ _ _ _ h]
@[simp] theorem getCore_updCore_self (s : State) (n : Nat) (f : Core → Core) : getCore (updCore s n f) n = f (getCore s n) := by
  simp [getCore, updCore, tgetD]
theorem getCore_updCore_ne (s : State) (n k : Nat) (f : Core → Core) (h : k ≠ n) :
    getCore (updCore s n f) k = getCore s k := by
  simp [getCore, updCore, tgetD, tget_tset_ne _ _ _ _ h]
@[simp] theorem getAccord_updAccord_self (s : State) (n : Nat) (f : Accord → Accord) : getAccord (updAccord s n f) n = f (getAccord s n) := by
  simp [getAccord, updAccord, tgetD]
theorem getAccord_updAccord_ne (s : State) (n k : Nat) (f : Accord → Accord) (h : k ≠ n) :
    getAccord (updAccord s n f) k = getAccord s k := by
  simp [getAccord, updAccord, tgetD, tget_tset_ne _ _ _ _ h]
@[simp] theorem getSlot_updSlot_self (s : State) (n : Nat) (f : Slot → Slot) : getSlot (updSlot s n f) n = f (getSlot s n) := by
  simp [getSlot, updSlot, tgetD]
theorem getSlot_updSlot_ne (s : State) (n k : Nat) (f : Slot → Slot) (h : k ≠ n) :
    getSlot (updSlot s n f) k = getSlot s k := by
  simp [getSlot, updSlot, tgetD, tget_tset_ne _ _ _ _ h]
@[simp] theorem getBond_updBond_self (s : State) (n : Nat) (f : Bond → Bond) : getBond (updBond s n f) n = f (getBond s n) := by
  simp [getBond, updBond, tgetD]
theorem getBond_updBond_ne (s : State) (n k : Nat) (f : Bond → Bond) (h : k ≠ n) :
    getBond (updBond s n f) k = getBond s k := by
  simp [getBond, updBond, tgetD, tget_tset_ne _ _ _ _ h]
@[simp] theorem getRes_setRes_self (s : State) (k : ResKind) (n : Nat) (r : Res) : getRes (setRes s k n r) k n = r := by
  cases k <;> simp [getRes, setRes, resTab, tgetD]
theorem getRes_setRes_ne (s : State) (k : ResKind) (n j : Nat) (r : Res) (h : j ≠ n) : getRes (setRes s k n r) k j = getRes s k j := by
  cases k <;> simp [getRes, setRes, resTab, tgetD, tget_tset_ne _ _ _ _ h]

/-! ### Whether the block runs -/

@[simp] theorem running_updMpe (s : State) (m : Nat) (f : Mpe → Mpe) : running (updMpe s m f) = running s := rfl
@[simp] theorem inDry_updMpe (s : State) (m : Nat) (f : Mpe → Mpe) : inDry (updMpe s m f) = inDry s := rfl
@[simp] theorem running_updPort (s : State) (p : Nat) (f : Port → Port) : running (updPort s p f) = running s := rfl
@[simp] theorem inDry_updPort (s : State) (p : Nat) (f : Port → Port) : inDry (updPort s p f) = inDry s := rfl
@[simp] theorem running_updAccord (s : State) (a : Nat) (f : Accord → Accord) : running (updAccord s a f) = running s := rfl
@[simp] theorem inDry_updAccord (s : State) (a : Nat) (f : Accord → Accord) : inDry (updAccord s a f) = inDry s := rfl
@[simp] theorem running_settle (s : State) : running (settle s) = running s := rfl
@[simp] theorem inDry_settle (s : State) : inDry (settle s) = inDry s := rfl
@[simp] theorem running_pulse (s : State) (n : Nat) : running (pulse s n) = running s := rfl
@[simp] theorem inDry_pulse (s : State) (n : Nat) : inDry (pulse s n) = inDry s := rfl
@[simp] theorem running_raise (s : State) (f : Raised) : running (raise s f) = running s := by simp [running]

/-- What raising a fault does, all of it: nothing in dry-down; else the fault joins the list, and nothing else changes. -/
theorem raise_cases (s : State) (f : Raised) :
    (inDry s = true ∧ raise s f = s) ∨
    (inDry s = false ∧ raise s f = { s with frs := { s.frs with raised := s.frs.raised ++ [f] } }) := by
  unfold raise; cases h : inDry s <;> simp

/-- Bringing the event controller up to date twice in a row answers the same for every other field. -/
theorem settle_settle_frs (s : State) : (settle (settle s)).frs = s.frs := rfl

end Sys2Proof.Machine
end

