-- ==== Sys2Proof/Laws/Hub.lean ====
section
/-! SUPPORT. What running a hub command can do, said once: it begins and ends, begins and waits, or does not begin. A statement
about a command's effect needs its `beginOf` and what its effect answers, and never unfolds the hub. -/

namespace Sys2Proof.Machine

/-- A command that begins and whose effect is done ends with the status and result of the effect. -/
theorem runCommand_done {s u v : State} {q op : Nat} {c : Started} (h : beginOf s q op = some (c, u))
    (eff : Nat → Started → State → Eff) {st : Status} {d r : Word} (he : eff s.nextId c u = .done st d r v) :
    runCommand op q eff s = .next (ended settleAll q s.nextId st d r v) := by
  unfold runCommand startCommand ended; rw [h]; simp only [he, applyEff]

/-- A command that begins and whose effect waits is left waiting. -/
theorem runCommand_wait {s u v : State} {q op : Nat} {c : Started} (h : beginOf s q op = some (c, u))
    (eff : Nat → Started → State → Eff) {w : Wait} (he : eff s.nextId c u = .wait w v) :
    runCommand op q eff s = .next (pends settleAll q s.nextId w v) := by
  unfold runCommand startCommand pends; rw [h]; simp only [he, applyEff]

/-- A command that does not begin has no effect of its own; a command at the queue's head whose WAIT failed is ended. -/
theorem runCommand_none {s : State} {q op : Nat} (h : beginOf s q op = none) (eff : Nat → Started → State → Eff) :
    runCommand op q eff s = .next (settleAll (endFailedWait s q op)) := by
  unfold runCommand startCommand; rw [h]

/-- The same of a command whose end lets the fabric go on. -/
theorem runLink_done {s u v : State} {q op : Nat} {c : Started} (h : beginOf s q op = some (c, u))
    (eff : Nat → Started → State → Eff) {st : Status} {d r : Word} (he : eff s.nextId c u = .done st d r v) :
    runLink op q eff s = .next (ended fabricSettle q s.nextId st d r v) := by
  unfold runLink startCommand ended; rw [h]; simp only [he, applyEff]

theorem runLink_wait {s u v : State} {q op : Nat} {c : Started} (h : beginOf s q op = some (c, u))
    (eff : Nat → Started → State → Eff) {w : Wait} (he : eff s.nextId c u = .wait w v) :
    runLink op q eff s = .next (pends fabricSettle q s.nextId w v) := by
  unfold runLink startCommand pends; rw [h]; simp only [he, applyEff]

theorem runLink_none {s : State} {q op : Nat} (h : beginOf s q op = none) (eff : Nat → Started → State → Eff) :
    runLink op q eff s = .next (fabricSettle (endFailedWait s q op)) := by
  unfold runLink startCommand; rw [h]

/-- What a fabric event does, all of it: its effect with everything it lets finish where the block serves, nothing elsewhere. -/
theorem onFabric_cases (s : State) (f : State → State) :
    (live s = true ∧ onFabric s f = .next (fabricSettle (f s))) ∨ (live s = false ∧ onFabric s f = .next s) := by
  unfold onFabric; cases h : live s <;> simp

/-- Bringing the event controller up to date changes the event controller alone. -/
theorem settle_onlyEvents (s : State) : OnlyEvents s (settle s) := rfl

/-- A block that serves commands and traffic runs. -/
theorem running_of_live {s : State} (h : live s = true) : running s = true := by
  simp [live] at h; exact h.1

end Sys2Proof.Machine
end

