-- ==== Sys2Proof/Laws/Memory.lean ====
section
/-! SUPPORT. Byte memories: what is read after a write, and that every write keeps the canonical form. -/

namespace Sys2Proof.Machine

/-- A byte written is read back. -/
@[simp] theorem memRead_memWrite_self (m : List Host.Cell) (d : Byte) (a : Nat) (b : Byte) :
    memRead (memWrite m d a b) d a = b := by
  unfold memRead memWrite
  split <;> simp_all

/-- A write leaves every other address as it was. -/
theorem memRead_memWrite_ne (m : List Host.Cell) (d : Byte) (a k : Nat) (b : Byte) (h : k ≠ a) :
    memRead (memWrite m d a b) d k = memRead m d k := by
  unfold memRead memWrite
  split
  · rw [tget_tdel_ne _ _ _ h]
  · rw [tget_tset_ne _ _ _ _ h]

/-- Bytes written from `a` on leave every address outside them as it was. -/
theorem memRead_memWriteBytes_outside (bs : Bytes) : ∀ (m : List Host.Cell) (d : Byte) (a k : Nat),
    k < a ∨ a + bs.length ≤ k → memRead (memWriteBytes m d a bs) d k = memRead m d k := by
  induction bs with
  | nil => intros; rfl
  | cons b r ih =>
    intro m d a k h
    have hl : (b :: r).length = r.length + 1 := rfl
    rw [memWriteBytes, ih _ _ _ _ (by omega), memRead_memWrite_ne _ _ _ _ _ (by omega)]

/-- Bytes written are read back. -/
theorem memReadBytes_memWriteBytes (bs : Bytes) : ∀ (m : List Host.Cell) (d : Byte) (a : Nat),
    memReadBytes (memWriteBytes m d a bs) d a bs.length = bs := by
  induction bs with
  | nil => intros; rfl
  | cons b r ih =>
    intro m d a
    show memRead (memWriteBytes (memWrite m d a b) d (a + 1) r) d a ::
      memReadBytes (memWriteBytes (memWrite m d a b) d (a + 1) r) d (a + 1) r.length = b :: r
    rw [ih, memRead_memWriteBytes_outside _ _ _ _ _ (by omega), memRead_memWrite_self]

/-- The canonical form, as a statement about a first entry and the rest. -/
theorem wf_cons {a : Nat} {b d : Byte} {r : List Host.Cell} :
    Memory.wf ((a, b) :: r) d = true ↔ b ≠ d ∧ (∀ e ∈ r, a < e.1) ∧ Memory.wf r d = true := by
  rw [Memory.wf]
  simp [and_assoc]

theorem mem_tset_key {α : Type} (t : Tab α) (k : Nat) (v : α) : ∀ e ∈ tset t k v, e.1 = k ∨ e ∈ t := by
  induction t with
  | nil => intro e he; simp [tset] at he; simp [he]
  | cons x r ih =>
    obtain ⟨j, w⟩ := x
    intro e he
    unfold tset at he
    split at he
    · simp at he; rcases he with rfl | rfl | h <;> simp_all
    · split at he
      · simp at he; rcases he with rfl | h <;> simp_all
      · simp at he
        rcases he with rfl | h
        · simp
        · rcases ih e h with h | h <;> simp [h]

theorem wf_tset (m : List Host.Cell) (d : Byte) (a : Nat) (b : Byte) (hb : b ≠ d) (h : Memory.wf m d = true) :
    Memory.wf (tset m a b) d = true := by
  induction m with
  | nil => simp [tset, hb, Memory.wf]
  | cons x r ih =>
    obtain ⟨j, w⟩ := x
    obtain ⟨h1, h2, h3⟩ := wf_cons.1 h
    unfold tset
    split
    · refine wf_cons.2 ⟨hb, ?_, h⟩
      intro e he; simp at he
      rcases he with rfl | he
      · assumption
      · have := h2 e he; omega
    · split
      · rename_i hj; subst hj; exact wf_cons.2 ⟨hb, h2, h3⟩
      · refine wf_cons.2 ⟨h1, ?_, ih h3⟩
        intro e he
        rcases mem_tset_key _ _ _ e he with h | h
        · omega
        · exact h2 e h

theorem wf_tdel (m : List Host.Cell) (d : Byte) (a : Nat) (h : Memory.wf m d = true) : Memory.wf (tdel m a) d = true := by
  induction m with
  | nil => rfl
  | cons x r ih =>
    obtain ⟨j, w⟩ := x
    obtain ⟨h1, h2, h3⟩ := wf_cons.1 h
    by_cases hj : j = a
    · have : tdel ((j, w) :: r) a = tdel r a := by simp [tdel, hj]
      rw [this]; exact ih h3
    · have : tdel ((j, w) :: r) a = (j, w) :: tdel r a := by simp [tdel, hj]
      rw [this]
      refine wf_cons.2 ⟨h1, fun e he => h2 e ?_, ih h3⟩
      simp [tdel] at he; exact he.1

/-- A write of one byte keeps the canonical form. -/
theorem wf_memWrite (m : List Host.Cell) (d : Byte) (a : Nat) (b : Byte) (h : Memory.wf m d = true) :
    Memory.wf (memWrite m d a b) d = true := by
  unfold memWrite
  split
  · exact wf_tdel m d a h
  · exact wf_tset m d a b ‹_› h

/-- A write of bytes keeps the canonical form. -/
theorem wf_memWriteBytes (bs : Bytes) : ∀ (m : List Host.Cell) (d : Byte) (a : Nat), Memory.wf m d = true →
    Memory.wf (memWriteBytes m d a bs) d = true := by
  induction bs with
  | nil => intros; assumption
  | cons b r ih => intro m d a h; exact ih _ _ _ (wf_memWrite m d a b h)

/-- The memories at reset are in canonical form. -/
theorem reset_memories_wf : Memory.wf State.reset.hubMem 0 = true ∧ Memory.wf State.reset.hpe.mem 0 = true ∧
    Memory.wf State.reset.cfg.flash 0xFF = true ∧ (∀ m, Memory.wf (getMpe State.reset m).hbm 0 = true) :=
  ⟨rfl, rfl, rfl, fun _ => rfl⟩

end Sys2Proof.Machine
end

