-- ==== Sys2Proof/WellFormed.lean ====
section
/-! DEFINITION. Which terms of Instr name something the block has: queues, core groups, MPEs, ports and the rest within
their numbers (XL figures of Table 0.1), and data of the lengths their rows carry. The machine's meanings do not rest on
this: a term outside it has an effect too, which is to change nothing. -/

namespace Sys2Proof

/-- Hub queues (R93). -/
def queueOk (q : Nat) : Bool := q < 1024
/-- MPEs (Table 0.1). -/
def mpeOk (m : Nat) : Bool := m < 8
/-- Fabric ports. -/
def portOk (p : Nat) : Bool := p < 32
/-- Core groups. -/
def cgOk (c : Nat) : Bool := c < 256
/-- Stamp units. -/
def stampOk (k : Nat) : Bool := k < 16
/-- Local accord indexes. -/
def accordOk (a : Nat) : Bool := a < 1024
/-- PF and virtual functions. -/
def fnOk (f : Nat) : Bool := f < 64
/-- OTUs (Table 1.1). -/
def otuOk (o : Nat) : Bool := o < 9
/-- Stream numbers (R248). -/
def streamOk (n : Nat) : Bool := n < 8192
/-- Bonds. -/
def bondOk (b : Nat) : Bool := b < 4096
/-- Miss slots (R309). -/
def slotOk (n : Nat) : Bool := n < 256
/-- Channels of the chip. -/
def channelOk (c : Nat) : Bool := c < 256
/-- Check-value units. -/
def cvuOk (n : Nat) : Bool := n < 4
/-- Record lanes of the HPE. -/
def laneOk (l : Nat) : Bool := l < 16
/-- The port that an SPDM message of a bond handshake arrives on. -/
def transportOk : Transport → Bool
  | .pcie | .i3c => true
  | .bond p _ | .answer p _ _ => portOk p
/-- A flit is 256 B. -/
def flitOk (b : Bytes) : Bool := b.length == 256
/-- A command is 16 words (R103). -/
def commandOk (w : List Word) : Bool := w.length == 16
/-- Resource numbers by kind (R44). -/
def resOk (k : ResKind) (i : Nat) : Bool :=
  match k with
  | .channel => channelOk i | .port => portOk i | .coreGroup => cgOk i
/-- The data a compute request carries (Table 1.17). -/
def requestOk (r : ComputeReq) : Bool :=
  if r.op = 2 ∨ r.op = 5 then r.data.length == 64
  else if r.op = 3 then r.data.length == 256
  else if r.op = 4 then r.data.length == 4096
  else r.data.isEmpty

/-- Whether a command or event names units the block has. (DEDUCED, log entry 67) -/
def wellFormed (i : Instr) : Bool :=
  match i with
  | .nop q | .sessionOpen q | .sessionClose q | .sessionAbort q | .queueCreate q | .queueDestroy q
  | .queueSetTimeout q | .queueRestart q | .fenceCreate q | .fenceSignal q | .fenceError q | .fenceQuery q
  | .objectRef q | .objectUnref q | .objectShare q | .coreAttach q | .imageLoad q | .accordBind q | .accordUnbind q
  | .accordRetire q | .partitionReset q | .allocate q | .carvePoolSet q | .regionSealBegin q | .regionSeal q
  | .epochRetire q | .sillageHarvest q | .fold q | .bondOpen q | .bondClose q | .bondRekey q | .streamOpen q
  | .streamClose q | .portEnable q | .portDisable q | .keyStage q | .keyCheck q | .keyCommit q | .keyRetire q
  | .keyDerive q | .gceRun q | .drbgRead q | .otuInvalidate q | .otuMissReply q | .bounceIn q | .bounceOut q
  | .vfQuiesce q | .vfResume q | .lcTransition q | .debugAuth q | .globalStop q | .tensorWatch q | .configUpdate q
  | .trimWrite q | .powerState q | .powerCycle q | .zeroizeAll q | .faultAck q | .commandFetch q => queueOk q
  | .imageCommit _ | .invalidationDrained _ | .gceJobStart => true
  | .doorbell cg _ | .carve cg _ _ | .stCgClearAck cg => cgOk cg
  | .hostDoorbell fn _ | .flr fn | .pcieCompletion fn _ _ => fnOk fn
  | .vfCommandSlotWrite vf slot words => fnOk vf && vf != 0 && slot < 64 && commandOk words
  | .debugDoorbell _ _ | .pfqEnable _ _ => true
  | .commandTimeout q ring => queueOk q && ring < 65536
  | .stampRequest st r => stampOk st && requestOk r
  | .admissionSlot m | .harvestWalkStep m | .bandwidthWindowEnd m => mpeOk m
  | .readLine m _ | .readStretcher m _ | .writeLine m _ | .writeStretcher m _ | .writeBrick m _ | .add m _ | .min m _
  | .max m _ | .cas m _ | .swap m _ | .cellW64 m _ | .cellX512 m _ | .touch m _ => mpeOk m
  | .accordResident a => accordOk a
  | .storeFillComplete m st => mpeOk m && st < 16 * 16178176
  | .hbmReadReturn m rid _ _ _ => mpeOk m && rid < 2 ^ 19
  | .reencryptionComplete m b => mpeOk m && b < 16178176
  | .pinnedWriteback m lv _ => mpeOk m && lv < 3
  | .epochPassStep m c => mpeOk m && c < 32
  | .scrubStep c => channelOk c
  | .sealRewriteComplete m rt => mpeOk m && rt < 256
  | .handoverDrainComplete k i | .eraseComplete k i => resOk k i
  | .streamDrainTimeout n | .windowIdleClose n | .ackOwedTimeout n | .retransmitTimeout n | .streamOpenTimeout n
  | .remoteResponse n => streamOk n
  | .linkUp p | .linkDown p | .gatewayRequest p | .portUpHour p => portOk p
  | .portTransmit p lanes => portOk p && lanes.all (· < 8)
  | .dataFlitReceive p f _ lanes | .tagFlitReceive p f _ lanes | .gatewayFlitReceive p f _ lanes =>
    portOk p && flitOk f && lanes.all (· < 8)
  | .stopFlit p f => portOk p && flitOk f
  | .helloI p _ _ | .helloR p _ _ | .bondFinish p _ _ | .abort p _ _ => portOk p
  | .handshakeRepeat b | .handshakeTimeout b | .openReq b | .openAck b | .openRefuse b | .closeStream b
  | .phasePrepare b | .phaseReady b | .phaseDone b | .phaseFlipStart b | .reagreementStart b | .reagreeOffer b
  | .reagreeAnswer b | .bondStaleMsg b | .bondCloseMsg b | .rekeyRequest b => bondOk b
  | .gatewayRecordIdleClose p a _ => portOk p && accordOk a
  | .gatewayResendTimeout p a _ _ => portOk p && accordOk a
  | .landingWaitTimeout p slot => portOk p && slot < 64
  | .domainRequest o => otuOk o
  | .xlateTimeout o slot => otuOk o && slotOk slot
  | .map _ | .unmap _ | .hostPageRequest | .move _ _ | .vfBind _ _ => true
  | .vfDisable n => n < 64
  | .recordLaneStall _ l => laneOk l
  | .hostDma _ => true
  | .cvuInit _ n _ | .cvuPolySwitch _ n _ | .cvuFeed8 _ n _ | .cvuFeed16 _ n _ | .cvuFeed32 _ n _ => cvuOk n
  | .registerWrite _ _ w _ => w == 1 || w == 2 || w == 4
  | .loCaptureRead _ _ _ | .hotFifoPop _ _ | .becAck _ _ | .becEoi _ _ | .pop _ | .unfreeze _ | .kick _ | .watchdogArm _ _
  | .watchdog | .lockstep | .revoke _ | .grantExpiry | .apertureAccess _ _ _ | .resume | .scan | .stopCtrlReset
  | .lccPlainProbeClosed _ | .lccPlainVoid _ | .otpWordProgrammed | .testEngineCommand _ _ => true
  | .faultAccept | .rung0 | .rung1 | .rung2 | .rung3 | .rung4 | .rung5 | .rungTimeout => true
  | .mortarCrcError link attempt => link < 41 && 1 ≤ attempt && attempt ≤ 5
  | .tamper die => die < 25
  | .lcDecode | .fwSelfcheck _ | .entropyFail _ | .drbgReseed | .aonStart | .aonStatus | .aonFaultRecord _
  | .aonZeroize | .aonPowerCycle | .aonWake | .vidAck | .temperatureThreshold _ => true
  | .blockStart fails => fails.length ≤ 64
  | .wake src => match src with
    | some n => n < 512
    | none => true
  | .command words => commandOk words
  | .cplRead | .stageWrite _ _ | .stageRead _ _ | .regRead _ _ _ _ | .dbgAccess _ _ _ | .mgmtSessionEnd => true
  | .moduleReport port _ => port.toNat < 32
  | .getVersion t | .getCapabilities t | .negotiateAlgorithms t | .getDigests t | .getCertificate t _ _ _
  | .challenge t _ | .getMeasurements t _ _ _ | .keyExchange t _ | .finish t _ _ | .endSession t | .heartbeat t
  | .keyUpdate t _ | .getPqChain t _ | .getPqSignature t | .getAccordCert t _ | .accordQuote t _ _ | .pqBind t _ => transportOk t
  | .powerLoss | .entropySourceRestart _ => true

end Sys2Proof
end

