-- ==== Sys2Proof/Tests/Slice0.lean ====
section
/-! SUPPORT. Tests of the model's author. The first part meets the hypotheses of each statement in
Certificates/Slice0/Obligations.lean at a small concrete state, clause by clause: no statement is empty. Where a
hypothesis rests on a constant of Config without a body (the signatures and key agreements of log entry 4, the values of log
entry 3), no concrete state can be shown to meet it, and the test meets the statement's other hypotheses. The second part
gives the well-formedness check a term that it refuses for each of its conditions. -/

open Sys2Proof Sys2Proof.Machine

namespace Sys2Proof.Tests

set_option Elab.async false

/-! ## Small states -/

/-- The block started, in life-cycle state FIELD, as reset otherwise. -/
def begun : State :=
  { State.reset with up := true, aon := { State.reset.aon with up := true }, lcc := { State.reset.lcc with state := 7 }, chipId := 9
                     unitOk0 := 0xFFFFFFFF, unitOk1 := 0xFF }

/-- A LIVE accord 2 with every class, a primary session 3 on the device side, and queue 3 of that session. -/
def tenant : State :=
  { begun with
    accords := begun.accords ++ [(2, { state := .live, gid := 0x100, classes := 7, scheduled := true
                                       ctx := some { heartChip := zeros 32, heartShared := zeros 32 }, primary := some 3 })]
    sessions := begun.sessions ++ [(3, { world := .tenant, side := .device, accord := 2, primary := true, creator := 3, dref := 1 })]
    queues := begun.queues ++ [(3, { session := 3, dref := 1 })] }

/-- The 16 words of a command (Table 4.3): its opcode, TARGET, and the operand words from W8 on. -/
def words (op : Nat) (target : Word) (operands : List Word) : List Word :=
  BitVec.ofNat 32 (op * 2 ^ 24) :: List.replicate 6 0 ++ target :: operands

/-- Queue `q` with one fetched command. -/
def having (s : State) (q : Nat) (ws : List Word) : State :=
  { s with queues := tupd s.queues q fun x => { x with fetched := [{ ring := 0, words := ws }] } }

/-- The command with opcode `op` of queue `q` begins, and what it begins with meets `p`. -/
def begins (s : State) (q op : Nat) (ws : List Word) (p : Started → State → Bool) : Bool :=
  (beginOf (having s q ws) q op).any fun b => p b.1 b.2

/-- The word that `e` answers, when it answers. -/
def okOf {α β : Type} (e : Except α β) : Option β :=
  match e with
  | .ok b => some b
  | .error _ => none

/-! ## Sessions, queues, fences and references -/

/-- SessionOpenMakesSession: a session of HOST and one of a tenant. -/
theorem test_SessionOpenMakesSession :
    (begins begun 2 0x01 (words 0x01 0 [0x100, 0, 0]) fun c u =>
      (tget u.sessions c.session).any (fun x => x.world == .host && x.accord == 0) && wd c.words 10 == 0
        && (freeIndex u .session).isSome && refRoom u c.session) = true ∧
    (begins tenant 3 0x01 (words 0x01 0 [0, 0, 0]) fun c u =>
      (tget u.sessions c.session).any (fun x => x.world == .tenant && x.accord != 0 && (getAccord u x.accord).state == .live)
        && (freeIndex u .session).isSome && refRoom u c.session) = true := by decide +kernel

/-- QueueCreateMakesQueue, at LOG2 4 and 16 and the BEC sources 256 and 511. -/
theorem test_QueueCreateMakesQueue :
    ([(0x401, 256, 0), (0x1001, 511, 60000000)].all fun (v : Word × Word × Word) =>
      begins begun 2 0x04 (words 0x04 (handle begun ⟨.session, 2⟩) [0, 0, v.1, 0, 0, v.2.2, v.2.1]) fun c u =>
        (targetOf u c).any fun t => (tget u.sessions t.index).any (fun x => ringSpaceOk x (fld (wd c.words 10) 1 0))
          && decide (4 ≤ fld (wd c.words 10) 12 8) && decide (fld (wd c.words 10) 12 8 ≤ 16)
          && decide ((wd c.words 13).toNat ≤ 60000000) && decide (256 ≤ (wd c.words 14).toNat)
          && decide ((wd c.words 14).toNat ≤ 511) && (freeIndex u .queue).isSome && refRoom u c.session
          && (addRef u t .device 1).isSome) = true := by decide +kernel

/-- QueueCommands: the five commands begin, and the operands that the last two ask for. -/
theorem test_QueueCommands :
    ([0x02, 0x03].all fun op => begins tenant 3 op (words op (handle tenant ⟨.session, 3⟩) []) fun c u => (targetOf u c).isSome) = true ∧
    ([(0x05, 0), (0x06, 1), (0x06, 60000000)].all fun (v : Nat × Word) =>
      begins tenant 3 v.1 (words v.1 (handle tenant ⟨.queue, 3⟩) [v.2]) fun c u => (targetOf u c).any fun r =>
        (tget u.queues r.index).isSome && (v.1 == 0x05 || wd c.words 8 != 0 && decide ((wd c.words 8).toNat ≤ 60000000))) = true ∧
    (begins tenant 3 0x07 (words 0x07 (handle tenant ⟨.queue, 3⟩) [63]) fun c u => (targetOf u c).any fun r =>
      (tget u.queues r.index).any fun t => t.session == c.session && decide (fld (wd c.words 8) 15 0 < 2 ^ t.log2)) = true ∧
    (begins tenant 2 0x07 (words 0x07 (handle tenant ⟨.queue, 3⟩) [0]) fun c u => (targetOf u c).any fun r =>
      (sessionOf u c).world == .host && (sessionOf u c).fn == some 0 && (tget u.queues r.index).isSome) = true := by decide +kernel

/-- A fence that session 3 made, ACTIVE at 5. -/
def fenced : State := { tenant with fences := [(0, { value := 5, creator := 3, accord := 2, signalers := [3], dref := 1 })] }

/-- FencesMoveForward: values on both sides of VALUE and of 2^64, with ADD and without. -/
theorem test_FencesMoveForward :
    ([(6, false), (1, true)].all fun (v : BitVec 64 × Bool) => (signalFence { value := 5, creator := 3 } v.1 v.2).value == 6) = true ∧
    ([(5, false), (0, true), (0xFFFFFFFFFFFFFFFB, true)].all fun (v : BitVec 64 × Bool) =>
      (signalFence { value := 5, creator := 3 } v.1 v.2).value == 5
        && (signalFence { value := 5, creator := 3 } v.1 v.2).backward) = true := by
  decide +kernel

/-- FenceCommands: creating, signalling, an error at 0x80 and at 0xFF, a query, and updates that wait. -/
theorem test_FenceCommands :
    (begins fenced 3 0x08 (words 0x08 0 [7, 0, 1]) fun c u => !bit (wd c.words 10) 1 && (freeIndex u .fence).isSome
      && (tget u.sessions c.session).isSome && refRoom u c.session) = true ∧
    ([(0x09, 6), (0x0A, 0x80), (0x0A, 0xFF)].all fun (v : Nat × Word) =>
      begins fenced 3 v.1 (words v.1 (handle fenced ⟨.fence, 0⟩) [v.2, 0, 0]) fun c u => (targetOf u c).any fun r =>
        (tget u.fences r.index).any fun f => maySignal c.session f
          && (v.1 == 0x09 || decide (0x80 ≤ (wd c.words 8).toNat) && decide ((wd c.words 8).toNat ≤ 0xFF))) = true ∧
    (begins fenced 0 0x0B (words 0x0B (handle fenced ⟨.fence, 0⟩) [64, 0, 0]) fun c u => (targetOf u c).isSome
      && spaceOf (fld (wd c.words 10) 1 0) == some .hub
      && spaceCheck (sessionOf u c) (some .hub) (wd2 c.words 8).toNat 16 == none) = true ∧
    (nextUpdate { fenced with fenceReady := [{ fence := 0, code := some 0x80 }, { fence := 0, value := 6 }] }).any (·.code.isNone) = true ∧
    (tget fenced.fences 0).any (·.mirror.isNone) = true := by decide +kernel

/-- A class S region of accord 2 on stack 0, bricks 16 to 31, and core group 4 bound to the accord. -/
def regioned : State :=
  { fenced with
    mpes := [(0, { rt := [(0, { cls := .s, owner := 2, id := 5, base := 16, limit := 31 })], formatted := true })]
    regions := [(0, { accord := 2, stack := 0, rt := 0, owner := some 3, dref := 1 })]
    channels := [(0, { state := .bound, owners := [2], exclusive := true })]
    groups := [(4, { state := .bound, owners := [2], exclusive := true })]
    cores := [(4, { entry := pack [(1, 31), (2, 19), (1, 14)] })] }

/-- ReferenceCommands: a reference taken, dropped and shared, and a core group attached. -/
theorem test_ReferenceCommands :
    (begins regioned 3 0x00 (words 0 0 []) fun _ _ => true) = true ∧
    (begins regioned 3 0x0C (words 0x0C (handle regioned ⟨.region, 0⟩) []) fun c u => (targetOf u c).any fun r =>
      objExists u r && (okOf (holdRef u c.session r)).isSome) = true ∧
    (begins { regioned with sessions := tupd regioned.sessions 3 fun x => { x with refs := [(⟨.region, 0⟩, 1)] } } 3 0x0D
      (words 0x0D (handle regioned ⟨.region, 0⟩) []) fun c u => (targetOf u c).any fun r => (okOf (dropRef u c.session r)).isSome) = true ∧
    (begins regioned 3 0x0E (words 0x0E (handle regioned ⟨.region, 0⟩) [handle regioned ⟨.session, 3⟩, 1]) fun c u =>
      (targetOf u c).any fun r => (okOf (parseHandle u (wd c.words 8) [.session])).any fun g => (tget u.sessions g.index).any fun x =>
        shareCheck u c.session r x (fld (wd c.words 9) 1 0) == none && (okOf (holdRef u g.index r)).isSome) = true ∧
    (begins regioned 3 0x0F (words 0x0F (handle regioned ⟨.session, 3⟩) [4]) fun c u => (targetOf u c).any fun r =>
      coreBoundTo u (fld (wd c.words 8) 7 0) (objAccord u r)) = true := by decide +kernel

/-! ## Accords and resources -/

/-- ImageCommands: an image of its least length, of its greatest length in its header, and a loaded image that phase 2 refuses. -/
theorem test_ImageCommands_load :
    ([6, 262144].all fun total =>
      begins { begun with hubMem := memWriteBytes [] 0 64 (toLE 0 20 ++ toLE total 4) } 0 0x10 (words 0x10 0 [64, 0, 0]) fun c u =>
        imageState u && spaceOf (fld (wd c.words 10) 1 0) == some .hub
          && spaceCheck (sessionOf u c) (some .hub) (wd2 c.words 8).toNat (4 * total) == none
          && (readSpace u (sessionOf u c) .hub (wd2 c.words 8) 24).2.any fun head => (wd (wordsOf head) 5).toNat == total) = true := by
  decide +kernel

/-- ImageCommands: a waiting image that phase 2 takes, an accord with nothing bound, and one that it refuses, its global ID in use. -/
theorem test_ImageCommands_commit :
    live tenant = true ∧ (okOf (phase2 tenant [0, 0x494E4C42, 0x10000009, 0x101, 0, 6])).isSome = true ∧
    (okOf (phase2 tenant [0, 0x494E4C42, 0x10000009, 0x100, 0, 6])).isNone = true ∧
    (tget { tenant with started := [(4, { queue := 0, ring := 0, session := 0, words := [], wait := .imageChecked [] 0 0 [] [] })] }.started
      4).any (fun c => c.wait == .imageChecked [] 0 0 [] []) = true ∧
    (freeIndex tenant .session).isSome = true ∧ (freeIndex tenant .queue).isSome = true := by decide +kernel

/-- AccordBind: the last port and the first core group, FREE, BOUND, in DRAIN and in ERASE. -/
theorem test_AccordBind :
    ([(0x4000001F, ResState.free), (0x80000000, .bound), (0x80000000, .drain), (0x80000000, .erase)].all fun (v : Word × ResState) =>
      begins { tenant with groups := [(0, { state := v.2, owners := [2] })] } 0 0x11 (words 0x11 0 [v.1, 2]) fun c u =>
        (resSel (wd c.words 8)).any fun r => fld (wd c.words 9) 9 0 != 0 && (getAccord u (fld (wd c.words 9) 9 0)).state == .live
          && unitInService u r.1 r.2 && (getRes u r.1 r.2).state == v.2 && (getRes u r.1 r.2).pending.isNone) = true := by decide +kernel

/-- HandoverSteps: an unbind of a BOUND core group, of a channel under a region, and behind a queued bind. -/
theorem test_HandoverSteps_unbind :
    (begins regioned 0 0x12 (words 0x12 0 [0x80000004]) fun c u => resSel (wd c.words 8) == some (.coreGroup, 4)
      && (getRes u .coreGroup 4).state == .bound) = true ∧
    (begins regioned 0 0x12 (words 0x12 0 [0]) fun c u => resSel (wd c.words 8) == some (.channel, 0)
      && (getRes u .channel 0).state == .bound && channelInUse u 0) = true ∧
    ([ResState.drain, .erase].all fun st =>
      begins { tenant with groups := [(4, { state := st, owners := [2], pending := some { accord := 2 } })] } 0 0x12
        (words 0x12 0 [0x80000004]) fun c u => resSel (wd c.words 8) == some (.coreGroup, 4) && (getRes u .coreGroup 4).state == st
          && (getRes u .coreGroup 4).pending.isSome && (getRes u .coreGroup 4).unbindNext.isNone) = true := by decide +kernel

/-- HandoverSteps: a drained core group, an erased one whose clear is acknowledged, and one whose clear is still out. -/
theorem test_HandoverSteps_events :
    running regioned = true ∧ drainOver { regioned with groups := [(4, { state := .drain, owners := [2] })] } .coreGroup 4 = true ∧
    (getCore regioned 4).pool.isNone = true ∧ (getCore regioned 4).clearReq = false ∧ unbindWaiters regioned .coreGroup 4 = [] ∧
    (getCore (startErase regioned .coreGroup 4) 4).clearReq = true ∧
    drainOver { regioned with channels := [(0, { state := .drain, owners := [2] })] } .channel 0 = true ∧
    ({ stack := 0, base := 0, len := 1 : Pin }).stack = 0 / 32 := by decide +kernel

/-- AccordLeaving: retiring by ROOT and by the tenant itself, resetting, and accords that are LIVE, RETIRING and waited for. -/
theorem test_AccordLeaving :
    ([(0, 0x13), (3, 0x13), (0, 0x14), (3, 0x14)].all fun (v : Nat × Nat) => begins tenant v.1 v.2 (words v.2 0 [2]) fun c u =>
      decide (2 ≤ fld (wd c.words 8) 9 0) && (getAccord u 2).state != .free && (getAccord u 2).state != .retiring
        && ((sessionOf u c).world != .tenant || (sessionOf u c).accord == 2)) = true ∧
    (getAccord tenant 2).state = .live ∧ leaving tenant 2 false = false ∧
    leaving { regioned with groups := [(4, { state := .drain, owners := [2] })] } 2 false = true := by decide +kernel

/-! ## Regions, seals, epochs, FOLD -/

/-- AllocateRegion: one brick of each class, from HINT and from none, F at its last value. -/
theorem test_AllocateRegion :
    ([(0x00, 0xFFFFFF), (0xFF10, 40), (0x60, 0)].all fun (v : Word × Word) =>
      begins regioned 3 0x18 (words 0x18 0 [v.1, 1, v.2]) fun c u =>
        (clsOf (fld (wd c.words 8) 5 4)).any fun cls => (getAccord u 2).classes.getLsbD (clsNum cls)
          && (!bit (wd c.words 8) 6 || (getAccord u 2).scheduled) && (tfree (getMpe u 0).rt 0 256).isSome
          && (((if fld (wd c.words 10) 23 0 = 0xFFFFFF then none else lowestRun u 2 0 1 (fld (wd c.words 10) 23 0)).or
            (lowestRun u 2 0 1 0)).any fun b => (freeRegionId u 2).any fun rid => refRoom u c.session
              && (addRegion u 2 { off := none, id := rid, stack := 0, cls := clsNum cls, sched := bit (wd c.words 8) 6
                                  f := BitVec.ofNat 8 (fld (wd c.words 8) 15 8), base := b, limit := b, grants := [] }
                (some c.session)).2.any fun r => (okOf (holdRef (addRegion u 2
                  { off := none, id := rid, stack := 0, cls := clsNum cls, sched := bit (wd c.words 8) 6
                    f := BitVec.ofNat 8 (fld (wd c.words 8) 15 8), base := b, limit := b, grants := [] }
                  (some c.session)).1 c.session r)).isSome)) = true := by decide +kernel

/-- CarvePoolSet: the last brick of the region, one too many, none, and a core group that is not bound to the accord. -/
theorem test_CarvePoolSet :
    ([(4, 15, 1), (4, 0, 16), (4, 16, 1), (4, 0, 0), (5, 0, 1)].all fun (v : Word × Word × Word) =>
      begins regioned 3 0x19 (words 0x19 (handle regioned ⟨.region, 0⟩) [v.1, v.2.1, v.2.2]) fun c u =>
        (targetRegion u c).any fun x => coreBoundTo u (fld (wd c.words 8) 7 0) x.2.1.accord == (v.1 == 4)
          && (decide ((wd c.words 9).toNat + (wd c.words 10).toNat ≤ x.2.2.limit + 1 - x.2.2.base) == (v.2.1 != 16))
          && (addRef u ⟨.region, x.1⟩ .device 1).isSome) = true ∧
    (getCore regioned 4).pool = none ∧ (tget regioned.regions 0).any (fun g => decide (2 ≤ g.href + (g.dref + 1))) = true := by
  decide +kernel

/-- A class R region of accord 2 in SEALING on stack 0, its one brick 40, in the same bound channel. -/
def sealing : State :=
  { regioned with
    mpes := [(0, { rt := [(0, { cls := .r, sealState := .sealing, owner := 2, id := 5, base := 40, limit := 40, sealVal := 1 })]
                   formatted := true })] }

/-- SealCommands: a seal begun, a class S region that cannot be sealed, a region in SEALING with its keys at hand, and one that is open. -/
theorem test_SealCommands :
    (begins sealing 3 0x1A (words 0x1A (handle sealing ⟨.region, 0⟩) []) fun c u => (targetRegion u c).any fun x => x.2.2.cls == .r) = true ∧
    (begins regioned 3 0x1A (words 0x1A (handle regioned ⟨.region, 0⟩) []) fun c u => (targetRegion u c).any fun x => x.2.2.cls != .r) = true ∧
    (begins sealing 3 0x1B (words 0x1B (handle sealing ⟨.region, 0⟩) []) fun c u => (targetRegion u c).any fun x =>
      x.2.2.cls == .r && x.2.2.sealState == .sealing && !x.2.2.busy && (getMpe u x.2.1.stack).capState != 2
        && (makeResident u x.2.2.owner).2) = true ∧
    (getAccord sealing 2).sealCounter = 1 := by decide +kernel

/-- EpochAndHarvest: a retire that begins at the last generation but one, one at the last, one behind a running pass. -/
theorem test_EpochAndHarvest_epoch :
    ([({ gen := 32766 }, 0x10), ({ gen := 32767 }, 0x10), ({ gen := 1, prevLive := true }, 0x10), ({ gen := 32766 }, 0x20)].all fun
      (v : Epoch × Word) => begins { tenant with accords := tupd tenant.accords 2 fun x => { x with epochC := [(0, v.1)], epochR := [(0, v.1)] } }
        3 0x1C (words 0x1C 0 [v.2]) fun c u => (clsOf (fld (wd c.words 8) 5 4)).any fun k => k != .s
          && epochOf u (sessionOf u c).accord k (fld (wd c.words 8) 2 0) == v.1) = true := by decide +kernel

/-- Regioned, with the page at DPA 0 of accord 2 in its class C region. -/
def buffered : State :=
  { regioned with
    mpes := [(0, { rt := [(0, { cls := .c, owner := 2, id := 5, base := 16, limit := 31 })], formatted := true })]
    extents := [{ gid := 0x100, base := 0, pages := 1, writable := true, host := false, target := BitVec.ofNat 64 (9 * 2 ^ 48 + 16 * 2 ^ 21) }] }

/-- EpochAndHarvest: a harvest with a good buffer of the least size, with none, with a bad one, and behind a running walk. -/
theorem test_EpochAndHarvest_harvest :
    ([(buffered, 9, true), (buffered, 0, true), (buffered, 8, false), (buffered, 41, false),
      ({ buffered with mpes := tupd buffered.mpes 0 fun m => { m with walk := some { accord := 2, bricks := [16], result := 0 } } }, 9, true)].all
      fun (v : State × Word × Bool) => begins v.1 3 0x1D (words 0x1D 0 [0, v.2.1, 0]) fun c u =>
        (getAccord u (sessionOf u c).accord).state != .free
          && (wd2 c.words 9 == 0 || fld (wd2 c.words 9) 11 5 == 0 && decide (9 ≤ fld (wd2 c.words 9) 4 0)
            && decide (fld (wd2 c.words 9) 4 0 ≤ 21) && bufferInside u 2 0 9) == v.2.2) = true ∧
    channelsOf buffered 2 0 = [0] ∧ boundBricks tenant 2 0 = [] := by decide +kernel

/-- FoldCompletes: a FOLD of one brick of a class C region into class S memory of the same accord may run. -/
theorem test_FoldCompletes :
    (let s := having { regioned with
        mpes := [(0, { rt := [(0, { cls := .c, owner := 2, id := 5, base := 16, limit := 31 }), (1, { cls := .s, owner := 2, id := 6, base := 64, limit := 127 })]
                       formatted := true })]
        regions := [(0, { accord := 2, stack := 0, rt := 0, owner := some 3, dref := 1 }),
          (1, { accord := 2, stack := 0, rt := 1, owner := some 3, dref := 1 })]
        sessions := tupd regioned.sessions 3 fun x => { x with refs := [(⟨.region, 0⟩, 1), (⟨.region, 1⟩, 1)] } } 3
        (words 0x1E (handle regioned ⟨.region, 0⟩) [handle { regioned with regions := [] } ⟨.region, 1⟩, 0, 15, 1, 0]);
      (foldReady s 3).2 && (beginOf (foldReady s 3).1 3 0x1E).any fun b => (okOf (foldCheck b.2 (foldReady s 3).1.nextId b.1)).isSome)
      = true := by decide +kernel

/-- EngineSteps: a pass at the first and at the last brick of a channel, a walk with one brick left, a scrub at its last brick, a
rewrite under way. -/
theorem test_EngineSteps :
    live sealing = true ∧
    ([0, channelBricks - 1].all fun b =>
      let s := { sealing with mpes := tupd sealing.mpes 0 fun m => { m with passes := [{ accord := 2, cls := .r, epoch := 0, next := [(0, b)] }] } };
      ((getMpe s 0).passes.find? fun p => (tget p.next 0).isSome).any (fun p => tget p.next 0 == some b) && (getMpe s 0).reads.isEmpty)
      = true ∧
    ({ accord := 2, bricks := [16], result := 0 : Walk }).bricks = [16] ∧
    (let s := { sealing with channels := tupd sealing.channels 0 fun r => { r with scrub := some (channelBricks - 1) } };
      (getRes s .channel 0).scrub == some (channelBricks - 1)) = true ∧
    (tget (getMpe (startSealing sealing 0 0) 0).rt 0).any (fun e => e.busy && e.cls == .r && regionBound sealing 0 e) = true := by
  decide +kernel

/-- WindowAndPinnedSteps: a pinned line that waits and one that does not, an accord that is short and none, BEST_EFFORT left and none. -/
theorem test_WindowAndPinnedSteps :
    (let s := { tenant with
        mpes := [(0, { wbQueue := [(1, 3)], waited := [2], beShare := 0 })]
        accords := tupd tenant.accords 2 fun x => { x with resv := [(0, { c := 1 })] } };
      live s && (getMpe s 0).wbQueue.contains (1, 3) && !(getMpe s 0).wbQueue.contains (2, 3)
        && (s.accords.map (·.1)).filter (shortOf s 0) == [2] && (s.accords.map (·.1)).filter (shortOf s 1) == []
        && (getMpe s 0).beShare == 0 && (getMpe s 1).beShare != 0) = true := by decide +kernel

/-! ## Compute requests and memory -/

/-- A request of core group 4: its operation, its address and its mask. -/
def request (op : BitVec 3) (addr : BitVec 64) (mask : BitVec 64) : ComputeReq :=
  { src := 4, tag := 7, op := op, addr := addr, mask := mask, control := 0, arrival := 0, data := [] }

/-- StampRequests: memory, the domain window at both its ends, a misaligned address, and the holes on both sides of their bounds. -/
theorem test_StampRequests :
    running regioned = true ∧ inDry regioned = false ∧ regioned.pwr.entry = none ∧ regioned.pwr.waking = none ∧
    regioned.dbg.holding = none ∧ stOk regioned 0 = true ∧ bit (getCore regioned 4).entry 31 = true ∧
    (getCore regioned 4).watchHeld = [] ∧ (getCore regioned 4).localMark = false ∧ (getCore regioned 4).doorbells = [] ∧
    Machine.mpeOk regioned (fld (request 0 0x10000 0).addr 38 36) = true ∧ lpeOk regioned (fld (getCore regioned 4).entry 18 16) = true ∧
    hasCredit (getMpe regioned 0) .bestEffort = true ∧ hasCredit { getMpe regioned 0 with withheld := true } .bestEffort = false ∧
    isAxuOp (getMpe regioned 0) { origin := .core 4 7, accord := 2, op := .atomic } = true ∧
    ([0x7FFFFFFFC0, 0x200000000000000, 0x3FFFFFFFFFFFFC0].all fun (a : BitVec 64) => a.toNat % opSize (memOpOf 0) == 0
      && (decide (a.toNat < 0x8000000000) || decide (2 ^ 57 ≤ a.toNat) && decide (a.toNat < 2 ^ 58))) = true ∧
    ([0x8000002000, 0x1FFFFFFFFFFFFFF, 0x400000000000000].all fun (a : BitVec 64) =>
      decide (0x8000002000 ≤ a.toNat) && decide (a.toNat < 2 ^ 57) || decide (2 ^ 58 ≤ a.toNat)) = true ∧
    (request 0 0x10008 0).addr.toNat % opSize (memOpOf 0) ≠ 0 ∧ bit (getCore regioned 5).entry 31 = false := by decide +kernel

/-- CarveAndDoorbell: a pool with as many bricks left as are asked for, with fewer, and none; a doorbell that may ring a tenant's
queue, a foreign one, and a core group that may not ring. -/
theorem test_CarveAndDoorbell :
    (let s := updCore regioned 4 fun k => { k with pool := some { region := 0, stack := 0, first := 16, limit := 31, next := 30 } };
      (getCore s 4).pool.any fun p => decide (8 / 8 % 512 + 1 ≤ p.limit + 1 - p.next) && decide (p.limit + 1 - p.next < 16 / 8 % 512 + 1))
      = true ∧
    bit (getCore regioned 4).entry 14 = true ∧ (getCore regioned 4).stores = [] ∧ bit (getCore regioned 5).entry 14 = false ∧
    (tget regioned.queues 3).any (fun q => (tget regioned.sessions q.session).any fun x => x.world == .tenant
      && x.accord == fld (getCore regioned 4).entry 28 19) = true ∧
    (tget regioned.queues 2).any (fun q => (tget regioned.sessions q.session).any fun x => x.world != .tenant) = true ∧
    tget regioned.queues 4 = none := by decide +kernel

/-- A request of core group 4 for accord 2 in the brick of its region. -/
def req (op : MemOp) (brick off : Nat) : Req := { origin := .core 4 7, accord := 2, op := op, brick := brick, off := off }

/-- Regioned, with a request at the ingress of MPE 0, or the first in its service list. -/
def serving (e : RtEntry) (f : Mpe → Mpe) : State :=
  { regioned with mpes := [(0, f { rt := [(0, e)], formatted := true })] }

/-- A region of class S and one of class C. -/
def entryS : RtEntry := { cls := .s, owner := 2, id := 5, base := 16, limit := 31 }
/-- The class C region. -/
def entryC : RtEntry := { cls := .c, owner := 2, id := 5, base := 16, limit := 31 }

/-- RequestAdmission: an accord with a reservation, a request that is picked, keys at hand and not, and an accord made resident. -/
theorem test_RequestAdmission :
    (serving entryC id).accords.Pairwise (fun x y => x.1 < y.1) ∧
    (pickRequest (serving entryC fun m => { m with ingress := [req .readLine 16 0] }) 0 true { stretchers := 8 }).isSome = true ∧
    lacksKeys (serving entryC id) 0 (req .readLine 16 0) = none ∧
    lacksKeys { serving entryC id with accords := tupd tenant.accords 2 fun x => { x with ctx := none } } 0 (req .readLine 16 0) = some 2 ∧
    behindResidency (getMpe (serving entryC fun m => { m with residency := [req .readLine 16 0] }) 0) (req .readLine 16 64) = true ∧
    running tenant = true ∧ (makeResident tenant 2).2 = true ∧ (getAccord tenant 5).state = .free := by decide +kernel

/-- ReadsHitEntry: a VALID entry of the requester's accord and of another, class C and class S without an entry, and no region. -/
theorem test_ReadsHitEntry :
    ([(2, true), (3, false)].all fun (v : Nat × Bool) =>
      let s := serving entryC fun m => { m with ready := [req .readLine 16 64], store := [(256, { state := .valid, owner := v.1, data := zeros 256 })] };
      (getMpe s 0).ready == [req .readLine 16 64] && (okOf (checkPlace s 0 16 false none)).isSome
        && !behindResidency (getMpe s 0) (req .readLine 16 64)
        && (storeEntry s 0 (16 * 16 + 64 / 256)).any (fun en => en.state == .valid && (en.owner == 2) == v.2)) = true ∧
    ([entryC, entryS].all fun e => let s := serving e fun m => { m with ready := [req .readStretcher 31 3840] };
      (okOf (checkPlace s 0 31 false none)).isSome && (storeEntry s 0 (16 * 31 + 15)).isNone && !readsFull (getMpe s 0)
        && planKnown (getMpe s 0) e 31 == (e.cls == .s)) = true ∧
    (okOf (checkPlace (serving entryC id) 0 32 false none)).isNone = true := by decide +kernel

/-- WritesAnswered: class S writes of each kind with no entry in the way, at the masks all, none and one block, and the keys of class C. -/
theorem test_WritesAnswered :
    ([req .writeLine 16 0, { req .writeLine 16 0 with mask := 0xFFFF }, { req .writeLine 16 0 with mask := 0xFFFFFFFFFFFFFFFF },
      req .writeStretcher 16 256, req .writeBrick 31 0].all fun r =>
      let s := serving entryS fun m => { m with ready := [r] };
      (okOf (checkPlace s 0 r.brick false r.place)).any (fun e => e.2.cls == .s && e.2.owner == r.accord) && !writeWaits s 0 r
        && (stretchersOf r).all (fun x => (storeEntry s 0 x).isNone) && (r.op != .writeLine || r.mask == 0 || blockMask r.mask)
        && (meetEntries s 0 entryS r).2.isNone) = true ∧
    (heartOf (serving entryC id) 2).isSome = true ∧ (okOf (checkPlace (serving entryC id) 0 15 false none)).isNone = true := by decide +kernel

/-- AtomicsHitEntry: the eight operations with a CONTROL that Table 8.3 takes, an entry in each of its states, and a fill that begins. -/
theorem test_AtomicsHitEntry :
    ([0, 1, 2, 3, 4, 5, 6, 7].all fun k =>
      let r := { req .atomic 16 0 with control := BitVec.ofNat 32 (k * 2 ^ 28), mask := 0xFF };
      let s := serving entryS fun m => { m with ready := [r], store := [(256, { state := .valid, owner := 2, cls := .s, data := zeros 256 })] };
      atomicValid r.control r.mask (r.off % 64) && aopOf r.control == k && !emptyAtomic r && (okOf (checkPlace s 0 16 false none)).isSome
        && (storeEntry s 0 256).isSome) = true ∧
    (let s := serving entryS fun m => { m with ready := [req .atomic 16 0] };
      (storeEntry s 0 256).isNone && !readsFull (getMpe s 0)
        && (match makeRoom s 0 256 false .bestEffort with | (_, .ok) => true | _ => false)) = true := by decide +kernel

/-- ApplyOpFrame: an entry whose region stands, and a core group with no doorbell waiting. -/
theorem test_ApplyOpFrame :
    (tget (getMpe (serving entryS id) 0).rt 0).isSome = true ∧ (getCore regioned 4).doorbells = [] ∧
    ((tget (getMpe (applyOp (serving entryS id) 0 256 { req .atomic 16 8 with data := bput (zeros 64) 8 [3], mask := 0xF00 }
      { state := .valid, owner := 2, cls := .s, data := zeros 256 }) 0).store 256).any fun e => e.dirty
        && (e.data[8]?).any (· == 3)) = true := by
  decide +kernel

/-- ReadReturnSteps: a read with one line left and with two, a fill with data and one that failed, and a re-encryption with and without a
read of its brick. -/
theorem test_ReadReturnSteps :
    (let s := serving entryS fun m => { m with
        reads := [(0, { req := req .readLine 16 0, need := [.data 0, .data 1] }), (1, { req := req .readLine 17 0, need := [.data 0] })]
        store := [(300, { state := .filling, owner := 2, cls := .s, fillResult := some (.data (zeros 256)) }),
          (301, { state := .filling, owner := 2, cls := .s, fillResult := some (.failed .memUe) })]
        reenc := [{ brick := 16, req := req .writeLine 16 0 }, { brick := 20, req := req .writeLine 20 0 }] };
      (tget (getMpe s 0).reads 0).any (fun p => p.need.contains (.data 0) && p.need.erase (.data 0) != [])
        && (tget (getMpe s 0).reads 1).any (fun p => p.need.contains (.data 0) && p.need.erase (.data 0) == [] && p.fill.isNone)
        && (storeEntry s 0 300).any (fun e => e.fillResult == some (.data (zeros 256)))
        && (storeEntry s 0 301).any (fun e => e.fillResult == some (.failed .memUe))
        && ((getMpe s 0).reenc.find? fun y => y.brick == 16).isSome && ((getMpe s 0).reads.any fun p => p.2.req.brick == 16)
        && ((getMpe s 0).reenc.find? fun y => y.brick == 20).any (fun y => !y.sched)
        && !((getMpe s 0).reads.any fun p => p.2.req.brick == 20))
      = true := by decide +kernel

/-! ## Ports, bonds and streams -/

/-- Bond 0, LIVE with chip 7, over port 0, which is UP and bound to accord 2; stream 0 of the port is OPEN for it. -/
def linked : State :=
  { regioned with
    accords := tupd regioned.accords 2 fun x => { x with peers := [7], far := true }
    portRes := [(0, { state := .bound, owners := [2], exclusive := true })]
    ports := [(0, { state := .up, linkUp := true, streams := [(0, { state := .opened, accord := 2, bond := 0 })] }),
      (1, { state := .up, linkUp := true, gateway := true })]
    bonds := [(0, { state := .live, peer := 7, mask := 1, version := 1, root := zeros 32, rxRoot := zeros 32, owner := 0, dref := 1 })]
    drbgReady := true }

/-- Linked, with the bond changed by `f`. -/
def bondAs (f : Bond → Bond) : State := { linked with bonds := tupd linked.bonds 0 f }

/-- Linked, with the port changed by `f`. -/
def portAs (f : Port → Port) : State := { linked with ports := tupd linked.ports 0 f }

/-- PortCommands: the last port, DISABLED, DRAINING, UP, and out of service; a port without streams that is UP. -/
theorem test_PortCommands :
    ([0x25, 0x26].all fun op => begins linked 0 op (words op 0 [31]) fun c u => fld (wd c.words 8) 4 0 == 31
      && unitInService u .port 31 && portServes u 31 && (getPort u 31).state == .disabled) = true ∧
    ([0x25, 0x26].all fun op => begins linked 0 op (words op 0 [0]) fun _ u => unitInService u .port 0
      && (getPort u 0).state == .up) = true ∧
    (begins (portAs fun x => { x with state := .draining }) 0 0x25 (words 0x25 0 [0]) fun _ u => (getPort u 0).state == .draining
      && u.started.all fun e => e.2.wait != .portAgain 0) = true ∧
    (begins { linked with unitOk0 := 0 } 0 0x25 (words 0x25 0 [0]) fun _ u => !unitInService u .port 0) = true ∧
    linked.up = true ∧ (streamsWhere linked fun k x => k == 1 && (x.state == .opened || x.state == .draining)) = [] ∧
    (getPort linked 1).state = .up := by decide +kernel

/-- BondCommands: no policy, a policy that lets every chip in, and each state that the last two commands meet. -/
theorem test_BondCommands :
    (begins linked 0 0x20 (words 0x20 0 [8, 1]) fun _ u => lcBonds u && u.cfg.policy.isNone) = true ∧
    (begins { linked with cfg := { linked.cfg with policy := some (zeros 256) } } 0 0x20 (words 0x20 0 [8, 1]) fun c u =>
      lcBonds u && u.cfg.policy.any (peerAllowed · 8) && wd c.words 9 != 0 && fld (wd c.words 8) 15 0 != u.chipId
        && (maskPorts (wd c.words 9)).all (fun k => !(getPort u k).gateway && (getPort u k).state == .up)
        && (maskPorts (wd c.words 9)).head? == some 0 && (bondWith u 8).isNone && freeIndex u .bond == some 1 && refRoom u c.session
        && (okOf (holdRef { u with bonds := tset u.bonds 1 { owner := c.session, state := .attesting } } c.session ⟨.bond, 1⟩)).isSome) = true ∧
    ([BondState.live, .stale, .closing].all fun st => [0x21, 0x22].all fun op =>
      begins (bondAs fun x => { x with state := st }) 0 op (words op (handle linked ⟨.bond, 0⟩) []) fun c u =>
        (targetOf u c).any fun r => r.index == 0 && (getBond u 0).state == st && (getBond u 0).rekeyQueued.isNone
          && !rekeyRunning u 0) = true ∧
    (begins (bondAs fun x => { x with rekeyQueued := some 3 }) 0 0x22 (words 0x22 (handle linked ⟨.bond, 0⟩) []) fun c u =>
      (targetOf u c).isSome && (getBond u 0).rekeyQueued.isSome) = true ∧
    (getBond (bondAs fun x => { x with flipping := true }) 0).flipping = true := by decide +kernel

/-- StreamCommands: a stream opened with the last salt, and an OPEN one closed by the accord's own session. -/
theorem test_StreamCommands :
    (begins (bondAs fun x => { x with salt := 2 ^ 31 - 1 }) 0 0x23 (words 0x23 (handle linked ⟨.bond, 0⟩) [2, 0]) fun c u =>
      okOf (streamBond u c) == some (some 0) && (getBond u 0).state == .live && decide ((getBond u 0).salt < 2 ^ 31)
        && (getPort u 0).state == .up && (getBond u 0).mask.getLsbD 0 && !(getPort u 0).gateway && boundTo u .port 0 2
        && (getAccord u 2).peers.contains (getBond u 0).peer && (getAccord u 2).state == .live && decide (streamCount u 0 < 16)
        && freeEntry u 0 == some 1) = true ∧
    ([StreamState.opened, .opening, .draining].all fun st =>
      begins (portAs fun x => { x with streams := [(0, { state := st, accord := 2, bond := 0 })] }) 3 0x24 (words 0x24 0 [0x70000]) fun c u =>
        okOf (streamBond u c) == some (some 0) && fld (wd c.words 8) 12 0 == 0 && (getStream u 0 0).bond == 0
          && (getStream u 0 0).accord == (sessionOf u c).accord && (getStream u 0 0).state == st) = true := by decide +kernel

/-- HandshakeMessages: a handshake at its first step, one in AGREEING, a re-agreement, and a chip that no handshake is with. -/
theorem test_HandshakeMessages :
    live linked = true ∧ portHears linked 0 = true ∧ handshakeWith linked 7 = none ∧
    ([BondState.attesting, .agreeing].all fun st =>
      let s := bondAs fun x => { x with state := st, att := { x.att with step := 1 } };
      handshakeWith s 7 == some 0 && (getBond s 0).att.step == 1 && !(getBond s 0).att.decided && (getBond s 0).state == st) = true ∧
    (let s := bondAs fun x => { x with reagreeing := true, openCmd := some 5 };
      (getBond s 0).state == .live && (getBond s 0).reagreeing && (getBond s 0).openCmd == some 5) = true := by decide +kernel

/-- A HELLO of chip 7 whose version range is `lo` to `hi`. -/
def hello (lo hi : Nat) : Bytes := toLE 7 2 ++ toLE lo 1 ++ toLE hi 1 ++ zeros 1700

/-- AgreementMessages: both roles in AGREEING, and HELLOs with and without a common version. (What the peer's keys agree with rests on
log entry 4.) -/
theorem test_AgreementMessages :
    ([false, true].all fun i =>
      let s := bondAs fun x => { x with state := .agreeing, initiator := i };
      live s && handshakeWith s 7 == some 0 && portHears s 0 && (getBond s 0).initiator == i && !(getBond s 0).finishSent
        && !noEntropy s) = true ∧
    leField (hello 0 1) 0 2 = 7 ∧ commonVersion (hello 0 1) = some 1 ∧ commonVersion (hello 1 255) = some 1 ∧
    commonVersion (hello 2 3) = none ∧ commonVersion (hello 0 0) = none := by decide +kernel

/-- ControlMessages: each of the twelve types at the head of the inbox, and an empty inbox. -/
theorem test_ControlMessages :
    ([0x0101, 0x0102, 0x0103, 0x0104, 0x0105, 0x0106, 0x0107, 0x0108, 0x0109, 0x010A, 0x010B, 0x010C].all fun t =>
      let s := bondAs fun x => { x with inbox := [(BitVec.ofNat 16 t, zeros 64)] };
      live s && (getBond s 0).inbox.head?.any fun m => m.1.toNat == t && (getStream s (leField m.2 0 2 / 256) 0).bond == 0
        && (getStream s 0 0).peerStream == leField m.2 0 2) = true ∧
    ((getBond linked 0).inbox.head?.map (·.1)) = none := by decide +kernel

/-- LinkEvents: what each of its clauses asks of the bond or the stream, counters at their bounds. -/
theorem test_LinkEvents :
    (let s := portAs fun x => { x with streams := [(0, { state := .opening, accord := 2, bond := 0 })], genWindows := [(0, 2 ^ 25)] };
      live s && (getStream s 0 0).state == .opening && !mustDrain s 0 (getStream s 0 0)
        && s.started.all (fun e => e.2.wait != .streamOpen 0)
        && s.ports.any (fun p => decide (tgetD p.2.genWindows 0 0 ≥ 2 ^ 25))) = true ∧
    (linked.ports.any fun p => decide (tgetD p.2.genWindows 0 0 ≥ 2 ^ 25)) = false ∧
    (getBond linked 0).rxFlipping = false ∧ leField (toLE 1 2 ++ zeros 4) 0 2 = ((getBond linked 0).rxGen + 1) % 65536 ∧
    (getBond linked 0).flipping = false ∧ (getBond linked 0).nextRoot = none ∧ (getBond linked 0).rootGens < 65536 ∧
    (getBond (bondAs fun x => { x with flipping := true, txGen := 65535 }) 0).txGen = 65535 ∧
    leField (toLE 0 2) 0 2 = ((getBond (bondAs fun x => { x with flipping := true, txGen := 65535 }) 0).txGen + 1) % 65536 ∧
    ([(65024, 0, 0), (0, 65024, 0), (0, 0, 2 ^ 31)].all fun (v : Nat × Nat × Nat) =>
      let b := getBond (bondAs fun x => { x with initiator := true, txGen := v.1, rxGen := v.2.1, salt := v.2.2 }) 0;
      b.state == .live && b.initiator && !b.reagreeing && b.nextRoot.isNone
        && (decide (65024 ≤ b.txGen) || decide (65024 ≤ b.rxGen) || decide (2 ^ 31 ≤ b.salt))) = true ∧
    noEntropy linked = false ∧
    (getStream (portAs fun x => { x with streams := [(0, { state := .draining, bond := 0 })] }) 0 0).state = .draining := by decide +kernel

/-- A request for chip 7. -/
def remote (op : MemOp) : Req := { origin := .core 4 7, accord := 2, op := op, chip := 7 }

/-- WindowsOut: a request in the transmit stage, an owed acknowledgement with no window open, an open window, and one sent window with
resends below and at their limit. -/
theorem test_WindowsOut :
    (let s := portAs fun x => { x with tx := [(0, remote .readLine)] };
      live s && portServes s 0 && controlWaits s 0 == [] && outstandingRoom s 0 0
        && (packEntry s (streamNo 0 0) (requestEntry (remote .readLine) 0)).isSome) = true ∧
    (let s := portAs fun x => { x with streams := [(0, { state := .opened, accord := 2, bond := 0, ackOwed := true })] };
      (getS s 0).ackOwed && !(getS s 0).moveDue && portOf s 0 == some 0 && (getS s 0).win.isNone && mayOpenWindow s 0 0) = true ∧
    ([7, 8].all fun n =>
      let s := portAs fun x => { x with streams := [(0, { state := .opened, accord := 2, bond := 0, resends := n, sent := [{ seq := 0, gen := 0, flits := [] }] })] };
      (getS s 0).sent.head?.isSome && portOf s 0 == some 0 && (getS s 0).resends == n) = true ∧
    (getS (startWindow linked 0) 0).win.isSome = true := by decide +kernel

/-- A TAG flit of stream 0 from chip 7 with sequence `seq`. -/
def tagFlitOf (seq : Nat) : Bytes := toLE 9 2 ++ toLE 7 2 ++ toLE 2 1 ++ toLE 0 3 ++ zeros 20 ++ toLE seq 8 ++ zeros 220

/-- WindowsIn: a flit of an OPEN stream with room, TAG flits before and after the sequence awaited, and one whose window does not
verify. -/
theorem test_WindowsIn :
    (let s := portAs fun x => { x with streams := [(0, { state := .opened, accord := 2, bond := 0, rxSeq := 5 })] };
      live s && portCarries s 0 && flitStream s (tagFlitOf 4) == some 0 && (assembling s 0).length == 0 && !flawedFlit s 0 false []
        && flawedFlit s 0 true [] && decide (leField (tagFlitOf 4) 28 8 < (getS s 0).rxSeq)
        && decide ((getS s 0).rxSeq < leField (tagFlitOf 6) 28 8)
        && leField (tagFlitOf 5) 28 8 == (getS s 0).rxSeq && (openWindow s 0 (tagFlitOf 5) true).isNone) = true ∧
    memberOk linked 0x100 2 = true ∧ isCtl 0 = false := by decide +kernel

/-- GatewaySteps: an answer kept, requests of both kinds at a gateway port, a record not answered, one in the landing stage, a flit, and
the verdicts at the bounds of the map. -/
theorem test_GatewaySteps :
    (let s := portAs fun x => { x with streams := [(0, { state := .opened, accord := 2, bond := 0, responses := [{ inst := 0, oseq := 3, code := 0, data := [], req := remote .writeLine }] })] };
      (getS s 0).responses.head?.any fun x => (packEntry (arriveOnce s 0 x) 0 (responseEntry x)).isSome) = true ∧
    ([MemOp.readLine, .writeStretcher].all fun op =>
      let s := { linked with ports := tupd linked.ports 1 fun x => { x with gwIn := [remote op] } };
      (getPort s 1).gwIn == [remote op] && !underMark s (remote op)) = true ∧
    underMark (updCore linked 4 fun k => { k with lostChips := [7] }) (remote .readLine) = true ∧
    ([7, 8].all fun n =>
      let s := { linked with ports := tupd linked.ports 1 fun x => { x with
        gwSent := [{ accord := 2, chip := 7, rseq := 1, sent := true, resends := n }], landing := [(7, { accord := 2, chip := 9 })] } };
      ((getPort s 1).gwSent.find? fun x => x.accord == 2 && x.chip.toNat == 7 && x.rseq == 1 && x.sent).any (fun r => r.resends == n)
        && ((getPort s 1).landing[0]?).isSome) = true ∧
    (farKey (makeResident linked 2).1 2).isSome = true ∧
    (getPort linked 1).gateway = true ∧ portServes linked 1 = true ∧ leField (toLE 0 4 ++ [5]) 4 1 = 5 ∧
    (let s := { linked with accords := tupd linked.accords 2 fun x => { x with farRx := [(7, (100, 1))] } };
      verdict s 7 { accord := 2, chip := 9, rseq := 100 } == .duplicate && verdict s 7 { accord := 2, chip := 9, rseq := 36 } == .stale
        && verdict s 7 { accord := 2, chip := 9, rseq := 101, prev := 100 } == .apply
        && verdict s 7 { accord := 2, chip := 9, rseq := 102, prev := 101 } == .wait) = true ∧
    (getPort { linked with ports := tupd linked.ports 1 fun x => { x with landing := List.replicate 64 (7, { accord := 2, chip := 9 }) } }
      1).landing.length = 64 := by decide +kernel

/-! ## Keys, the cipher engine, translation -/

/-- A key material block in the clear for slot 64 of the TENANT world (Table 5.5), with its KEY of 32 B. -/
def keyBlock : Bytes := [0, 0, 1, 0, 0x18, 0x08] ++ toLE 0xC0 2 ++ [0x03] ++ zeros 23 ++ List.replicate 32 7

/-- Linked, with one key slot as given. -/
def slotAs (i : Nat) (k : Slot) : State := { linked with slots := [(i, k)] }

/-- KeyCommands: the top and the bottom of the slots, a shadow in each of its states, a slot that is LIVE and one that is STAGED. -/
theorem test_KeyCommands :
    (begins { linked with hubMem := memWriteBytes [] 0 64 keyBlock } 0 0x28 (words 0x28 0 [255, 64, 0]) fun c u =>
      fld (wd c.words 8) 7 0 == 255 && (okOf (namedSlot u (sessionOf u c) 255)).isSome && spaceOf (fld (wd c.words 8) 17 16) == some .hub
        && (okOf (readBlock u (sessionOf u c) .hub (wd2 c.words 9)).2) == some keyBlock
        && !attrDenied (sessionOf u c) 255 .hub keyBlock && (okOf (clearKey u (sessionOf u c) keyBlock).2).isSome
        && (getSlot u 255).state != .retiring && (getSlot u 255).shadow == .empty && keyObjRoom u c.session 255) = true ∧
    ([(ShadowState.staged, 0x29), (.checked, 0x2A), (.staged, 0x2A)].all fun (v : ShadowState × Nat) =>
      begins (slotAs 16 { state := .live, shadow := v.1, worlds := 1, shadowKey := zeros 32, key := zeros 32 }) 0 v.2 (words v.2 0 [16, 0]) fun c u =>
        (okOf (namedSlot u (sessionOf u c) (fld (wd c.words 8) 7 0))).any fun k => k.shadow == v.1) = true ∧
    ([SlotState.live, .staged].all fun st => begins (slotAs 64 { state := st, worlds := 1 }) 0 0x2B (words 0x2B 0 [64]) fun c u =>
      (okOf (namedSlot u (sessionOf u c) (fld (wd c.words 8) 7 0))).any fun k => k.state == st) = true ∧
    ({ state := .live, users := [4] : Slot }).users ≠ [] := by decide +kernel

/-- The label of accord 2 that KEY_DERIVE reads (Table 5.7), at HUB address 64. -/
def labelled : State :=
  { slotAs 16 { state := .live, worlds := 1, masters := 0x20, use := 0x04, lcmask := 0x80, key := zeros 32 } with
    hubMem := memWriteBytes [] 0 64 ([0x80, 1] ++ zeros 26 ++ [0x42, 0x4C, 0x4E, 0x4C]) }

/-- KeyCommands: a derivation by ROOT from slot 16 into the lowest top slot. -/
theorem test_KeyCommands_derive :
    (begins labelled 0 0x2C (words 0x2C 0 [16, 0, 64, 0]) fun c u => fld (wd c.words 8) 9 8 == 0
      && spaceCheck (sessionOf u c) (some (defaultSpace (sessionOf u c))) (wd2 c.words 10).toNat 32 == none
      && (okOf (deriveSource u (sessionOf u c) (wd c.words 8)).2).any (fun src =>
        (readSpace u (sessionOf u c) (defaultSpace (sessionOf u c)) (wd2 c.words 10) 32).2.any fun l => labelOk u src.owner l)
      && okOf (deriveDest u (fld (wd c.words 9) 7 0)) == some 64 && keyObjRoom u c.session 64) = true := by decide +kernel

/-- GceAndDrbg: jobs queued, begun and refused, a DRBG read of the most bytes and of one more, failing bits, and a failed source. -/
theorem test_GceAndDrbg :
    (begins linked 0 0x30 (words 0x30 0 [0, 0]) fun _ _ => true) = true ∧
    (begins linked 0 0x31 (words 0x31 0 [64, 0, 4096]) fun c u => decide ((wd c.words 10).toNat ≤ 4096) && !noEntropy u && !reseedDue u
      && spaceCheck (sessionOf u c) (some (defaultSpace (sessionOf u c))) (wd2 c.words 8).toNat (wd c.words 10).toNat == none) = true ∧
    (begins linked 0 0x31 (words 0x31 0 [64, 0, 4097]) fun c _ => decide (4096 < (wd c.words 10).toNat)) = true ∧
    (let s := { linked with started := [(4, { queue := 0, ring := 0, session := 0, words := words 0x30 0 [64, 0], wait := .gceQueued })]
                            gce := { linked.gce with jobs := [4] } };
      live s && s.gce.running.isNone && s.gce.jobs == [4] && (tget s.started 4).any fun c =>
        (okOf (prepareJob s 4 c).2).isNone
          && (okOf (prepareJob { s with hubMem := memWriteBytes [] 0 64 ([0x10, 0, 0, 0] ++ zeros 20 ++ toLE 4096 8) } 4 c).2).isSome) = true ∧
    repetitionFails (List.replicate 41 true) = true ∧ repetitionFails (List.replicate 40 true) = false ∧
    running linked = true ∧ linked.entropyFail = false ∧ linked.drbgReady = true ∧ gceMode 0x01 = some .ecb := by decide +kernel

/-- A request of accord 2 in the domain window. -/
def far (dva : BitVec 57) : Req := { origin := .core 4 7, accord := 2, op := .readLine, dva := dva }

/-- A TLB entry of accord 2 for its page at DVA 0x2000. -/
def page : TlbEntry := { accord := 2, base := 0x2000, size := 4096, writable := true, host := false, target := BitVec.ofNat 64 (9 * 2 ^ 48) }

/-- Linked, with a root at OTU 0 and that OTU changed by `f`. -/
def otuAs (f : Otu → Otu) : State :=
  { linked with accords := tupd linked.accords 2 fun x => { x with roots := [(0, 0)] }, otus := [(0, f {})] }

/-- DomainRequests: an intake with a root and without, a hit at both ends of the page, a pending miss, a miss, and dry-down. -/
theorem test_DomainRequests :
    ([0x2000, 0x2FFF, 0x3000].all fun (a : BitVec 57) =>
      let s := otuAs fun t => { t with ingress := [far a], tlb := [page] };
      running s && otuServes s 0 && (getOtu s 0).ingress == [far a] && !inDry s && (tget (getAccord s 2).roots 0).isSome
        && (tget (getAccord s 2).roots 1).isNone && (pendingMiss s 0 2 (dvaPage a)).isNone
        && (tlbHit s 0 (far a)).isSome == decide (a.toNat < 0x3000)
        && tfree (getOtu s 0).misses 0 256 == some 0) = true ∧
    (let s := otuAs fun t => { t with misses := [(255, { accord := 2, page := 2, waiting := [far 0x2000] })] };
      pendingMiss s 0 2 (dvaPage 0x2FFF) == some 255 && (tget (getOtu s 0).misses 255).isSome) = true ∧
    inDry { linked with frs := { linked.frs with dryDown := some 0x78 } } = true := by decide +kernel

/-- TranslationCommands: a reply with an entry and with a fault, one of a stale generation, one for a free slot, an invalidation, and ones
drained and not. -/
theorem test_TranslationCommands :
    (let s := { otuAs fun t => { t with misses := [(0, { accord := 2, page := 2, waiting := [far 0x2000] })] } with
        extents := [{ gid := 0x100, base := 0, pages := 8, writable := true, host := false, target := BitVec.ofNat 64 (9 * 2 ^ 48) }] };
      [(0, 0x90000000), (0, 0x00010000), (0x10000, 0x90000000), (1, 0x90000000)].all fun (v : Word × Word) =>
        begins s 0 0x39 (words 0x39 0 [v.1, v.2, 0, 0x90000, 0]) fun c u => fld (wd c.words 8) 15 12 == 0 && fld (wd c.words 9) 26 24 == 0
          && fld (wd c.words 9) 15 14 == 0 && wd c.words 12 == 0
          && (tget (getOtu u 0).misses (fld (wd c.words 8) 7 0)).isSome == (v.1 != 1)
          && ((tgetD (getOtu u 0).gens (fld (wd c.words 8) 7 0) 0).toNat == fld (wd c.words 8) 23 16) == (v.1 != 0x10000)
          && (if bit (wd c.words 9) 31 then replySizeOk u 2 false (wd2 c.words 10) (pageSizeOf (fld (wd c.words 9) 30 29))
              else (xfaultOf (fld (wd c.words 9) 23 16)).isSome)) = true ∧
    (begins linked 3 0x38 (words 0x38 0 [15, 0, 0x200000 - 0x1000, 0]) fun c u => (sessionOf u c).world != .root
      && fld (wd c.words 8) 3 0 == 15
      && !bit (wd c.words 8) 4 && (wd2 c.words 9).toNat % 4096 == 0 && decide ((wd2 c.words 9).toNat < 2 ^ 57)
      && (wd c.words 11).toNat % 4096 == 0) = true ∧
    (let s := { otuAs fun t => { t with misses := [(0, { accord := 2, page := 2, waiting := [far 0x2000] })] } with
        invalidations := [(0, { accord := 2, otus := [0], seq := 1 })] };
      live s && (tget s.invalidations 0).any fun x => drainedInvalidation s x && x.fence.isNone && s.hpe.moveInv.isNone) = true ∧
    (let s := { linked with invalidations := [(0, { accord := 2, otus := [0], seq := 1 })]
                            mpes := tupd linked.mpes 0 fun m => { m with ready := [{ far 0x2000 with via := some 0 }] } };
      (tget s.invalidations 0).any fun x => !drainedInvalidation s x) = true := by decide +kernel

/-- A mailbox descriptor for accord 2's global ID (Table 11.4): command, kind, flags, base, pages and target. -/
def descriptor (cmd kind base pages target fence : Nat) : Bytes :=
  [BitVec.ofNat 8 cmd, BitVec.ofNat 8 kind, 1, 0] ++ toLE 0x100 4 ++ toLE base 8 ++ toLE pages 4 ++ toLE fence 4 ++ toLE target 8

/-- MapAndMove: a brick extent at the stack's last brick, an extent unmapped that is there and one that is not, a move begun and refused,
and a page request with its keys at hand. -/
theorem test_MapAndMove :
    (let s := { linked with mailboxHost := { linked.mailboxHost with desc := 0x1000 }
                            hpe := { linked.hpe with mem := memWriteBytes [] 0 0x1000 (descriptor 1 0 (2 ^ 52 - 4096) 1 (16178175 * 2 ^ 21) 0) } };
      let d := readDescriptor s .host;
      leField d 0 1 == 1 && decide (leField d 1 1 ≤ 1) && fld ((d[2]?).getD 0) 7 2 == 0 && !bit ((d[2]?).getD 0) 1 && leField d 3 1 == 0
        && leField d 20 4 == 0 && !(descExtent d).host && fld (descExtent d).target 20 0 == 0 && (descExtent d).base % 4096 == 0
        && (descExtent d).pages == 1 && (descExtent d).base + 4096 == 2 ^ 52 && fld (descExtent d).target 44 21 == 16178175
        && s.extents.all (fun y => y.gid != (descExtent d).gid)) = true ∧
    (let f : Fence := { value := 0, creator := 2, signalers := [2] };
      let s := { linked with
        mailboxHost := { linked.mailboxHost with desc := 0x1000 }
        fences := [(0, f)]
        extents := [{ gid := 0x200, base := 4096, pages := 2, writable := true, host := false, target := 0 }]
        hpe := { linked.hpe with mem := memWriteBytes [] 0 0x1000 (descriptor 2 0 4096 2 0 0x30000000) } };
      let d := readDescriptor s .host;
      leField d 0 1 == 2 && okOf (parseHandle s (BitVec.ofNat 32 (leField d 20 4)) [.fence]) == some ⟨.fence, 0⟩ && maySignal 2 f
        && (s.extents.find? fun y => y.gid == (descExtent d).gid && y.base == (descExtent d).base
        && y.pages == (descExtent d).pages).isNone
        && s.accords.all fun e => decide (e.1 < 2) || e.2.state == .free || e.2.gid != 0x200) = true ∧
    (let s := { linked with
        extents := [{ gid := 0x100, base := 0, pages := 512, writable := true, host := true, target := 0x40000000 }]
        mpes := [(0, { rt := [(0, { cls := .c, owner := 2, id := 5, base := 0, limit := 511 })], formatted := true })]
        hpe := { linked.hpe with moveGid := 0x100 } };
      running s && bit (1 : Word) 0 && !s.hpe.moveBusy && memberOf s s.hpe.moveGid.toNat == some 2 && (moveExtent s).isSome
        && moveDestOk s 2) = true ∧
    hpeOk linked = true ∧ (makeResident { linked with hpe := { linked.hpe with pages := [] } } 2).2 = true := by decide +kernel

/-! ## The host port, registers and faults -/

/-- Linked, with function 63 bound to accord 2, its state as given. -/
def functionAs (st : VfState) : State := { linked with hpe := { linked.hpe with vfs := [(63, { bound := some 2, accord := 2, state := st })] } }

/-- HostFunctions: the last function, a doorbell of the PF's own queue, of a bound accord's primary queue and of a foreign one, and the PF
queue started at its least and greatest size. -/
theorem test_HostFunctions :
    ([0x3C, 0x3D].all fun op => begins (functionAs .running) 2 op (words op 0 [63]) fun c _ => fld (wd c.words 8) 5 0 == 63) = true ∧
    selectedVf { linked with sels := [(2 * 2 ^ 24 + 0x100024, 63)] } .host = 63 ∧ hpeOk linked = true ∧
    (getAccord linked 2).state = .live ∧ (getAccord linked 5).state ≠ .live ∧
    hostDoorbellOk (functionAs .running) 0 2 = true ∧ hostDoorbellOk (functionAs .running) 63 3 = true ∧
    hostDoorbellOk (functionAs .running) 63 2 = false ∧ (getVf (functionAs .quiesced) 63).state ≠ .running ∧
    primaryQueue (functionAs .running) 2 = some 3 ∧ linked.hpe.pfqEnable = false ∧
    ([0x80000004, 0x80000010].all fun (w : Word) => bit w 31 && decide (4 ≤ fld w 4 0)
      && decide (fld w 4 0 ≤ 16)) = true := by decide +kernel

/-- HostRecords: a reset of a QUIESCED function and of a RUNNING one, one VF fewer, a bounce at an aligned address, and a lane in use. -/
theorem test_HostRecords :
    (getVf (functionAs .quiesced) 63).state = .quiesced ∧ (getVf (functionAs .running) 63).state ≠ .quiesced ∧
    (let s := { functionAs .quiesced with hpe := { (functionAs .quiesced).hpe with numVfs := 63 } };
      s.hpe.numVfs == 62 + 1 && (getVf s (62 + 1)).state == .quiesced) = true ∧
    ([0x3A, 0x3B].all fun op => begins (functionAs .running) 3 op (words op 0 [0x1000, 0]) fun c u =>
      recordFn u (sessionOf u c) == some 63 && (getVf u 63).state == .running && (wd2 c.words 8).toNat % 64 == 0) = true ∧
    bounceCmds linked = [] ∧
    (({ linked with hpe := { linked.hpe with active := [(false, 15, 4)] } }).hpe.active.any fun x => x.1 == false && x.2.1 == 15) = true ∧
    (activeIds { linked with hpe := { linked.hpe with active := [(false, 15, 4)] } }).contains 4 = true ∧
    recordHead { queue := 3, ring := 0, session := 3, words := [], wait := .bounce false false [] none } = [] := by decide +kernel

/-- FetchTimeoutEntry: queues that may fetch and may not, running and STOPPED, a started command, and a completion entry at the wrap. -/
theorem test_FetchTimeoutEntry :
    mayFetch tenant 3 = none ∧
    ([false, true].all fun st =>
      let s := { tenant with queues := tupd tenant.queues 3 fun q => { q with tail := 1, stopped := st, slots := [(0, words 0 0 (List.replicate 8 0))] } };
      (mayFetch s 3).any fun b => b.1.stopped == st
        && (takeRefs (slotWords s b.1).1 (fetchChecks (slotWords s b.1).1 3 b.2 ((List.range 16).map fun i => wd (slotWords s b.1).2 i)).2.1).isSome)
      = true ∧
    (let s := { tenant with started := [(4, { queue := 3, ring := 0, session := 3, words := [], wait := .retry })] };
      (s.started.find? fun e => e.2.queue == 3 && e.2.ring == 0 && !e.2.timedOut).any fun e => e.2.wait != .watch
        && !(allJobs s).contains e.1) = true ∧
    (tget tenant.queues 3).any (fun x => x.space == .hub && decide (63 + 1 = 2 ^ x.log2)) = true := by decide +kernel

/-- A grant of every level but FULL, issued by the world given. -/
def grant (w : World) : Grant :=
  { levels := 0x7, signer := 0, issuer := w, session := 3, seconds := 60, since := 0, stopDomain := 0, watchGid := 0x100, recipient := [] }

/-- Linked, with a grant to the world given. -/
def granted (w : World) : State := { linked with dbg := { linked.dbg with grant := some (grant w) } }

/-- RegisterRows: the worlds, an offset at each alignment, the watchdog's least and greatest periods, and the aperture open and closed. -/
theorem test_RegisterRows :
    running linked = true ∧ hiOf 0x218 = some 0x21C ∧ (0x119 : BitVec 24).toNat % 4 ≠ 0 ∧ linked.frs.wdogEnable = false ∧
    ([0x80000001, 0x80002710].all fun (v : Word) => bit v 31 && decide (1 ≤ fld v 13 0) && decide (fld v 13 0 ≤ 10000)) = true ∧
    testEngineOpen { linked with lcc := { linked.lcc with state := 4 } } .root = true ∧ mayAperture (granted .mgmt) .mgmt = true ∧
    levelCovers (granted .mgmt) 0x118 = true ∧ mayAperture (granted .mgmt) .host = false ∧
    (List.range 0x1000).any (fun off => !levelCovers linked (4 * off)) = true := by decide +kernel

/-- ActiveStack: a source selected with 15 and with 16 stacked, the top named and not, and the stack frozen. -/
theorem test_ActiveStack :
    (let b := { linked.bec with enable := true, cfg := [(5, 0x80000000)], edges := [5], inputs := [5] };
      ([15, 16].all fun n => let s := { linked with bec := { b with stack := List.replicate n 300 } };
        s.bec.stack.length == n && s.bec.stack.head? == some 300)
        && (let s := { linked with bec := { b with frozen := true } }; s.bec.frozen && selected s == none)) = true ∧
    selected linked = none := by decide +kernel

/-- CheckValueUnits: every POLY of Table 13.6 and one that is reserved, and the writers of both pairs of units. -/
theorem test_CheckValueUnits :
    ([0, 1, 2, 3].all fun p => (crcParams p).isSome) = true ∧ crcParams 4 = none ∧
    (crcParams (getCvu linked 0).poly.toNat).isSome = true ∧ cvuMayWrite .root 0 = true ∧ cvuMayWrite .host 3 = true ∧
    cvuMayWrite .host 1 = false ∧ cvuMayWrite .root 4 = false := by decide +kernel

/-- Linked, with the fault unit changed by `f`. -/
def frsAs (f : Frs → Frs) : State := { linked with frs := f linked.frs }

/-- FaultsAndRungs: a fault that waits, an entry acknowledged, each rung due alone and behind others, and rungs in progress. -/
theorem test_FaultsAndRungs :
    (nextFault (frsAs fun x => { x with raised := [{ code := 0x10, cg := some 4 }] })).isSome = true ∧
    (let s := frsAs fun x => { x with entries := [(254, [0])], head := 254 };
      begins s 0 0x49 (words 0x49 0 [254]) fun c u => (wd c.words 8).toNat != 255 && (tget u.frs.entries 254).isSome
        && u.frs.lostTotal == 0) = true ∧
    (let s := { frsAs fun x => { x with due := [.rung1 (.laneGroup 7 3), .rung0 4, .rung2 2, .rung2 1, .rung3 [], .rung4 [], .rung5 []] } with
        sessions := linked.sessions ++ [(4, { world := .host, fn := some 0 })] };
      running s && !absorbed s (.rung0 4) && (tget s.sessions 4).any (!·.primary) && (getAccord s 2).state == .live
        && s.frs.due.any (· == .rung3 [])) = true ∧
    linked.frs.entries.length < 255 ∧ linked.frs.ringEnable = false ∧ (linked.fences.all fun e => e.2.mirror.isNone) = true ∧
    linked.fenceReady = [] ∧ linked.aon.up = true := by decide +kernel

/-- BlockEvents: the watchdog with and without a kick, each attempt's bounds on a die-to-die link, the last die, and dry-down. -/
theorem test_BlockEvents :
    running linked = true ∧ ([true, false].all fun k => (frsAs fun x => { x with wdogEnable := true, kicked := k }).frs.kicked == k) = true ∧
    dieLink 0 = true ∧ dieLink 39 = true ∧ dieLink 40 = false ∧ dieLink 6 = false ∧ linked.linksDown = [] ∧
    tgetD ({ linked with linkTries := [(0, 4)] }).linkTries 0 0 + 1 = 5 ∧ linked.aon.glitch.contains 24 = false ∧
    linked.cfg.fwDigest ≠ linked.cfg.fwDigest + 1 ∧
    (begins linked 1 0x48 (words 0x48 0 []) fun _ _ => true) = true ∧ (begins linked 1 0x47 (words 0x47 0 []) fun _ _ => true) = true := by
  decide +kernel

/-! ## Power, life cycle, debug, attestation -/

/-- IslandAndPower: a blank OTP, a block asleep and awake, the four states asked for, and those that are turned away. -/
theorem test_IslandAndPower :
    State.reset.aon.up = false ∧ (decodeOtp State.reset.otp).state ≠ lcUnreadable ∧ (decodeOtp State.reset.otp).voidPending = false ∧
    linked.aon.up = true ∧
    (let s := { linked with pwr := { linked.pwr with current := 2, vidReq := none }, bec := { linked.bec with cfg := [(40, 0x90000000)] } };
      s.up && asleep s && mayWake s 40 && s.pwr.entry.isNone && s.pwr.waking.isNone && s.pwr.current != 0
        && s.pwr.entering.isNone) = true ∧
    (let s := { linked with pwr := { linked.pwr with vidReq := some 0x28, entering := some 1 } };
      s.up && s.pwr.vidReq.isSome && s.pwr.entering == some 1 && s.pwr.waking.isNone) = true ∧
    ([0, 1, 2, 3].all fun n => begins linked 0 0x46 (words 0x46 0 [n]) fun c u =>
      !inDry u && fld (wd c.words 8) 1 0 == n.toNat && lcAdmits u maskPFS && u.cfg.job.isNone) = true ∧
    (begins { linked with lcc := { linked.lcc with state := 9 } } 0 0x46 (words 0x46 0 [3]) fun _ u => !lcAdmits u maskPFS) = true ∧
    (begins { linked with frs := { linked.frs with dryDown := some 0x78 } } 0 0x46 (words 0x46 0 [3]) fun _ u => inDry u) = true ∧
    linked.lcc.target = none := by decide +kernel

/-- IdleStep: a block that runs and one that does not, with no command waiting. -/
theorem test_IdleStep : linked.pending = [] ∧ running linked = true ∧ State.reset.pending = [] ∧ running State.reset = false := by
  decide +kernel

/-- StepRunsFrontCommand, StepKeepsEventsCurrent and EveryCommandAnswersSettled: a queue with a command in front. -/
theorem test_StepRunsFrontCommand :
    ({ linked with pending := [.nop 0] }).pending = [.nop 0] ∧ linked.bec.pulses = [] ∧ linked.bec.cfg = [] := by decide +kernel

/-- LifeCycleAndGrant: the plain transitions, one under way, a word programmed, a decode that agrees, and a grant that ends. -/
theorem test_LifeCycleAndGrant :
    (let s := { linked with lcc := { linked.lcc with state := 4 } };
      plainRefusal s 5 == none && plainWorld s .root && s.lcc.target.isNone
        && begins s 0 0x40 (words 0x40 0 [5, 0, 0]) fun c u => fld (wd c.words 8) 3 0 == 5 && wd2 c.words 9 == 0
        && plainRefusal u 5 == none) = true ∧
    plainRefusal linked lcVoided = none ∧
    (let s := { linked with lcc := { linked.lcc with target := some 5, prog := transitionWords linked 5 false [] [] } };
      s.lcc.target == some 5 && decide (2 ≤ s.lcc.prog.length) && s.lcc.prog.head?.all (fun x => x != .clearTenants)
        && (s.lcc.prog[1]?).all (fun y => y != .compare)) = true ∧
    (let s := { linked with lcc := { linked.lcc with state := (decodeOtp linked.otp).state } };
      (decodeOtp s.otp).state == s.lcc.state && s.lcc.state != lcUnreadable) = true ∧
    (granted .host).up = true ∧ (granted .host).dbg.grant.isSome = true ∧ (queuesOf (granted .host) 3).head? = some 3 := by decide +kernel

/-- StopWatchAndConfig: a stop begun and refused, a STOP flit of the domain, a stopped block, a watch, and a write of the slot not in use. -/
theorem test_StopWatchAndConfig :
    (begins (granted .host) 2 0x42 (words 0x42 0 []) fun _ u => u.dbg.grant.any fun g =>
      g.levels.getLsbD levelStop && u.dbg.stop == .running && g.stopDomain == 0) = true ∧
    (begins linked 2 0x42 (words 0x42 0 []) fun _ u => u.dbg.grant.isNone) = true ∧
    (let g := { grant .host with stopDomain := 77 };
      let s := { linked with dbg := { linked.dbg with grant := some g } };
      let f := zeros 16 ++ toLE 77 4 ++ toLE 1 4 ++ toLE 14 1 ++ zeros 231;
      running s && portCarries s 0 && g.levels.getLsbD levelStop && g.stopDomain.toNat == leField f 16 4 && leField f 16 4 != 0
        && !s.dbg.seen.contains (BitVec.ofNat 32 (leField f 20 4)) && decide (leField f 24 1 < 15)) = true ∧
    holdsLevel (granted .host) levelStop = true ∧
    (let s := { granted .host with dbg := { (granted .host).dbg with watchFence := 0x30000000 } };
      begins s 2 0x43 (words 0x43 (handle s ⟨.region, 0⟩) []) fun c u => (watchRegion u c).any fun x =>
        decide (2 ≤ x.1) && gidOf u x.1 == 0x100 && watchFenceOk u x.1) = true ∧
    ([64, slotSize].all fun n =>
      begins { linked with hubMem := memWriteBytes [] 0 64 (zeros 8 ++ toLE n 4) } 0 0x44 (words 0x44 0 [64, 0]) fun c u =>
        mayWriteSlot u (sessionOf u c) && u.cfg.job.isNone && usedSeq u != 0xFFFFFFFE
          && (readSpace u (sessionOf u c) .hub (wd2 c.words 8) 64).2.any (fun h => leField h 8 4 == n)
          && spaceCheck (sessionOf u c) (some .hub) (wd2 c.words 8).toNat n == none) = true ∧
    (begins linked 0 0x45 (words 0x45 0 [64, 0]) fun c u => u.cfg.job.isNone && decide (usedSeq u < 0xFFFFFFFD)
      && spaceCheck (sessionOf u c) (some .hub) (wd2 c.words 8).toNat 48 == none) = true := by decide +kernel

/-- Linked, with the bound management session. -/
def managed : State := { linked with mgmt := { linked.mgmt with sec := .bound } }

/-- ManagementMessages: the bound session with nothing held, staging bytes at both ends and past them, registers, a module, the
aperture, and a slot of queue 1. -/
theorem test_ManagementMessages :
    running managed = true ∧ managed.mgmt.held = [] ∧ managed.mgmt.awaits = none ∧ inDry managed = false ∧
    stagingFits 0 1 = true ∧ stagingFits 0xFFFFFF 1 = true ∧ stagingFits 0xFFFC00 1024 = true ∧ stagingFits 0xFFFFFF 2 = false ∧
    stagingFits 0 0 = false ∧ stagingFits 0 1025 = false ∧
    ((List.range 1).all fun i => openReg (0x000 + 4 * i)) = true ∧ (getPort managed 0).state = .up ∧
    mayAperture managed .mgmt = false ∧ mayAperture (granted .mgmt) .mgmt = true ∧
    (tget managed.queues 1).any (fun x => (x.tail + 1) % 2 ^ x.log2 != x.head) = true ∧ managed.mgmt.unread.length < 64 ∧
    linked.mgmt.sec ≠ .bound ∧ managed.mgmt.sec ≠ .none := by decide +kernel

/-- Linked, with the SPDM responder at a stage. -/
def spdmAt (t : Transport) (n : Nat) : State := setSpdm linked t { stage := n, pending := some 1 }

/-- AttestationRequests: each stage on both transports. -/
theorem test_AttestationRequests :
    ([Transport.pcie, .i3c].all fun t => running (spdmAt t 3) && fullOffer (spdmAt t 3) && (getSpdm (spdmAt t 3) t).stage == 3
      && (getSpdm (spdmAt t 2) t).stage == 2 && (getSpdm (spdmAt t 1) t).stage == 1 && (getSpdm (spdmAt t 3) t).pending.isSome
      && (spdmAt t 3).mgmt.sec == .none) = true ∧
    accordByGid { linked with accords := tupd linked.accords 2 fun x => { x with accordKey := some (zeros 88) } } 0x100 = some 2 := by decide +kernel

/-- SecuredSession: no session, one exchanged, and one established. (What its keys and signatures verify as rests on log entry 4.) -/
theorem test_SecuredSession :
    (let s := spdmAt .i3c 3; running s && fullOffer s && s.mgmt.sec == .none && !noEntropy (clearPending s .i3c)) = true ∧
    (let s := { spdmAt .i3c 3 with mgmt := { (spdmAt .i3c 3).mgmt with sec := .exchanged } }; s.mgmt.sec != .none
      && (getSpdm s .i3c).stage == 3) = true ∧
    (let s := { spdmAt .i3c 3 with mgmt := { (spdmAt .i3c 3).mgmt with sec := .finished } }; mgmtSession s
      && (getSpdm s .i3c).stage == 3) = true ∧
    leField (zeros 2 ++ [1]) 2 1 = 1 := by decide +kernel

/-! ## Well-formedness -/

/-- Terms that WellFormed refuses, one for each of its conditions: numbers one past the last, and data of a length its row does not carry. -/
theorem test_illFormed_refused :
    ([.nop 1024, .doorbell 256 0, .hostDoorbell 64 0, .flr 64, .vfCommandSlotWrite 0 0 (List.replicate 16 0), .vfCommandSlotWrite 64 0 (List.replicate 16 0),
      .vfCommandSlotWrite 1 64 (List.replicate 16 0), .vfCommandSlotWrite 1 0 (List.replicate 15 0), .commandTimeout 0 65536, .commandTimeout 1024 0,
      .stampRequest 16 (request 0 0 0), .stampRequest 0 (request 2 0 0), .stampRequest 0 (request 3 0 0), .stampRequest 0 (request 4 0 0),
      .stampRequest 0 { request 0 0 0 with data := [1] }, .admissionSlot 8, .readLine 8 .none, .accordResident 1024, .storeFillComplete 8 0,
      .storeFillComplete 0 (16 * 16178176), .hbmReadReturn 0 (2 ^ 19) .tag none 0, .reencryptionComplete 0 16178176, .pinnedWriteback 0 3 0,
      .epochPassStep 0 32, .scrubStep 256, .sealRewriteComplete 0 256, .handoverDrainComplete .channel 256, .eraseComplete .port 32,
      .handoverDrainComplete .coreGroup 256, .streamDrainTimeout 8192, .linkUp 32, .portTransmit 0 [8], .dataFlitReceive 0 [] false [],
      .tagFlitReceive 32 (zeros 256) false [], .gatewayFlitReceive 0 (zeros 256) false [8], .stopFlit 0 [], .helloI 32 0 [], .openReq 4096,
      .gatewayRecordIdleClose 0 1024 0, .gatewayResendTimeout 32 0 0 0, .landingWaitTimeout 0 64, .domainRequest 9, .xlateTimeout 0 256, .vfDisable 64,
      .recordLaneStall false 16, .cvuInit .root 4 0, .registerWrite .root 0 3 0, .mortarCrcError 41 1, .mortarCrcError 0 0, .mortarCrcError 0 6,
      .tamper 25, .blockStart (List.replicate 65 0), .wake (some 512), .command [], .moduleReport 32 [], .getVersion (.bond 32 0),
      .getVersion (.answer 32 0 [])] : List Instr).all (fun i => !wellFormed i) = true := by decide +kernel

/-- Terms at the last value of each condition, which WellFormed takes. -/
theorem test_wellFormed_accepted :
    ([.nop 1023, .doorbell 255 0, .hostDoorbell 63 0, .vfCommandSlotWrite 63 63 (List.replicate 16 0), .stampRequest 15 (request 0 0 0), .admissionSlot 7,
      .accordResident 1023, .pinnedWriteback 7 2 0, .epochPassStep 7 31, .eraseComplete .port 31, .streamDrainTimeout 8191, .portTransmit 31 [7],
      .dataFlitReceive 31 (zeros 256) true [7], .openReq 4095, .domainRequest 8, .mortarCrcError 40 5, .tamper 24, .wake (some 511),
      .registerWrite .root 0 1 0] : List Instr).all wellFormed = true := by decide +kernel

/-! ## The spec's own figures -/

/-- The CRC that polynomial `n` gives for the ASCII bytes "123456789". -/
def crcOf (n : Nat) : Option Nat :=
  (crcParams n).map fun p => ((ascii "123456789").foldl (crcByte p.1 p.2.1 p.2.2.2.1) p.2.2.1).xor p.2.2.2.2

/-- Table 13.4, column Check. -/
theorem test_crc_check_values :
    (List.range 4).map crcOf = [some 0xE3069283, some 0xCBF43926, some 0x995DC9BBDF1939FA, some 0x29B1] := by decide +kernel

/-- The last feed of the example after R359: VALUE and COUNT of CVU2, and its RESULT. -/
theorem test_cvu_feed_example :
    (let v := (ascii "12345678").foldl (crcByte 32 0x1EDC6F41 true) 0xFFFFFFFF;
      match exec (.cvuFeed8 .host 2 0x39) { begun with cvus := [(2, { value := BitVec.ofNat 64 v, count := 8 })] } with
      | .next t => (getCvu t 2).value == 0x1CF96D7C && (getCvu t 2).count == 9 && cvuResult (getCvu t 2) == 0xE3069283
      | _ => false) = true := by decide +kernel

/-- The C_ENC label of the example before R137. -/
theorem test_label_example :
    labelBytes { purpose := 0x10, epoch := 1, stack := 3, cls := 1, index := 5, gid := 0xA31 }
      = [0x10, 0x01, 0x01, 0x03, 0x01, 0x00, 0x05, 0x00, 0x31, 0x0A] ++ zeros 18 ++ [0x42, 0x4C, 0x4E, 0x4C] := by decide +kernel

/-- Table 6.8: stretcher 13 of brick 1,029,855. -/
theorem test_metadata_addresses :
    dataAddr 1029855 0xD00 = 0x10491FD00 ∧ tagAddr 1029855 13 = 0x17B928FE8 ∧ courseOf 1029855 = 266823 ∧
    lineAddr 0 266823 = 0x17F7291C0 ∧ lineAddr 1 33352 = 0x17FEE9200 ∧ lineAddr 2 4169 = 0x17FFE1240 ∧
    capOff 3 521 = 0x8240 ∧ capOff 4 65 = 0x81040 ∧ capOff 5 8 = 0x90200 ∧ capOff 6 1 = 0x92040 ∧ capOff 7 0 = 0x92400 := by
  decide +kernel

/-- The counter block and the pad input of the example before R175. -/
theorem test_counter_block_example :
    memBlock false 3 1029855 13 2 1 165 4 1 0x5AC3E107D4 = 0x187DB6FEC80000000052C45AC3E107D4 ∧
    memBlock true 3 1029855 13 0 0 165 4 1 0x5AC3E107D4 = 0x587DB6FE800000000052C45AC3E107D4 := by decide +kernel

/-- The example after R438, RANK_BITS 3, source 300 of priority 0x40 active: 0x3F pre-empts it, 0x41 waits, 0x20 goes before 0x3F. -/
theorem test_selection_example :
    (let s (l : List (Nat × Nat)) : State := { begun with bec := { begun.bec with
        enable := true, rankBits := 3, stack := [300], edges := l.map (·.1)
        cfg := l.map (fun x => (x.1, pack [(1, 31), (1, 29), (x.2, 18)])) ++ [(300, pack [(1, 31), (1, 29), (0x40, 18)])] } };
      [selected (s [(8, 0x3F)]), selected (s [(8, 0x41)]), selected (s [(8, 0x3F), (9, 0x20)])]) = [some 8, none, some 9] := by decide +kernel

end Sys2Proof.Tests
end

namespace Sys2Proof.Machine

/-- The equation of `step` for a queue that is not empty: the front command runs and no longer stands in the queue it sees. -/
theorem step_of_pending_cons {s : State} {c : Instr} {rest : List Instr} (hfront : s.pending = c :: rest) :
    step s = exec c { s with pending := rest } := by
  unfold step
  rw [hfront]

/-- Settles O1: it is the equation of `step` for a queue with a command in front (R7). -/
theorem stepRunsFrontCommand : Obligations.StepRunsFrontCommand := by
  intro s c rest hfront
  exact step_of_pending_cons hfront

end Sys2Proof.Machine

namespace Sys2Proof.Machine

/-! ## What a bind does to a resource (R58, Table 2.6) -/

@[simp] theorem getRes_updRes_self (s : State) (k : ResKind) (i : Nat) (f : Res → Res) :
    getRes (updRes s k i f) k i = f (getRes s k i) :=
  getRes_setRes_self s k i _

/-- A core group's stamp unit is no part of the resource records. -/
@[simp] theorem getRes_updCore (s : State) (cg : Nat) (f : Core → Core) (k : ResKind) (i : Nat) :
    getRes (updCore s cg f) k i = getRes s k i := by
  cases k <;> rfl

/-- The record of a resource after its bind step. -/
theorem getRes_bindNow_self (s : State) (k : ResKind) (i a : Nat) (info : Word) :
    getRes (bindNow s k i a info) k i =
      { getRes s k i with
        state := .bound, pending := none, scrub := (getRes s k i).scrub.map fun _ => 0
        owners := if k = .port ∧ (getRes s k i).state = .bound then (getRes s k i).owners ++ [a] else [a]
        exclusive := k ≠ .port || bit info 0 } := by
  cases k <;> simp [bindNow]

/-- The bind step changes the resource records and the entries of core groups, and nothing else. -/
theorem bindNow_frame (s : State) (k : ResKind) (i a : Nat) (info : Word) :
    { bindNow s k i a info with
      channels := s.channels, portRes := s.portRes, groups := s.groups, cores := s.cores } = s := by
  cases k <;> rfl

/-- A bind of a resource that is leaving only joins its record as the queued one (R58). -/
theorem getRes_bindOrQueue_of_leaving {s : State} {k : ResKind} {i : Nat}
    (hleaving : (getRes s k i).state = .drain ∨ (getRes s k i).state = .erase) (a : Nat) (info : Word) (cmd : Option Nat) :
    getRes (bindOrQueue s k i a info cmd) k i =
      { getRes s k i with pending := some { accord := a, cmd := cmd, info := info } } := by
  unfold bindOrQueue
  rw [if_pos hleaving, getRes_updRes_self]

/-! ## ACCORD_BIND -/

/-- The meaning of ACCORD_BIND is its effect run as a hub command. -/
theorem exec_accordBind (q : Nat) (s : State) : exec (.accordBind q) s = runCommand 0x11 q accordBindEff s := rfl

/-- The entry that ACCORD_BIND binds with: a port exclusively, a core group BEST_EFFORT (log entry 78). -/
def accordBindInfo (k : ResKind) : Word := if k = .port then 1 else 0

/-- With that entry every kind of resource is bound exclusively. -/
theorem exclusive_accordBindInfo (k : ResKind) : (k ≠ .port || bit (accordBindInfo k) 0) = true := by
  cases k <;> decide

section Effect

variable {u : State} {c : Started} {k : ResKind} {i : Nat} (id : Nat)
  (hsel : resSel (wd c.words 8) = some (k, i)) (hnonzero : fld (wd c.words 9) 9 0 ≠ 0)
  (hlive : (getAccord u (fld (wd c.words 9) 9 0)).state = .live) (hservice : unitInService u k i = true)

include hsel hnonzero hlive hservice

/-- Past its operand checks ACCORD_BIND goes by the state of the resource (R58, Table 2.7). A FREE one is bound at once. -/
theorem accordBindEff_of_free (hfree : (getRes u k i).state = .free) :
    accordBindEff id c u = .good (bindNow u k i (fld (wd c.words 9) 9 0) (accordBindInfo k)) := by
  simp [accordBindEff, accordBindInfo, hsel, hnonzero, hlive, hservice, hfree]

/-- One that is BOUND answers RESOURCE_BUSY, and nothing changes. -/
theorem accordBindEff_of_bound (hbound : (getRes u k i).state = .bound) :
    accordBindEff id c u = .fail .resourceBusy u := by
  simp [accordBindEff, hsel, hnonzero, hlive, hservice, hbound]

/-- For one that is leaving, with no bind queued yet, the command waits with its bind queued. -/
theorem accordBindEff_of_leaving (hleaving : (getRes u k i).state = .drain ∨ (getRes u k i).state = .erase)
    (hnone : (getRes u k i).pending = none) :
    accordBindEff id c u =
      .wait (.bind k i) (bindOrQueue u k i (fld (wd c.words 9) 9 0) (accordBindInfo k) (some id)) := by
  obtain hdrain | herase := hleaving
  · simp [accordBindEff, accordBindInfo, hsel, hnonzero, hlive, hservice, hdrain, hnone]
  · simp [accordBindEff, accordBindInfo, hsel, hnonzero, hlive, hservice, herase, hnone]

end Effect

/-- Settles O12: the effect goes by the resource's state (R58, Table 2.7), and what it leaves is the record after the bind step or
with the bind queued. That the bind is exclusive is the model's choice (log entry 78). -/
theorem accordBind : Obligations.AccordBind := by
  intro s u q i c k hbegin hsel hnonzero hlive hservice
  rw [exec_accordBind]
  refine ⟨fun hfree => ?free, fun hbound => ?bound, fun hleaving hnone => ?leaving⟩
  case free =>
    refine ⟨_, runCommand_done hbegin _ (accordBindEff_of_free s.nextId hsel hnonzero hlive hservice hfree),
      ?_, ?_, ?_, bindNow_frame ..⟩
    · rw [getRes_bindNow_self]
    · simp [getRes_bindNow_self, hfree]
    · rw [getRes_bindNow_self]
      exact exclusive_accordBindInfo k
  case bound =>
    exact runCommand_done hbegin _ (accordBindEff_of_bound s.nextId hsel hnonzero hlive hservice hbound)
  case leaving =>
    refine ⟨_, runCommand_wait hbegin _ (accordBindEff_of_leaving s.nextId hsel hnonzero hlive hservice hleaving hnone), ?_⟩
    rw [getRes_bindOrQueue_of_leaving hleaving]
    exact ⟨rfl, rfl, rfl⟩

end Sys2Proof.Machine

namespace Sys2Proof.Machine

/-! ## IMAGE_LOAD (R80, R81) -/

/-- The meaning of IMAGE_LOAD is its effect run as a hub command. -/
theorem exec_imageLoad (q : Nat) (s : State) : exec (.imageLoad q) s = runCommand 0x10 q imageLoadEff s := rfl

/-- A read of HUB or HOST space changes nothing: only a read of accord space goes through the memory engines. -/
theorem readSpace_of_ne_accord {s : State} {x : Session} {sp : Space} {a : BitVec 64} {len : Nat} {bytes : Bytes}
    (hspace : sp ≠ .accord) (hread : (readSpace s x sp a len).2 = some bytes) : readSpace s x sp a len = (s, some bytes) := by
  refine Prod.ext ?_ hread
  cases sp with
  | hub => rfl
  | host => rfl
  | accord => exact absurd rfl hspace

/-- What IMAGE_LOAD answers for an image that it has read: a good one waits for its commit with its measurements, a bad one is
REJECTED with the failing record's detail (R81). -/
def phase1Eff (u : State) (image : List Word) : Eff :=
  match phase1 u image with
  | .ok k => .wait (.imageChecked image k.m k.d k.hearts.1 k.hearts.2) u
  | .error e => .reject (imgDetail e.2 e.1) u

theorem phase1Eff_of_ok {u : State} {image : List Word} {k : Checked} (hphase : phase1 u image = .ok k) :
    phase1Eff u image = .wait (.imageChecked image k.m k.d k.hearts.1 k.hearts.2) u := by
  rw [phase1Eff, hphase]

theorem phase1Eff_of_error {u : State} {image : List Word} {e : Nat × Nat} (hphase : phase1 u image = .error e) :
    phase1Eff u image = .reject (imgDetail e.2 e.1) u := by
  rw [phase1Eff, hphase]

section ImageRead

variable {u : State} {c : Started} {sp : Space} {head rest : Bytes} (id : Nat)
  (hstate : imageState u = true) (hsel : spaceOf (fld (wd c.words 10) 1 0) = some sp) (hspace : sp ≠ .accord)
  (hheadOk : spaceCheck (sessionOf u c) (some sp) (wd2 c.words 8).toNat 24 = none)
  (hhead : (readSpace u (sessionOf u c) sp (wd2 c.words 8) 24).2 = some head)
  (hmin : 6 ≤ (wd (wordsOf head) 5).toNat) (hmax : (wd (wordsOf head) 5).toNat ≤ 262144)
  (himageOk : spaceCheck (sessionOf u c) (some sp) (wd2 c.words 8).toNat (4 * (wd (wordsOf head) 5).toNat) = none)
  (hrest : (readSpace u (sessionOf u c) sp (wd2 c.words 8 + 24) (4 * (wd (wordsOf head) 5).toNat - 24)).2 = some rest)

include hstate hsel hspace hheadOk hhead hmin hmax himageOk hrest

/-- Once its header and its rest are read, IMAGE_LOAD goes by phase 1 alone, in the state it began in. -/
theorem imageLoadEff_of_read : imageLoadEff id c u = phase1Eff u (wordsOf head ++ wordsOf rest) := by
  have hreadHead := readSpace_of_ne_accord hspace hhead
  have hreadRest := readSpace_of_ne_accord hspace hrest
  have hlength : ¬((wd (wordsOf head) 5).toNat < 6 ∨ 262144 < (wd (wordsOf head) 5).toNat) := by omega
  rw [BitVec.ofNat_eq_ofNat] at hreadRest -- the literal as `simp` spells it
  cases hphase : phase1 u (wordsOf head ++ wordsOf rest) <;>
    simp [imageLoadEff, phase1Eff, hstate, hsel, hspace, hheadOk, hreadHead, hlength, himageOk, hreadRest, hphase]

end ImageRead

/-! ## IMAGE_COMMIT (R82, R83) -/

/-- The commit of an image that waits runs phase 2 over it, and then everything it lets finish. -/
theorem exec_imageCommit_of_checked {s : State} {id : Nat} {c : Started} {image : List Word} {m d : BitVec 384} {hc hs : Bytes}
    (hlive : live s = true) (hstarted : tget s.started id = some c) (hwait : c.wait = .imageChecked image m d hc hs) :
    exec (.imageCommit id) s = .next (settleAll (commitImage s id image m d (hc, hs))) := by
  change execImageCommit id s = _
  simp [execImageCommit, hstarted, hwait, hlive]

section Commit

variable {s : State} {image : List Word} (id : Nat) (m d : BitVec 384) (hearts : Bytes × Bytes)

/-- An image that phase 2 refuses ends REJECTED, and nothing of it is applied (R82). -/
theorem commitImage_of_phase2_error {e : Nat × Nat} (hphase : phase2 s image = .error e) :
    commitImage s id image m d hearts = finish s id .rejected (imgDetail e.2 e.1) 0 := by
  simp [commitImage, hphase]

/-- An image that phase 2 takes is applied, and its command waits while the accords move on (R83). -/
theorem commitImage_of_phase2_ok {p : Plan} (hphase : phase2 s image = .ok p)
    (hsession : (freeIndex s .session).isSome = true) (hqueue : (freeIndex s .queue).isSome = true) :
    commitImage s id image m d hearts = advanceAccords (setWait
      (if p.delta then applyDelta s p (recordsOf image) d else applyFull s p m d hearts) id (.imageApply p.accord)) := by
  have hroom : (!p.delta && ((freeIndex s .session).isNone || (freeIndex s .queue).isNone)) = false := by
    rw [Option.isNone_eq_false_iff.2 hsession, Option.isNone_eq_false_iff.2 hqueue, Bool.or_false, Bool.and_false]
  simp [commitImage, hphase, hroom]

end Commit

/-- Settles O11: IMAGE_LOAD by the outcome of phase 1 over the image it read, IMAGE_COMMIT by the outcome of phase 2
(R80 to R83). -/
theorem imageCommands : Obligations.ImageCommands := by
  refine ⟨?load, ?commit⟩
  case load =>
    intro s u q total c sp head rest hbegin hstate hsel hspace hheadOk hhead htotal hmin hmax himageOk hrest
    subst htotal
    have heff := imageLoadEff_of_read s.nextId hstate hsel hspace hheadOk hhead hmin hmax himageOk hrest
    rw [exec_imageLoad]
    cases hphase : phase1 u (wordsOf head ++ wordsOf rest) with
    | ok k => exact runCommand_wait hbegin _ (heff.trans (phase1Eff_of_ok hphase))
    | error e => exact runCommand_done hbegin _ (heff.trans (phase1Eff_of_error hphase))
  case commit =>
    intro s id c image m d hc hs hlive hstarted hwait
    rw [exec_imageCommit_of_checked hlive hstarted hwait]
    refine ⟨fun e hphase => ?refused, fun p hphase hsession hqueue => ?applied⟩
    case refused => rw [commitImage_of_phase2_error id m d (hc, hs) hphase]
    case applied => rw [commitImage_of_phase2_ok id m d (hc, hs) hphase hsession hqueue]

end Sys2Proof.Machine

namespace Sys2Proof.Machine

/-! ## An entry of a table changed where it stands -/

@[simp] theorem tget_tupd_self {α : Type} (t : Tab α) (k : Nat) (f : α → α) : tget (tupd t k f) k = (tget t k).map f := by
  cases h : tget t k <;> simp [tupd, h]

theorem tget_tupd_ne {α : Type} (t : Tab α) (k j : Nat) (f : α → α) (h : j ≠ k) : tget (tupd t k f) j = tget t j := by
  unfold tupd
  split
  · exact tget_tset_ne _ _ _ _ h
  · rfl

/-- A change that leaves a part `g` of every entry alone leaves what is read of that part alone. -/
theorem map_tget_tupd {α β : Type} (t : Tab α) (k j : Nat) (f : α → α) (g : α → β) (hfg : ∀ x, g (f x) = g x) :
    (tget (tupd t k f) j).map g = (tget t j).map g := by
  by_cases h : j = k
  · subst h
    rw [tget_tupd_self, Option.map_map]
    exact congrArg (Option.map · _) (funext hfg)
  · rw [tget_tupd_ne _ _ _ _ h]

/-- Where the entry stands, changing it is setting it. -/
theorem tupd_of_tget {α : Type} {t : Tab α} {k : Nat} {x : α} (f : α → α) (h : tget t k = some x) :
    tupd t k f = tset t k (f x) := by
  rw [tupd, h]

end Sys2Proof.Machine

namespace Sys2Proof.Machine

/-! ## Counts and references (R112) -/

/-- HREF and DREF with the count of one side raised by `k`. -/
def raisedCounts (side : Side) (k : Nat) (c : Nat × Nat) : Nat × Nat :=
  match side with
  | .host => (c.1 + k, c.2)
  | .device => (c.1, c.2 + k)

/-- One more reference to `r` in the list of session `i`. -/
def listRef (s : State) (i : Nat) (r : ObjRef) : State :=
  { s with sessions := tupd s.sessions i fun x => setRefs x r (refsOf x r + 1) }

/-- `addRef` sets the raised counts, and does nothing else. -/
theorem eq_setCounts_of_addRef {s v : State} {r : ObjRef} {side : Side} {k : Nat} (h : addRef s r side k = some v) :
    v = setCounts s r (raisedCounts side k (objCounts s r)).1 (raisedCounts side k (objCounts s r)).2 := by
  cases side <;> simp [addRef] at h <;> exact h.2.symm

/-- An object that nothing refers to can take a first reference. -/
theorem addRef_of_unreferenced {s : State} {r : ObjRef} (h : objCounts s r = (0, 0)) (side : Side) :
    addRef s r side 1 = some (setCounts s r (raisedCounts side 1 (0, 0)).1 (raisedCounts side 1 (0, 0)).2) := by
  cases side <;> simp [addRef, h, raisedCounts]

/-- The counts that are set are the ones read, of an object that exists. -/
theorem objCounts_setCounts {s : State} {r : ObjRef} (hexists : objExists s r = true) (h d : Nat) :
    objCounts (setCounts s r h d) r = (h, d) := by
  obtain ⟨type, n⟩ := r
  cases type
  case bond =>
    obtain ⟨x, hx, -⟩ := (Option.any_eq_true ..).1 hexists
    simp [objCounts, setCounts, hx]
  all_goals
    obtain ⟨x, hx⟩ := Option.isSome_iff_exists.1 hexists
    simp [objCounts, setCounts, hx]

/-- Setting counts leaves every reference list alone. -/
theorem refs_setCounts (s : State) (r : ObjRef) (h d i : Nat) :
    (tget (setCounts s r h d).sessions i).map (·.refs) = (tget s.sessions i).map (·.refs) := by
  obtain ⟨type, n⟩ := r
  cases type
  case session => exact map_tget_tupd _ _ _ _ _ fun _ => rfl
  all_goals rfl

/-- A reference list changed leaves every object's counts alone. -/
theorem objCounts_listRef (s : State) (i : Nat) (r r' : ObjRef) : objCounts (listRef s i r) r' = objCounts s r' := by
  obtain ⟨type, n⟩ := r'
  cases type
  case session => exact congrArg (Option.getD · (0, 0)) (map_tget_tupd _ _ _ _ _ fun _ => rfl)
  all_goals rfl

/-- References to an object are read from the list alone. -/
theorem refsOf_congr {x y : Session} (h : x.refs = y.refs) (r : ObjRef) : refsOf x r = refsOf y r := by
  rw [refsOf, refsOf, h]

/-- The number of references that is set is the one read. -/
theorem refsOf_setRefs (x : Session) (r : ObjRef) (n : Nat) : refsOf (setRefs x r n) r = n := by
  have hrest : (x.refs.filter fun e => e.1 != r).find? (fun e => e.1 == r) = none := by simp
  by_cases hn : n = 0
  · simp only [refsOf, setRefs, if_pos hn, hrest]
    exact hn.symm
  · simp only [refsOf, setRefs, if_neg hn, List.find?_append, hrest]
    simp

/-- Whether a session has room is read from its list alone. -/
theorem refRoom_eq_any_refs (s : State) (i : Nat) :
    refRoom s i = ((tget s.sessions i).map (·.refs)).any fun l => l.length < refListMax := by
  rw [Option.any_map, refRoom]

theorem refRoom_setCounts (s : State) (r : ObjRef) (h d i : Nat) : refRoom (setCounts s r h d) i = refRoom s i := by
  rw [refRoom_eq_any_refs, refRoom_eq_any_refs, refs_setCounts]

/-- What a reference taken leaves: the count of the session's side raised, and the reference in the session's list. -/
theorem holdRef_ok {s v : State} {i : Nat} {r : ObjRef} {x : Session} (hx : tget s.sessions i = some x)
    (hhold : holdRef s i r = .ok v) : ∃ t, addRef s r x.side 1 = some t ∧ v = listRef t i r := by
  simp only [holdRef, hx] at hhold
  split at hhold
  · cases hhold
  · split at hhold
    · cases hhold
    next t hadd =>
      cases hhold
      exact ⟨t, hadd, rfl⟩

/-- A session with room takes the one reference to an object that nothing refers to. -/
theorem holdRef_of_unreferenced {s : State} {i : Nat} {r : ObjRef} (hroom : refRoom s i = true)
    (hcounts : objCounts s r = (0, 0)) : ∃ h d, h + d = 1 ∧ holdRef s i r = .ok (listRef (setCounts s r h d) i r) := by
  obtain ⟨x, hx, hlength⟩ := (Option.any_eq_true ..).1 hroom
  have hnotFull : ¬(refsOf x r = 0 ∧ x.refs.length ≥ refListMax) := by
    have := of_decide_eq_true hlength
    omega
  refine ⟨(raisedCounts x.side 1 (0, 0)).1, (raisedCounts x.side 1 (0, 0)).2, by cases x.side <;> rfl, ?_⟩
  simp only [holdRef, hx, if_neg hnotFull, addRef_of_unreferenced hcounts]
  rfl

end Sys2Proof.Machine

namespace Sys2Proof.Machine

/-! ## SESSION_OPEN (R97) -/

/-- The meaning of SESSION_OPEN is its effect run as a hub command. -/
theorem exec_sessionOpen (q : Nat) (s : State) : exec (.sessionOpen q) s = runCommand 0x01 q sessionOpenEff s := rfl

/-- A free session index holds no session. -/
theorem tget_sessions_of_freeIndex {s : State} {i : Nat} (h : freeIndex s .session = some i) : tget s.sessions i = none :=
  (tfree_some h).2.2

/-- The block with session `x` at index `i`. -/
def withSession (s : State) (i : Nat) (x : Session) : State := { s with sessions := tset s.sessions i x }

@[simp] theorem objCounts_withSession (s : State) (i : Nat) (x : Session) :
    objCounts (withSession s i x) ⟨.session, i⟩ = (x.href, x.dref) := by
  simp [objCounts, withSession]

theorem refRoom_withSession_ne (s : State) {i j : Nat} (x : Session) (h : j ≠ i) :
    refRoom (withSession s i x) j = refRoom s j := by
  rw [refRoom, refRoom, withSession, tget_tset_ne _ _ _ _ h]

/-- The session that SESSION_OPEN without a fault fence makes for an issuer `x` of a world other than ROOT. -/
def openedSession (x : Session) (c : Started) : Session :=
  { world := x.world, accord := x.accord, side := if bit (wd c.words 8) 8 then .device else .host, fn := x.fn
    creator := c.session }

/-- Past its checks SESSION_OPEN makes the session and its issuer holds it. -/
theorem sessionOpenEff_of_holdRef {u v : State} {i : Nat} {c : Started} {x : Session} (id : Nat)
    (hx : tget u.sessions c.session = some x) (hworld : x.world ≠ .root)
    (haccord : if x.world = .tenant then x.accord ≠ 0 ∧ (getAccord u x.accord).state = .live else x.accord = 0)
    (hfence : wd c.words 10 = 0) (hfree : freeIndex u .session = some i) (hroom : refRoom u c.session = true)
    (hhold : holdRef (withSession u i (openedSession x c)) c.session ⟨.session, i⟩ = .ok v) :
    sessionOpenEff id c u = .result (handle v ⟨.session, i⟩) v := by
  have hsession : sessionOf u c = x := by rw [sessionOf, hx, Option.getD_some]
  have haccordOk : ¬(if x.world = .tenant then x.accord == 0 || (getAccord u x.accord).state != .live
      else x.accord != 0) = true := by
    split at haccord
    next htenant =>
      obtain ⟨hnonzero, hlive⟩ := haccord
      simp [htenant, hnonzero, hlive]
    next hother => simp [hother, haccord]
  have hfenceOk : wd c.words 10 = 0#32 := hfence -- the literal as `simp` spells it
  simp only [withSession, openedSession] at hhold
  simp [sessionOpenEff, hsession, hworld, haccordOk, hfenceOk, hfree, hroom, hhold]

/-- Settles O5: the session is made at the free index (the lowest one, log entry 9), and the reference that its issuer takes is the
one it has. -/
theorem sessionOpenMakesSession : Obligations.SessionOpenMakesSession := by
  intro s u q i c x hbegin hx hworld haccord hfence hfree hroom
  have hne : c.session ≠ i := by
    rintro rfl
    rw [tget_sessions_of_freeIndex hfree] at hx
    cases hx
  obtain ⟨h, d, hone, hhold⟩ :=
    holdRef_of_unreferenced ((refRoom_withSession_ne u (openedSession x c) hne).trans hroom) (objCounts_withSession ..)
  rw [exec_sessionOpen]
  refine ⟨_, { openedSession x c with href := h, dref := d },
    runCommand_done hbegin _ (sessionOpenEff_of_holdRef s.nextId hx hworld haccord hfence hfree hroom hhold),
    ?_, rfl, rfl, rfl, rfl, rfl, rfl, hone, ?_⟩
  · simp [listRef, setCounts, withSession, tget_tupd_ne _ _ _ _ hne.symm]
  · simp only [listRef, setCounts, withSession]

end Sys2Proof.Machine

namespace Sys2Proof.Machine

/-! ## QUEUE_CREATE (R98, Table 4.6) -/

/-- The meaning of QUEUE_CREATE is its effect run as a hub command. -/
theorem exec_queueCreate (q : Nat) (s : State) : exec (.queueCreate q) s = runCommand 0x04 q queueCreateEff s := rfl

/-- The block with queue `x` at index `i`. -/
def withQueue (s : State) (i : Nat) (x : Queue) : State := { s with queues := tset s.queues i x }

@[simp] theorem objCounts_withQueue (s : State) (i : Nat) (x : Queue) :
    objCounts (withQueue s i x) ⟨.queue, i⟩ = (x.href, x.dref) := by
  simp [objCounts, withQueue]

/-- The queue that QUEUE_CREATE makes for session `session`. -/
def createdQueue (session : Nat) (c : Started) : Queue :=
  { session := session, space := if fld (wd c.words 10) 1 0 = 1 then .host else .accord, ring := wd2 c.words 8
    cpl := wd2 c.words 11, log2 := fld (wd c.words 10) 12 8
    timeoutUs := if wd c.words 13 = 0 then 10000 else (wd c.words 13).toNat, src := (wd c.words 14).toNat
    creator := some c.session }

/-- Past its checks QUEUE_CREATE counts the queue on its session, makes it, and its issuer holds it. -/
theorem queueCreateEff_of_holdRef {u u' v : State} {i : Nat} {c : Started} {t : ObjRef} {x : Session} (id : Nat)
    (htarget : targetOf u c = some t) (hx : tget u.sessions t.index = some x)
    (hspace : ringSpaceOk x (fld (wd c.words 10) 1 0) = true) (hlogMin : 4 ≤ fld (wd c.words 10) 12 8)
    (hlogMax : fld (wd c.words 10) 12 8 ≤ 16) (htimeout : (wd c.words 13).toNat ≤ 60000000)
    (hsrcMin : 256 ≤ (wd c.words 14).toNat) (hsrcMax : (wd c.words 14).toNat ≤ 511)
    (hfree : freeIndex u .queue = some i) (hroom : refRoom u c.session = true) (hadd : addRef u t .device 1 = some u')
    (hhold : holdRef (withQueue u' i (createdQueue t.index c)) c.session ⟨.queue, i⟩ = .ok v) :
    queueCreateEff id c u = .result (handle v ⟨.queue, i⟩) v := by
  have htimeoutOk : ¬(60000000 < if wd c.words 13 = 0 then 10000 else (wd c.words 13).toNat) := by
    split <;> omega
  have hoperands : ¬(!ringSpaceOk x (fld (wd c.words 10) 1 0) ∨ fld (wd c.words 10) 12 8 < 4 ∨
      fld (wd c.words 10) 12 8 > 16 ∨ (if wd c.words 13 = 0 then 10000 else (wd c.words 13).toNat) > 60000000 ∨
      ¬(256 ≤ (wd c.words 14).toNat ∧ (wd c.words 14).toNat ≤ 511)) := by
    simp only [hspace, Bool.not_true, Bool.false_eq_true, false_or]
    omega
  simp only [withQueue, createdQueue] at hhold
  simp only [queueCreateEff, htarget, hx, Option.getD_some, if_neg hoperands, hfree, hroom, hadd, hhold]

/-- Settles O6: the queue is made at the free index (the lowest one, log entry 9) over the state that counts it on its session, and
its issuer takes the first reference to it. -/
theorem queueCreateMakesQueue : Obligations.QueueCreateMakesQueue := by
  intro s u u' q i c t x hbegin htarget hx hspace hlogMin hlogMax htimeout hsrcMin hsrcMax hfree hroom hadd
  have hroom' : refRoom u' c.session = true := by
    rw [eq_setCounts_of_addRef hadd, refRoom_setCounts, hroom]
  obtain ⟨h, d, -, hhold⟩ :=
    holdRef_of_unreferenced (s := withQueue u' i (createdQueue t.index c)) hroom' (objCounts_withQueue ..)
  rw [exec_queueCreate]
  refine ⟨_, { createdQueue t.index c with href := h, dref := d },
    runCommand_done hbegin _ (queueCreateEff_of_holdRef s.nextId htarget hx hspace hlogMin hlogMax htimeout hsrcMin hsrcMax
      hfree hroom hadd hhold), ?_, rfl, rfl, rfl, rfl, rfl, rfl, rfl, rfl, rfl, rfl, rfl, rfl, ?_⟩
  · simp [listRef, setCounts, withQueue]
  · simp only [listRef, setCounts, withQueue]

end Sys2Proof.Machine

namespace Sys2Proof.Machine

/-! ## Closing, aborting, destroying, timing and restarting (R98, R101, R102, R116) -/

theorem exec_sessionClose (q : Nat) (s : State) : exec (.sessionClose q) s = runCommand 0x02 q sessionCloseEff s := rfl
theorem exec_sessionAbort (q : Nat) (s : State) : exec (.sessionAbort q) s = runCommand 0x03 q sessionAbortEff s := rfl
theorem exec_queueDestroy (q : Nat) (s : State) : exec (.queueDestroy q) s = runCommand 0x05 q queueDestroyEff s := rfl
theorem exec_queueSetTimeout (q : Nat) (s : State) :
    exec (.queueSetTimeout q) s = runCommand 0x06 q queueSetTimeoutEff s := rfl
theorem exec_queueRestart (q : Nat) (s : State) : exec (.queueRestart q) s = runCommand 0x07 q queueRestartEff s := rfl

section QueueEffects

variable {u : State} {c : Started} {r : ObjRef} (id : Nat) (htarget : targetOf u c = some r)

include htarget

theorem sessionCloseEff_of_target : sessionCloseEff id c u = .wait (.sessionClose r.index) u := by
  rw [sessionCloseEff, htarget]

theorem sessionAbortEff_of_target :
    sessionAbortEff id c u = .wait (.sessionAbort r.index) (haltSession u r.index) := by
  rw [sessionAbortEff, htarget]

theorem queueDestroyEff_of_target :
    queueDestroyEff id c u = .wait (.queueDestroy r.index)
      (discardFetched { u with queues := tupd u.queues r.index fun y => { y with noFetch := true } } r.index) := by
  rw [queueDestroyEff, htarget]

variable {t : Queue} (ht : tget u.queues r.index = some t)

include ht

theorem queueSetTimeoutEff_of_target (hnonzero : wd c.words 8 ≠ 0) (hmax : (wd c.words 8).toNat ≤ 60000000) :
    queueSetTimeoutEff id c u =
      .good { u with queues := tset u.queues r.index { t with timeoutUs := (wd c.words 8).toNat } } := by
  have hbounds : ¬((wd c.words 8).toNat = 0 ∨ (wd c.words 8).toNat > 60000000) := by
    rintro (hzero | hlarge)
    · exact hnonzero (BitVec.eq_of_toNat_eq hzero)
    · omega
  simp only [queueSetTimeoutEff, htarget, if_neg hbounds, tupd_of_tget _ ht]

theorem queueRestartEff_of_target
    (hissuer : t.session = c.session ∨ ((sessionOf u c).world = .host ∧ (sessionOf u c).fn = some 0))
    (hhead : fld (wd c.words 8) 15 0 < 2 ^ t.log2) :
    queueRestartEff id c u =
      .good { u with queues := tset u.queues r.index { t with stopped := false, head := fld (wd c.words 8) 15 0 } } := by
  have hmay : ¬(t.session ≠ c.session ∧ ¬((sessionOf u c).world = .host ∧ (sessionOf u c).fn = some 0)) :=
    fun h => hissuer.elim h.1 h.2
  simp only [queueRestartEff, htarget, ht, if_neg hmay, if_neg (Nat.not_le_of_lt hhead)]

end QueueEffects

/-- Settles O7: each effect, once the target is read, is the wait or the change that the statement names. -/
theorem queueCommands : Obligations.QueueCommands := by
  refine ⟨fun s u q c r htarget => ⟨fun hbegin => ?close, fun hbegin => ?abort, fun hbegin => ?destroy⟩,
    fun s u q c r t htarget ht => ⟨fun hbegin hnonzero hmax => ?timeout, fun hbegin hissuer hhead => ?restart⟩⟩
  case close =>
    rw [exec_sessionClose]
    exact runCommand_wait hbegin _ (sessionCloseEff_of_target s.nextId htarget)
  case abort =>
    rw [exec_sessionAbort]
    exact runCommand_wait hbegin _ (sessionAbortEff_of_target s.nextId htarget)
  case destroy =>
    rw [exec_queueDestroy]
    exact runCommand_wait hbegin _ (queueDestroyEff_of_target s.nextId htarget)
  case timeout =>
    rw [exec_queueSetTimeout]
    exact runCommand_done hbegin _ (queueSetTimeoutEff_of_target s.nextId htarget ht hnonzero hmax)
  case restart =>
    rw [exec_queueRestart]
    exact runCommand_done hbegin _ (queueRestartEff_of_target s.nextId htarget ht hissuer hhead)

end Sys2Proof.Machine

namespace Sys2Proof.Machine

/-! ## Fence updates (R106, R107, Table 4.8) -/

/-- The value that a signal asks a fence to take. -/
def signalValue (f : Fence) (v : BitVec 64) (add : Bool) : Nat := if add then f.value.toNat + v.toNat else v.toNat

/-- Whether a signal moves an ACTIVE fence: forward, and within 64 bits. -/
def MovesForward (f : Fence) (v : BitVec 64) (add : Bool) : Prop :=
  f.value.toNat < signalValue f v add ∧ signalValue f v add < 2 ^ 64

section FenceUpdates

variable {f : Fence} {v : BitVec 64} {add : Bool} {k : BitVec 8}

theorem signalFence_of_error (hcode : f.code.isSome = true) :
    signalFence f v add = { f with lateSignal := true, updates := f.updates + 1 } := by
  simp [signalFence, hcode]

theorem signalFence_of_forward (hcode : f.code = none) (hforward : MovesForward f v add) :
    signalFence f v add = { f with value := BitVec.ofNat 64 (signalValue f v add), updates := f.updates + 1 } := by
  obtain ⟨hgreater, hfits⟩ := hforward
  have hmoves : ¬(signalValue f v add ≤ f.value.toNat ∨ signalValue f v add ≥ 2 ^ 64) := by omega
  simp only [signalValue] at hmoves ⊢
  simp only [signalFence, hcode, Option.isSome_none, Bool.false_eq_true, if_false, if_neg hmoves]

theorem signalFence_of_backward (hcode : f.code = none) (hback : ¬MovesForward f v add) :
    signalFence f v add = { f with backward := true, updates := f.updates + 1 } := by
  have hstays : signalValue f v add ≤ f.value.toNat ∨ signalValue f v add ≥ 2 ^ 64 := by
    unfold MovesForward at hback
    omega
  simp only [signalValue] at hstays
  simp only [signalFence, hcode, Option.isSome_none, Bool.false_eq_true, if_false, if_pos hstays]

/-- The value that a moving signal gives reads back whole. -/
theorem toNat_value_of_forward (hcode : f.code = none) (hforward : MovesForward f v add) :
    (signalFence f v add).value.toNat = signalValue f v add := by
  rw [signalFence_of_forward hcode hforward]
  exact (BitVec.toNat_ofNat ..).trans (Nat.mod_eq_of_lt hforward.2)

/-- The three things a signal can meet. -/
theorem signalFence_cases (f : Fence) (v : BitVec 64) (add : Bool) :
    f.code.isSome = true ∨ (f.code = none ∧ MovesForward f v add) ∨ (f.code = none ∧ ¬MovesForward f v add) := by
  cases f.code with
  | some k => exact .inl rfl
  | none => exact .inr ((Classical.em _).imp (⟨rfl, ·⟩) (⟨rfl, ·⟩))

theorem value_le_signalFence : f.value.toNat ≤ (signalFence f v add).value.toNat := by
  obtain hcode | ⟨hcode, hforward⟩ | ⟨hcode, hback⟩ := signalFence_cases f v add
  · exact Nat.le_of_eq (by rw [signalFence_of_error hcode])
  · rw [toNat_value_of_forward hcode hforward]
    exact Nat.le_of_lt hforward.1
  · exact Nat.le_of_eq (by rw [signalFence_of_backward hcode hback])

@[simp] theorem code_signalFence : (signalFence f v add).code = f.code := by
  obtain hcode | ⟨hcode, hforward⟩ | ⟨hcode, hback⟩ := signalFence_cases f v add
  · rw [signalFence_of_error hcode]
  · rw [signalFence_of_forward hcode hforward]
  · rw [signalFence_of_backward hcode hback]

@[simp] theorem value_errorFence : (errorFence f k).value = f.value := by
  unfold errorFence
  dsimp only
  split <;> rfl

/-- The first error's code is the one that stays. -/
theorem code_errorFence : (errorFence f k).code = some (f.code.getD k) := by
  cases hcode : f.code <;> simp [errorFence, hcode]

theorem errorCount_errorFence_of_error (hcode : f.code.isSome = true) :
    (errorFence f k).errorCount = Nat.min (f.errorCount + 1) 255 := by
  simp [errorFence, hcode, satAdd]

end FenceUpdates

/-- Settles O8: a signal of an ERROR fence is late, one of an ACTIVE fence moves it forward or is BACKWARD, and an error
attached is the first one or is counted (Table 4.8). That a late signal counts in UPDATES is log entry 49. -/
theorem fencesMoveForward : Obligations.FencesMoveForward := by
  intro f v add k
  refine ⟨value_le_signalFence, code_signalFence, signalFence_of_error, ?forward, ?backward, value_errorFence,
    code_errorFence, errorCount_errorFence_of_error⟩
  case forward =>
    intro hcode hfits hgreater
    refine ⟨toNat_value_of_forward hcode ⟨hgreater, hfits⟩, ?_⟩
    rw [signalFence_of_forward hcode ⟨hgreater, hfits⟩]
  case backward =>
    intro hcode hback
    rw [signalFence_of_backward hcode hback]
    exact ⟨rfl, rfl⟩

end Sys2Proof.Machine

namespace Sys2Proof.Machine

/-! ## NOP, references, sharing and attaching (R97, R111, R112) -/

theorem exec_nop (q : Nat) (s : State) : exec (.nop q) s = runCommand 0x00 q nopEff s := rfl
theorem exec_objectRef (q : Nat) (s : State) : exec (.objectRef q) s = runCommand 0x0C q objectRefEff s := rfl
theorem exec_objectUnref (q : Nat) (s : State) : exec (.objectUnref q) s = runCommand 0x0D q objectUnrefEff s := rfl
theorem exec_objectShare (q : Nat) (s : State) : exec (.objectShare q) s = runCommand 0x0E q objectShareEff s := rfl
theorem exec_coreAttach (q : Nat) (s : State) : exec (.coreAttach q) s = runCommand 0x0F q coreAttachEff s := rfl

section ReferenceEffects

variable {u v : State} {c : Started} {r : ObjRef} (id : Nat) (htarget : targetOf u c = some r)

include htarget

theorem objectRefEff_of_holdRef (hhold : holdRef u c.session r = .ok v) : objectRefEff id c u = .good v := by
  simp only [objectRefEff, htarget, hhold]

theorem objectUnrefEff_of_dropRef (hdrop : dropRef u c.session r = .ok v) : objectUnrefEff id c u = .good v := by
  simp only [objectUnrefEff, htarget, hdrop]

theorem objectShareEff_of_holdRef {g : ObjRef} {x : Session} (hgrantee : parseHandle u (wd c.words 8) [.session] = .ok g)
    (hx : tget u.sessions g.index = some x) (hshare : shareCheck u c.session r x (fld (wd c.words 9) 1 0) = none)
    (hhold : holdRef u g.index r = .ok v) :
    objectShareEff id c u = .good (grantRight v r g.index (fld (wd c.words 9) 1 0)) := by
  simp only [objectShareEff, htarget, hgrantee, hx, Option.getD_some, hshare, hhold]

theorem coreAttachEff_of_bound (hbound : coreBoundTo u (fld (wd c.words 8) 7 0) (objAccord u r) = true) :
    coreAttachEff id c u = .good (attachCore u (fld (wd c.words 8) 7 0) r.index) := by
  simp only [coreAttachEff, htarget, if_pos hbound]

end ReferenceEffects

/-- A reference taken is one more in the session's list. -/
theorem refsOf_of_holdRef {s v : State} {i : Nat} {x : Session} {r : ObjRef} (hx : tget s.sessions i = some x)
    (hhold : holdRef s i r = .ok v) : ∃ y, tget v.sessions i = some y ∧ refsOf y r = refsOf x r + 1 := by
  obtain ⟨t, hadd, rfl⟩ := holdRef_ok hx hhold
  have hrefs : (tget t.sessions i).map (·.refs) = some x.refs := by
    rw [eq_setCounts_of_addRef hadd, refs_setCounts, hx, Option.map_some]
  obtain ⟨y, hy, hlist⟩ := Option.map_eq_some_iff.1 hrefs
  refine ⟨setRefs y r (refsOf y r + 1), by simp [listRef, hy], ?_⟩
  rw [refsOf_setRefs, refsOf_congr hlist]

/-- A reference taken is one more in HREF or DREF, by the session's side. -/
theorem objCounts_of_holdRef {s v : State} {i : Nat} {x : Session} {r : ObjRef} (hx : tget s.sessions i = some x)
    (hexists : objExists s r = true) (hhold : holdRef s i r = .ok v) :
    objCounts v r = raisedCounts x.side 1 (objCounts s r) := by
  obtain ⟨t, hadd, rfl⟩ := holdRef_ok hx hhold
  rw [objCounts_listRef, eq_setCounts_of_addRef hadd, objCounts_setCounts hexists]

/-- Settles O10: each effect, once its target is read, is the operation that the statement names; a reference taken is counted by
`addRef` and listed. -/
theorem referenceCommands : Obligations.ReferenceCommands := by
  refine ⟨fun s u v q c r => ⟨fun hbegin => ?nop, fun hbegin htarget hhold => ?ref, fun hbegin htarget hdrop => ?unref,
    fun g x hbegin htarget hgrantee hx hshare hhold => ?share, fun hbegin htarget hbound => ?attach⟩,
    fun s v i x r hx hexists hhold => ?taken⟩
  case nop =>
    rw [exec_nop]
    exact runCommand_done hbegin _ rfl
  case ref =>
    rw [exec_objectRef]
    exact runCommand_done hbegin _ (objectRefEff_of_holdRef s.nextId htarget hhold)
  case unref =>
    rw [exec_objectUnref]
    exact runCommand_done hbegin _ (objectUnrefEff_of_dropRef s.nextId htarget hdrop)
  case share =>
    rw [exec_objectShare]
    exact runCommand_done hbegin _ (objectShareEff_of_holdRef s.nextId htarget hgrantee hx hshare hhold)
  case attach =>
    rw [exec_coreAttach]
    exact runCommand_done hbegin _ (coreAttachEff_of_bound s.nextId htarget hbound)
  case taken =>
    obtain ⟨y, hy, hrefs⟩ := refsOf_of_holdRef hx hhold
    refine ⟨y, hy, hrefs, ?_⟩
    rw [objCounts_of_holdRef hx hexists hhold]
    cases x.side <;> rfl

end Sys2Proof.Machine

namespace Sys2Proof.Machine

/-! ## ALLOCATE (R114, R157, R179, R198) -/

/-- The meaning of ALLOCATE is its effect run as a hub command. -/
theorem exec_allocate (q : Nat) (s : State) : exec (.allocate q) s = runCommand 0x18 q allocateEff s := rfl

/-- The engines are no part of the region objects. -/
@[simp] theorem getMpe_withRegions (s : State) (t : Tab Region) (n : Nat) : getMpe { s with regions := t } n = getMpe s n := rfl

/-- The region table entry of a new region of class C. -/
def openEntry (a : Nat) (p : RegionPlan) : RtEntry :=
  { cls := .c, sched := p.sched, grants := p.grants, owner := a, id := p.id, f := p.f, base := p.base, limit := p.limit }

/-- The region object of a new region that stands at entry `rt`. -/
def newRegion (a rt : Nat) (p : RegionPlan) (owner : Option Nat) : Region :=
  { accord := a, stack := p.stack, rt := rt, owner := owner, dref := if owner.isNone then 1 else 0 }

/-- The block with an open class C region at entry `rt` of its stack and region index `i`. -/
def withOpenRegion (s : State) (a i rt : Nat) (p : RegionPlan) (owner : Option Nat) : State :=
  { updMpe s p.stack fun m => { m with rt := tset m.rt rt (openEntry a p) } with
    regions := tset s.regions i (newRegion a rt p owner) }

theorem rt_withOpenRegion (s : State) (a i rt : Nat) (p : RegionPlan) (owner : Option Nat) :
    (getMpe (withOpenRegion s a i rt p owner) p.stack).rt = tset (getMpe s p.stack).rt rt (openEntry a p) := by
  rw [withOpenRegion, getMpe_withRegions, getMpe_updMpe_self]

/-- A class C region takes the free entry and the free index, and is open. -/
theorem addRegion_of_classC {s : State} {a i rt : Nat} {p : RegionPlan} (owner : Option Nat) (hcls : clsOf p.cls = some .c)
    (hrt : tfree (getMpe s p.stack).rt 0 256 = some rt) (hfree : freeIndex s .region = some i) :
    addRegion s a p owner = (withOpenRegion s a i rt p owner, some ⟨.region, i⟩) := by
  simp only [addRegion, hcls, hrt, hfree]
  rfl

/-- What ALLOCATE does once its region is made and held: class C and class S end, class S after its fill, and class R waits for
the rewrite of its records (R157, R198). -/
def allocated (w : State) (k : Nat) (cls : Cls) (r : ObjRef) : Eff :=
  let rt := ((tget w.regions r.index).map (·.rt)).getD 0
  match cls with
  | .c => .result (handle w r) w
  | .s => .result (handle w r) (fillRegionS w k rt)
  | .r => .wait (.sealRewrite k rt) w

/-- The region that ALLOCATE asks for, at brick `b` with REGION_ID `rid`. -/
def allocatePlan (c : Started) (cls : Cls) (b rid : Nat) : RegionPlan :=
  { off := none, id := rid, stack := fld (wd c.words 8) 2 0, cls := clsNum cls, sched := bit (wd c.words 8) 6
    f := BitVec.ofNat 8 (fld (wd c.words 8) 15 8), base := b, limit := b + (wd c.words 9).toNat - 1, grants := [] }

/-- The lowest run from HINT, if HINT names a brick. -/
def hintedRun (u : State) (a : Nat) (c : Started) : Option Nat :=
  if fld (wd c.words 10) 23 0 = 0xFFFFFF then none
  else lowestRun u a (fld (wd c.words 8) 2 0) (wd c.words 9).toNat (fld (wd c.words 10) 23 0)

section Allocate

variable {u v w : State} {c : Started} {cls : Cls} {b rid : Nat} {r : ObjRef} (id : Nat)
  (hnonzero : (wd c.words 9).toNat ≠ 0) (hcls : clsOf (fld (wd c.words 8) 5 4) = some cls)
  (hmay : (getAccord u (sessionOf u c).accord).classes.getLsbD (clsNum cls) = true)
  (hsched : bit (wd c.words 8) 6 = true → (getAccord u (sessionOf u c).accord).scheduled = true)
  (hrt : (tfree (getMpe u (fld (wd c.words 8) 2 0)).rt 0 256).isSome = true)
  (hrun : (hintedRun u (sessionOf u c).accord c).or
    (lowestRun u (sessionOf u c).accord (fld (wd c.words 8) 2 0) (wd c.words 9).toNat 0) = some b)
  (hid : freeRegionId u (sessionOf u c).accord = some rid)
  (hroom : refRoom u c.session = true)
  (hadd : addRegion u (sessionOf u c).accord (allocatePlan c cls b rid) (some c.session) = (v, some r))
  (hhold : holdRef v c.session r = .ok w)

include hnonzero hcls hmay hsched hrt hrun hid hroom hadd hhold

/-- Past its checks ALLOCATE makes the region, its issuer holds it, and it goes on by the class. -/
theorem allocateEff_of_addRegion : allocateEff id c u = allocated w (fld (wd c.words 8) 2 0) cls r := by
  have hschedOk : ¬(bit (wd c.words 8) 6 && !(getAccord u (sessionOf u c).accord).scheduled) = true := by
    simpa using hsched
  have hrtOk : ¬(tfree (getMpe u (fld (wd c.words 8) 2 0)).rt 0 256).isNone = true := by
    rw [Option.isNone_iff_eq_none]
    exact Option.isSome_iff_ne_none.1 hrt
  simp only [allocatePlan] at hadd
  obtain hhinted | ⟨hhinted, hlowest⟩ := Option.or_eq_some_iff.1 hrun
  all_goals rw [hintedRun] at hhinted
  · simp only [allocateEff, if_neg hnonzero, hcls, hmay, Bool.not_true, Bool.false_eq_true, if_false, hschedOk, hrtOk, hhinted,
      hid, hroom, hadd, hhold]
    cases cls <;> rfl
  · simp only [allocateEff, if_neg hnonzero, hcls, hmay, Bool.not_true, Bool.false_eq_true, if_false, hschedOk, hrtOk, hhinted,
      hlowest, hid, hroom, hadd, hhold]
    cases cls <;> rfl

end Allocate

/-- Settles O15: what `addRegion` makes of a class C region, and ALLOCATE as the region made, held, and taken on by its class. The
lowest entry, index and run are log entries 9 and 57. -/
theorem allocateRegion : Obligations.AllocateRegion := by
  refine ⟨?made, ?command⟩
  case made =>
    intro s a i rt p o hcls hrt hfree
    refine ⟨_, openEntry a p, addRegion_of_classC o hcls hrt hfree, ?_, rfl, rfl, rfl, rfl, rfl, rfl, rfl,
      ⟨newRegion a rt p o, tget_tset_self .., rfl, rfl, rfl⟩, fun j hj => ?_, rfl⟩
    · rw [rt_withOpenRegion, tget_tset_self]
    · rw [rt_withOpenRegion, tget_tset_ne _ _ _ _ hj]
  case command =>
    intro s u v w q a k n b rid c cls r hbegin ha hk hn hnonzero hcls hmay hsched hrt hrun hid hroom hadd hhold
    subst ha hk hn
    have heff := allocateEff_of_addRegion s.nextId hnonzero hcls hmay hsched hrt hrun hid hroom hadd hhold
    rw [exec_allocate]
    cases cls with
    | c => exact runCommand_done hbegin _ heff
    | s => exact runCommand_done hbegin _ heff
    | r => exact runCommand_wait hbegin _ heff

end Sys2Proof.Machine

namespace Sys2Proof.Machine

/-! ## Entry to SEALING (R159, R198) -/

/-- The region table entry `e` of stack `n` once its region has entered SEALING: the owner's next seal value and its current class R
epoch stand in it, and its records are still to be rewritten. -/
def sealingEntry (s : State) (n : Nat) (e : RtEntry) : RtEntry :=
  { e with
    sealState := .sealing, sealVal := (getAccord s e.owner).sealCounter, epoch := (epochOf s e.owner .r n).gen % 4, busy := true }

/-- Accord `a` with its next seal value used up. -/
def takeSealValue (s : State) (a : Nat) : State := updAccord s a fun x => { x with sealCounter := x.sealCounter + 1 }

/-- The accords are no part of the engines. -/
theorem getMpe_takeSealValue (s : State) (a n : Nat) : getMpe (takeSealValue s a) n = getMpe s n := rfl

/-- A seal value taken leaves every epoch. -/
theorem epochOf_takeSealValue (s : State) (a n : Nat) : epochOf (takeSealValue s a) a .r n = epochOf s a .r n := by
  simp only [epochOf, takeSealValue, getAccord_updAccord_self]

section StartSealing

variable {s : State} {n rt : Nat} {e : RtEntry} (he : tget (getMpe s n).rt rt = some e)

include he

/-- Entry to SEALING takes the owner's next seal value, renews the entry, and gives up the region's seal buffer entries. -/
theorem startSealing_of_entry :
    startSealing s n rt = updMpe (takeSealValue s e.owner) n fun m =>
      { m with
        rt := tset m.rt rt (sealingEntry s n e)
        sealBuf := m.sealBuf.filter fun x => !(e.base ≤ x.1 / 16 && x.1 / 16 ≤ e.limit) } := by
  rw [sealingEntry, ← epochOf_takeSealValue]
  simp only [startSealing, he]
  rfl

theorem rt_startSealing : (getMpe (startSealing s n rt) n).rt = tset (getMpe s n).rt rt (sealingEntry s n e) := by
  rw [startSealing_of_entry he, getMpe_updMpe_self, getMpe_takeSealValue]

theorem accords_startSealing : (startSealing s n rt).accords = (takeSealValue s e.owner).accords := by
  rw [startSealing_of_entry he, updMpe_accords]

theorem getAccord_startSealing (a : Nat) : getAccord (startSealing s n rt) a = getAccord (takeSealValue s e.owner) a := by
  rw [getAccord, accords_startSealing he, ← getAccord]

/-- The seal value that the region got is not the owner's next one any more. -/
theorem sealCounter_startSealing :
    (getAccord (startSealing s n rt) e.owner).sealCounter = (getAccord s e.owner).sealCounter + 1 := by
  rw [getAccord_startSealing he, takeSealValue, getAccord_updAccord_self]

theorem getAccord_startSealing_ne {a : Nat} (hne : a ≠ e.owner) : getAccord (startSealing s n rt) a = getAccord s a := by
  rw [getAccord_startSealing he, takeSealValue, getAccord_updAccord_ne _ _ _ _ hne]

/-- Entry to SEALING changes the engine of the stack and the owner's record, and nothing else. -/
theorem startSealing_frame : { startSealing s n rt with mpes := s.mpes, accords := s.accords } = s := by
  rw [startSealing_of_entry he]
  rfl

end StartSealing

/-! ## REGION_SEAL_BEGIN and REGION_SEAL (R198, R200, R208) -/

/-- The meaning of REGION_SEAL_BEGIN is its effect run as a hub command. -/
theorem exec_regionSealBegin (q : Nat) (s : State) :
    exec (.regionSealBegin q) s = runCommand 0x1A q regionSealBeginEff s := rfl

/-- The meaning of REGION_SEAL is its effect run as a hub command. -/
theorem exec_regionSeal (q : Nat) (s : State) : exec (.regionSeal q) s = runCommand 0x1B q regionSealEff s := rfl

/-- The LOST marks of the bricks of a region cleared (R208). -/
def unmarkRegion (s : State) (n : Nat) (e : RtEntry) : State :=
  updMpe s n fun m => clearLost m fun b => e.base ≤ b && b ≤ e.limit

/-- Every brick of a region sealed (R200 steps 1 and 2). -/
def sealBricks (s : State) (n : Nat) (e : RtEntry) (id : Nat) : State :=
  (regionBricks e).foldl (fun s' b => sealBrick s' n e b id) s

section SealEffects

variable {u u1 u2 : State} {c : Started} {i : Nat} {g : Region} {e : RtEntry} (id : Nat)
  (htarget : targetRegion u c = some (i, g, e))

include htarget

theorem regionSealBeginEff_of_classR (hcls : e.cls = .r) :
    regionSealBeginEff id c u =
      .wait (.sealRewrite g.stack g.rt) (startSealing (unmarkRegion u g.stack e) g.stack g.rt) := by
  simp only [regionSealBeginEff, htarget, hcls, ne_eq, not_true, if_false, unmarkRegion]

theorem regionSealBeginEff_of_otherClass (hcls : e.cls ≠ .r) : regionSealBeginEff id c u = .reject 0x01 u := by
  simp only [regionSealBeginEff, htarget, if_pos hcls]

theorem regionSealEff_of_notSealing (hcls : e.cls = .r) (hstate : e.sealState ≠ .sealing) :
    regionSealEff id c u = .reject 0x02 u := by
  simp only [regionSealEff, htarget, hcls, ne_eq, not_true, if_false, if_pos (Or.inl hstate)]

/-- Past its checks REGION_SEAL seals the bricks, and with none of them LOST it makes the region SEALED. -/
theorem regionSealEff_of_complete (hcls : e.cls = .r) (hstate : e.sealState = .sealing) (hbusy : e.busy = false)
    (hcap : (getMpe u g.stack).capState ≠ 2) (hcomplete : sealIncomplete u g.stack e = (u1, false))
    (hkeys : makeResident u1 e.owner = (u2, true)) (hlost : regionLost (sealBricks u2 g.stack e id) g.stack e = false) :
    regionSealEff id c u =
      .good (updEntry (sealBricks u2 g.stack e id) g.stack g.rt fun e => { e with sealState := .sealed }) := by
  have hrewritten : ¬(e.sealState ≠ .sealing ∨ e.busy = true) := by simp [hstate, hbusy]
  rw [sealBricks] at hlost ⊢
  simp only [regionSealEff, htarget, hcls, ne_eq, not_true, if_false, if_neg hrewritten, if_neg hcap, hcomplete, hkeys, hlost,
    Bool.false_eq_true]

end SealEffects

/-- Settles O17: entry to SEALING is the seal value taken and put in the entry, and each command's effect goes by the class and seal
state of the region that TARGET names. -/
theorem sealCommands : Obligations.SealCommands := by
  refine ⟨fun s n rt e he => ?entry, fun s u q i c g e htarget => ⟨fun hbegin hcls => ?begun, fun hbegin hcls => ?otherClass,
    fun u1 u2 hbegin hcls hstate hbusy hcap hcomplete hkeys hlost => ?sealed, fun hbegin hcls hstate => ?notSealing⟩⟩
  case entry =>
    refine ⟨sealingEntry s n e, ?_, rfl, rfl, rfl, rfl, rfl, rfl, sealCounter_startSealing he,
      fun a hne => getAccord_startSealing_ne he hne, startSealing_frame he⟩
    rw [rt_startSealing he, tget_tset_self]
  case begun =>
    rw [exec_regionSealBegin]
    exact runCommand_wait hbegin _ (regionSealBeginEff_of_classR s.nextId htarget hcls)
  case otherClass =>
    rw [exec_regionSealBegin]
    exact runCommand_done hbegin _ (regionSealBeginEff_of_otherClass s.nextId htarget hcls)
  case sealed =>
    rw [exec_regionSeal]
    exact runCommand_done hbegin _
      (regionSealEff_of_complete s.nextId htarget hcls hstate hbusy hcap hcomplete hkeys hlost)
  case notSealing =>
    rw [exec_regionSeal]
    exact runCommand_done hbegin _ (regionSealEff_of_notSealing s.nextId htarget hcls hstate)

end Sys2Proof.Machine

namespace Sys2Proof.Machine

/-! ## A unit's write and its registers (R356 to R359) -/

/-- The units are kept apart: a write of one leaves every other. -/
theorem getCvu_setCvu_ne (s : State) (n k : Nat) (c : Cvu) (h : k ≠ n) : getCvu (setCvu s n c) k = getCvu s k :=
  tgetD_tset_ne _ _ _ _ _ h

/-- Units 0 and 1 are ROOT's alone, units 2 and 3 are shared by ROOT, HOST and DEBUG (R359). -/
theorem cvuMayWrite_iff (w : World) (n : Nat) :
    cvuMayWrite w n = true ↔ n < 4 ∧ (w = .root ∨ (2 ≤ n ∧ (w = .host ∨ w = .debug))) := by
  simp [cvuMayWrite]

theorem cvuWrite_of_mayWrite {s : State} {w : World} {n : Nat} (f : Cvu → Cvu) (hrunning : running s = true)
    (hmay : cvuMayWrite w n = true) : cvuWrite w n f s = .next (settle (setCvu s n (f (getCvu s n)))) :=
  if_pos ⟨hrunning, hmay⟩

theorem cvuWrite_of_not_mayWrite {w : World} {n : Nat} (f : Cvu → Cvu) (s : State) (hmay : cvuMayWrite w n = false) :
    cvuWrite w n f s = .next s :=
  if_neg (by simp [hmay])

/-- A write that sets a POLY of Table 13.4: with INIT the unit starts afresh, without it VALUE keeps its bits within the
new width (R358). -/
theorem cvuControl_of_supported {poly wid p first x : Nat} {refl : Bool}
    (hpoly : crcParams poly = some (wid, p, first, refl, x)) (c : Cvu) (init : Bool) :
    cvuControl c poly init =
      if init then { c with poly := BitVec.ofNat 3 poly, value := BitVec.ofNat 64 first, count := 0 }
      else { c with poly := BitVec.ofNat 3 poly, value := BitVec.ofNat 64 (c.value.toNat % 2 ^ wid) } := by
  simp only [cvuControl, hpoly]

theorem cvuControl_of_reserved {poly : Nat} (hpoly : crcParams poly = none) (c : Cvu) (init : Bool) :
    cvuControl c poly init = c := by
  simp only [cvuControl, hpoly]

/-- A feed runs the unit's CRC over the bytes in order and counts them (R357). -/
theorem cvuFeed_of_supported {c : Cvu} {wid p first x : Nat} {refl : Bool}
    (hpoly : crcParams c.poly.toNat = some (wid, p, first, refl, x)) (d : Bytes) :
    cvuFeed c d =
      { c with
        value := BitVec.ofNat 64 (d.foldl (crcByte wid p refl) c.value.toNat), count := c.count + BitVec.ofNat 32 d.length } := by
  simp only [cvuFeed, hpoly]

/-- The low byte of a word, as the one byte that CVU_FEED8 absorbs. -/
theorem toLE_toNat_one (v : Word) : toLE v.toNat 1 = [v.setWidth 8] := by
  simp only [toLE, BitVec.ofNat_toNat]

/-! ## CVU_INIT, CVU_POLY_SWITCH and the feeds -/

section Writes

variable (w : World) (n : Nat) (v : Word) (s : State)

theorem exec_cvuInit : exec (.cvuInit w n v) s = cvuWrite w n (fun c => cvuControl c (fld v 2 0) true) s := rfl
theorem exec_cvuPolySwitch : exec (.cvuPolySwitch w n v) s = cvuWrite w n (fun c => cvuControl c (fld v 2 0) false) s := rfl
theorem exec_cvuFeed8 : exec (.cvuFeed8 w n v) s = cvuWrite w n (fun c => cvuFeed c (toLE v.toNat 1)) s := rfl
theorem exec_cvuFeed16 : exec (.cvuFeed16 w n v) s = cvuWrite w n (fun c => cvuFeed c (toLE v.toNat 2)) s := rfl
theorem exec_cvuFeed32 : exec (.cvuFeed32 w n v) s = cvuWrite w n (fun c => cvuFeed c (toLE v.toNat 4)) s := rfl

end Writes

/-- Settles O50: each instruction is one admitted write of its unit (R359), whose value is what CVU_CTRL sets (R358) or what a
feed leaves (R357); a write that R359 does not admit has no effect (R361). -/
theorem checkValueUnits : Obligations.CheckValueUnits := by
  intro s w n wid first v p refl x hrunning hmay
  refine ⟨fun hpoly => ?control, fun hpoly => ?reserved, fun hpoly => ⟨?feed8, ?feed16, ?feed32⟩, cvuMayWrite_iff,
    fun u k i hnot hwrite => ?refused, fun c k hne => getCvu_setCvu_ne s n k c hne⟩
  case control =>
    rw [exec_cvuInit, exec_cvuPolySwitch, cvuWrite_of_mayWrite _ hrunning hmay, cvuWrite_of_mayWrite _ hrunning hmay,
      cvuControl_of_supported hpoly, cvuControl_of_supported hpoly]
    exact ⟨rfl, rfl⟩
  case reserved =>
    rw [exec_cvuInit, cvuWrite_of_mayWrite _ hrunning hmay, cvuControl_of_reserved hpoly]
  case feed8 =>
    rw [exec_cvuFeed8, cvuWrite_of_mayWrite _ hrunning hmay, cvuFeed_of_supported hpoly, toLE_toNat_one]
    rfl
  case feed16 =>
    rw [exec_cvuFeed16, cvuWrite_of_mayWrite _ hrunning hmay, cvuFeed_of_supported hpoly]
    exact ⟨_, rfl, rfl, rfl, rfl⟩
  case feed32 =>
    rw [exec_cvuFeed32, cvuWrite_of_mayWrite _ hrunning hmay, cvuFeed_of_supported hpoly]
    exact ⟨_, rfl, rfl, rfl, rfl⟩
  case refused =>
    obtain rfl | rfl | rfl | rfl | rfl := hwrite
    · rw [exec_cvuInit, cvuWrite_of_not_mayWrite _ s hnot]
    · rw [exec_cvuPolySwitch, cvuWrite_of_not_mayWrite _ s hnot]
    · rw [exec_cvuFeed8, cvuWrite_of_not_mayWrite _ s hnot]
    · rw [exec_cvuFeed16, cvuWrite_of_not_mayWrite _ s hnot]
    · rw [exec_cvuFeed32, cvuWrite_of_not_mayWrite _ s hnot]

end Sys2Proof.Machine

namespace Sys2Proof.Machine

/-! ## What sensing a source leaves of the event controller (R436, R439) -/

/-- After a mark, only the number marked may have changed. -/
theorem contains_mark (l : List Nat) (n m : Nat) (b : Bool) :
    (mark l n b).contains m = if m = n then b else l.contains m := by
  cases b with
  | false => by_cases hm : m = n <;> simp [mark, hm]
  | true =>
    by_cases hin : n ∈ l
    · by_cases hm : m = n <;> simp [mark, hin, hm]
    · by_cases hm : m = n <;> simp [mark, hin, hm]

section Source

variable (s : State) (b : Bec) (n : Nat) (cfg : Word)

@[simp] theorem senseSource_cfg : (senseSource s b n cfg).cfg = b.cfg := by
  simp only [senseSource, sendEvent, apply_ite Bec.cfg, ite_self]

@[simp] theorem senseSource_pulses : (senseSource s b n cfg).pulses = b.pulses := by
  simp only [senseSource, sendEvent, apply_ite Bec.pulses, ite_self]

@[simp] theorem senseSource_stack : (senseSource s b n cfg).stack = b.stack := by
  simp only [senseSource, sendEvent, apply_ite Bec.stack, ite_self]

/-- The input of the source sensed is held as it stands. -/
@[simp] theorem senseSource_inputs : (senseSource s b n cfg).inputs = mark b.inputs n (level s n) := by
  simp only [senseSource, sendEvent, apply_ite Bec.inputs, ite_self]

/-- A source counts as told after it is sensed only while its input is true (R439). -/
theorem senseSource_told : ∃ due, (senseSource s b n cfg).told = mark b.told n (level s n && due) := by
  simp only [senseSource, sendEvent, apply_ite Bec.told, ite_self]
  exact ⟨_, rfl⟩

end Source

/-- What the edges collected go by: the edges, inputs and pulses held before, and nothing else of the event controller. -/
structure SameEdgeInputs (b b' : Bec) : Prop where
  edges : b.edges = b'.edges
  inputs : b.inputs = b'.inputs
  pulses : b.pulses = b'.pulses

theorem SameEdgeInputs.senseSource {s : State} {b b' : Bec} {n : Nat} {cfg : Word} (h : SameEdgeInputs b b') :
    SameEdgeInputs (senseSource s b n cfg) (senseSource s b' n cfg) where
  edges := by simp only [Machine.senseSource, sendEvent, apply_ite Bec.edges, ite_self, h.edges, h.inputs, h.pulses]
  inputs := by rw [senseSource_inputs, senseSource_inputs, h.inputs]
  pulses := by rw [senseSource_pulses, senseSource_pulses, h.pulses]

theorem SameEdgeInputs.foldl_senseSource {s : State} {b b' : Bec} (l : Tab Word) (h : SameEdgeInputs b b') :
    SameEdgeInputs (l.foldl (fun b e => Machine.senseSource s b e.1 e.2) b)
      (l.foldl (fun b e => Machine.senseSource s b e.1 e.2) b') :=
  List.foldl_rel (r := SameEdgeInputs) h fun _ _ _ _ h => h.senseSource

/-! ## What bringing the event controller up to date leaves -/

/-- A source is up to date in `b`: its input is held as it stands, and it counts as told only while that input is true. -/
def Sensed (s : State) (b : Bec) (n : Nat) : Prop :=
  b.inputs.contains n = level s n ∧ (b.told.contains n = true → level s n = true)

section Sensing

variable {s : State} {b : Bec} {n m : Nat} {cfg : Word}

/-- The source just sensed is up to date. -/
theorem sensed_senseSource_self : Sensed s (senseSource s b n cfg) n := by
  obtain ⟨due, htold⟩ := senseSource_told s b n cfg
  constructor
  · rw [senseSource_inputs, contains_mark, if_pos rfl]
  · rw [htold, contains_mark, if_pos rfl, Bool.and_eq_true]
    exact And.left

/-- Sensing a source leaves the others as they were. -/
theorem sensed_senseSource_of_ne (hne : m ≠ n) (h : Sensed s b m) : Sensed s (senseSource s b n cfg) m := by
  obtain ⟨due, htold⟩ := senseSource_told s b n cfg
  unfold Sensed
  rw [senseSource_inputs, htold, contains_mark, contains_mark, if_neg hne, if_neg hne]
  exact h

/-- Sensing a source keeps every source that is up to date so. -/
theorem sensed_senseSource (h : Sensed s b m) : Sensed s (senseSource s b n cfg) m := by
  by_cases hm : m = n
  · subst hm
    exact sensed_senseSource_self
  · exact sensed_senseSource_of_ne hm h

/-- Once sources are sensed one after the other, each of them is up to date. -/
theorem sensed_foldl_senseSource (l : Tab Word) (b : Bec) :
    ∀ e ∈ l, Sensed s (l.foldl (fun b e => senseSource s b e.1 e.2) b) e.1 := by
  induction l generalizing b with
  | nil => simp
  | cons x xs ih =>
    intro e he
    obtain rfl | hrest := List.mem_cons.mp he
    · exact List.foldlRecOn (motive := fun b => Sensed s b _) xs _ sensed_senseSource_self fun _ h _ _ => sensed_senseSource h
    · exact ih _ e hrest

end Sensing

/-- The configuration of the sources stays. -/
@[simp] theorem settle_bec_cfg (s : State) : (settle s).bec.cfg = s.bec.cfg := by
  show (s.bec.cfg.foldl (fun b e => senseSource s b e.1 e.2) s.bec).cfg = s.bec.cfg
  exact List.foldlRecOn (motive := fun b : Bec => b.cfg = s.bec.cfg) _ _ rfl fun _ h _ _ => (senseSource_cfg ..).trans h

/-- The active stack stays. -/
@[simp] theorem settle_bec_stack (s : State) : (settle s).bec.stack = s.bec.stack := by
  show (s.bec.cfg.foldl (fun b e => senseSource s b e.1 e.2) s.bec).stack = s.bec.stack
  exact List.foldlRecOn (motive := fun b : Bec => b.stack = s.bec.stack) _ _ rfl fun _ h _ _ => (senseSource_stack ..).trans h

/-- Brought up to date, the event controller is current (R436, R439; log entry 37). -/
theorem eventsCurrent_settle (s : State) : EventsCurrent (settle s) := by
  refine ⟨rfl, fun e he => ?_⟩
  rw [settle_bec_cfg] at he
  exact sensed_foldl_senseSource s.bec.cfg s.bec e he

/-- Settles O4: no source is configured at reset, and no pulse is held. -/
theorem resetEventsCurrent : Obligations.ResetEventsCurrent :=
  ⟨rfl, fun _ he => nomatch he⟩

end Sys2Proof.Machine

namespace Sys2Proof.Machine

/-! ## Every command answers a next state

A row's meaning ends in `settle`, behind one of the shared operations below, or leaves the state as it was. -/

/-- An outcome of a command in `s`: a next state, which is `s` itself or has its event controller brought up to date. -/
def AnswersSettled (s : State) (o : Host.Outcome State Fault Refusal) : Prop :=
  ∃ t, o = .next t ∧ (t = s ∨ ∃ u, t = settle u)

namespace AnswersSettled

variable {s : State}

theorem same (s : State) : AnswersSettled s (.next s) := ⟨s, rfl, .inl rfl⟩

/-- `settleAll` and `fabricSettle` end in `settle` as well. -/
theorem settled (u : State) : AnswersSettled s (.next (settle u)) := ⟨_, rfl, .inr ⟨u, rfl⟩⟩

/-- Either branch of a choice. -/
theorem choice {p : Prop} [Decidable p] {a b : Host.Outcome State Fault Refusal} (ha : AnswersSettled s a)
    (hb : AnswersSettled s b) : AnswersSettled s (if p then a else b) := by
  by_cases hp : p
  · rwa [if_pos hp]
  · rwa [if_neg hp]

/-- A meaning that a guard admits; where it does not, the state stays. -/
theorem guarded {p : Prop} [Decidable p] (u : State) : AnswersSettled s (if p then .next (settle u) else .next s) :=
  choice (settled u) (same s)

/-! The shared operations of the rows. -/

theorem runCommand (op q : Nat) (eff : Nat → Started → State → Eff) (u : State) :
    AnswersSettled s (Machine.runCommand op q eff u) := settled _

theorem runLink (op q : Nat) (eff : Nat → Started → State → Eff) : AnswersSettled s (Machine.runLink op q eff s) :=
  settled _

theorem cvuWrite (w : World) (n : Nat) (f : Cvu → Cvu) : AnswersSettled s (Machine.cvuWrite w n f s) := guarded _

theorem serveRow (want : Req → Bool) (n : Nat) (x : Upset) : AnswersSettled s (Machine.serveRow want n x s) := guarded _

theorem onFabric (f : State → State) : AnswersSettled s (Machine.onFabric s f) := guarded _

theorem onMessage (b t : Nat) (f : State → Bytes → State) : AnswersSettled s (Machine.onMessage s b t f) := onFabric _

theorem message (m : Instr) : AnswersSettled s (Machine.message m s) := guarded _

theorem runDue (f : Due → Bool) (run : State → Due → State) : AnswersSettled s (Machine.runDue f run s) := by
  unfold Machine.runDue
  split
  · exact same s
  · exact guarded _

theorem serveRequest (t : Transport) (m : Bytes) (f : State → State) : AnswersSettled s (Machine.serveRequest t m f s) := by
  unfold Machine.serveRequest
  refine choice (same s) ?_
  cases t with
  | bond p src => exact settled _
  | answer p src body => exact same s
  | pcie => exact settled _
  | i3c => exact settled _

theorem serveOrTake (t : Transport) (step code : Nat) (m : Bytes) (f : State → State) :
    AnswersSettled s (Machine.serveOrTake t step code m f s) := by
  unfold Machine.serveOrTake
  split
  · refine choice ?_ (same s)
    split
    · exact settled _
    · exact same s
  · exact serveRequest t m f

end AnswersSettled

/-- The rows of the table, by the operation that their meaning ends in. -/
theorem answersSettled_exec (i : Instr) (s : State) : AnswersSettled s (exec i s) := by
  cases i
  all_goals unfold exec
  case nop | sessionOpen | sessionClose | sessionAbort | queueCreate | queueDestroy | queueSetTimeout | queueRestart
      | fenceCreate | fenceSignal | fenceError | fenceQuery | objectRef | objectUnref | objectShare | coreAttach
      | imageLoad | accordBind | accordUnbind | accordRetire | partitionReset | allocate | carvePoolSet
      | regionSealBegin | regionSeal | epochRetire | sillageHarvest | keyStage | keyCheck | keyCommit | keyRetire
      | keyDerive | gceRun | drbgRead | vfQuiesce | vfResume | lcTransition | debugAuth | globalStop | tensorWatch
      | configUpdate | trimWrite | powerState | powerCycle | zeroizeAll | faultAck =>
    exact .runCommand ..
  case bondOpen | bondClose | bondRekey | streamOpen | streamClose | portEnable | portDisable | otuInvalidate
      | otuMissReply =>
    exact .runLink ..
  case readLine | readStretcher | writeLine | writeStretcher | writeBrick | add | min | max | cas | swap | cellW64
      | cellX512 | touch =>
    exact .serveRow ..
  case helloI | helloR | bondFinish | abort | handshakeRepeat | handshakeTimeout | streamOpenTimeout | phaseFlipStart
      | reagreementStart =>
    exact .onFabric ..
  case openReq | openAck | openRefuse | closeStream | phasePrepare | phaseReady | phaseDone | reagreeOffer
      | reagreeAnswer | bondStaleMsg | bondCloseMsg | rekeyRequest =>
    exact .onMessage ..
  case cvuInit | cvuPolySwitch | cvuFeed8 | cvuFeed16 | cvuFeed32 =>
    exact .cvuWrite ..
  case rung0 | rung1 | rung2 =>
    exact .runDue ..
  case command | cplRead | stageWrite | stageRead | regRead | moduleReport =>
    exact .message ..
  case getCapabilities | negotiateAlgorithms | getDigests | getCertificate | challenge | getMeasurements =>
    exact .serveOrTake ..
  case keyExchange | finish | endSession | heartbeat | keyUpdate | getPqChain | getPqSignature | getAccordCert
      | accordQuote | pqBind =>
    exact .serveRequest ..
  case vfCommandSlotWrite | debugDoorbell | pfqEnable | stCgClearAck | admissionSlot | storeFillComplete
      | pinnedWriteback | epochPassStep | scrubStep | bandwidthWindowEnd | dataFlitReceive | xlateTimeout | vfBind
      | recordLaneStall | loCaptureRead | hotFifoPop | becAck | becEoi | pop | unfreeze | kick | watchdogArm
      | lockstep | scan | stopCtrlReset | testEngineCommand | mortarCrcError | fwSelfcheck | blockStart | aonStatus
      | aonFaultRecord | aonPowerCycle | portUpHour | hostDma | tamper | gceJobStart | commandTimeout | accordResident
      | hbmReadReturn | reencryptionComplete | harvestWalkStep | handoverDrainComplete | eraseComplete | move | flr
      | vfDisable | registerWrite | revoke | grantExpiry | resume | lccPlainProbeClosed | lccPlainVoid | lcDecode
      | entropyFail | drbgReseed | aonZeroize | aonWake | wake | vidAck | entropySourceRestart | linkUp
      | invalidationDrained | streamDrainTimeout | linkDown | portTransmit | windowIdleClose | ackOwedTimeout
      | retransmitTimeout | stopFlit | remoteResponse | gatewayRequest | gatewayRecordIdleClose | gatewayResendTimeout
      | gatewayFlitReceive | domainRequest | map | unmap | hostPageRequest | otpWordProgrammed =>
    exact .guarded _
  case bounceIn | bounceOut | commandFetch | stampRequest | carve | temperatureThreshold | powerLoss =>
    exact .settled _
  case aonStart | mgmtSessionEnd =>
    exact .choice (.same s) (.settled _)
  case pcieCompletion =>
    exact .choice (.settled _) (.settled _)
  case dbgAccess =>
    exact .choice (.settled _) (.message _)
  case watchdog =>
    exact .choice (.same s) (.choice (.settled _) (.settled _))
  case doorbell | hostDoorbell =>
    exact .choice (.same s) (.choice (.settled _) (.guarded _))
  case rung3 | rung4 | rung5 =>
    simp only [execRung3, execRung4, execRung5]
    split
    · exact .settled _
    · exact .same s
  case sealRewriteComplete | faultAccept | rungTimeout =>
    simp only [execSealRewriteComplete, execFaultAccept, execRungTimeout]
    split
    · exact .same s
    · exact .guarded _
  case landingWaitTimeout =>
    show AnswersSettled s (execLandingWaitTimeout _ _ s)
    unfold execLandingWaitTimeout
    split
    · exact .guarded _
    · exact .same s
  case imageCommit =>
    show AnswersSettled s (execImageCommit _ s)
    unfold execImageCommit
    split
    · exact .same s
    · split
      · exact .guarded _
      · exact .same s
  case fold =>
    show AnswersSettled s (execFold _ s)
    unfold execFold
    split
    · exact .runCommand ..
    · exact .settled _
  case tagFlitReceive =>
    show AnswersSettled s (execTagFlitReceive _ _ _ _ s)
    unfold execTagFlitReceive
    refine .choice ?_ (.same s)
    split
    · exact .settled _
    · exact .same s
  case apertureAccess =>
    show AnswersSettled s (execApertureAccess _ _ _ s)
    unfold execApertureAccess
    refine .choice (.same s) ?_
    split
    · exact .settled _
    · exact .settled _
  case getVersion =>
    show AnswersSettled s (execGetVersion _ s)
    unfold execGetVersion
    split
    · exact .guarded _
    · exact .serveOrTake ..

/-- Settles O2: row by row. That no command is refused is log entry 66, that a meaning ends in `settle` log entry 37. -/
theorem everyCommandAnswersSettled : Obligations.EveryCommandAnswersSettled := answersSettled_exec

/-- Settles O3: an idle step ends in `settle`, and a command leaves the state as it was or ends in `settle` (log entry 37). -/
theorem stepKeepsEventsCurrent : Obligations.StepKeepsEventsCurrent := by
  intro s t hcurrent hstep
  cases hpending : s.pending with
  | nil =>
    have hidle : step s = .next (idleBlock s) := by rw [step, hpending]
    obtain rfl := Host.Outcome.next.inj (hidle.symm.trans hstep)
    exact eventsCurrent_settle _
  | cons c rest =>
    rw [step_of_pending_cons hpending] at hstep
    obtain ⟨t', hexec, hsame | ⟨u, hsettled⟩⟩ := answersSettled_exec c { s with pending := rest }
    all_goals obtain rfl := Host.Outcome.next.inj (hexec.symm.trans hstep)
    · subst hsame
      exact hcurrent
    · subst hsettled
      exact eventsCurrent_settle u

end Sys2Proof.Machine

namespace Sys2Proof.Machine

/-! ## The active stack of the event controller (R438) -/

/-- While the stack is frozen nothing is selected. -/
theorem selected_of_frozen {s : State} (hfrozen : s.bec.frozen = true) : selected s = none :=
  if_pos (.inl hfrozen)

section Acknowledge

variable {s : State}

/-- With room on the stack, BEC_ACK reads the selected source as valid. -/
theorem ackWord_of_selected {n : Nat} (hroom : s.bec.stack.length < 16) (hselected : selected s = some n) :
    ackWord s = pack [(1, 31), (n, 0)] := by
  simp only [ackWord, if_pos hroom, hselected]

/-- It pushes that source and clears its edge. -/
theorem becAck_of_selected {n : Nat} (hroom : s.bec.stack.length < 16) (hselected : selected s = some n) :
    becAck s = { s with bec := { s.bec with stack := n :: s.bec.stack, edges := s.bec.edges.filter (· != n) } } := by
  simp only [becAck, if_pos hroom, hselected]

/-- A full stack, or no source selected, leaves BEC_ACK nothing to return. -/
theorem nothing_to_acknowledge (h : 16 ≤ s.bec.stack.length ∨ selected s = none) :
    (if s.bec.stack.length < 16 then selected s else none) = none := by
  obtain hfull | hnone := h
  · exact if_neg (Nat.not_lt.mpr hfull)
  · rw [hnone, ite_self]

theorem ackWord_of_nothing (h : 16 ≤ s.bec.stack.length ∨ selected s = none) : ackWord s = 0x1FF := by
  simp only [ackWord, nothing_to_acknowledge h]

theorem becAck_of_nothing (h : 16 ≤ s.bec.stack.length ∨ selected s = none) : becAck s = s := by
  simp only [becAck, nothing_to_acknowledge h]

/-- BEC_ACK pushes only on a stack with room. -/
theorem length_stack_becAck (h : s.bec.stack.length ≤ 16) : (becAck s).bec.stack.length ≤ 16 := by
  by_cases hnothing : 16 ≤ s.bec.stack.length ∨ selected s = none
  · rwa [becAck_of_nothing hnothing]
  · obtain ⟨hroom, hsome⟩ := not_or.mp hnothing
    obtain ⟨n, hselected⟩ := Option.ne_none_iff_exists'.mp hsome
    rw [becAck_of_selected (Nat.not_le.mp hroom) hselected]
    exact Nat.not_le.mp hroom

end Acknowledge

section EndOfInterrupt

variable {s : State} {n : Nat}

theorem becEoi_of_frozen (hfrozen : s.bec.frozen = true) : becEoi s n = s :=
  if_pos hfrozen

/-- BEC_EOI that names the top takes it off. -/
theorem becEoi_of_top (hfrozen : s.bec.frozen = false) (htop : s.bec.stack.head? = some n) :
    becEoi s n = becPop s := by
  simp [becEoi, becPop, hfrozen, htop]

/-- BEC_EOI that names another source raises BEC_ORDER and freezes the stack. -/
theorem becEoi_of_not_top (hfrozen : s.bec.frozen = false) (htop : s.bec.stack.head? ≠ some n) :
    becEoi s n = raise { s with bec := { s.bec with frozen := true } } { code := 0x74, unit := unitHub } := by
  simp [becEoi, hfrozen, htop]

theorem length_stack_becPop : (becPop s).bec.stack.length ≤ s.bec.stack.length :=
  (List.drop_sublist 1 s.bec.stack).length_le

theorem length_stack_becEoi : (becEoi s n).bec.stack.length ≤ s.bec.stack.length := by
  cases hfrozen : s.bec.frozen with
  | true => exact Nat.le_of_eq (by rw [becEoi_of_frozen hfrozen])
  | false =>
    by_cases htop : s.bec.stack.head? = some n
    · rw [becEoi_of_top hfrozen htop]
      exact length_stack_becPop
    · exact Nat.le_of_eq (by rw [becEoi_of_not_top hfrozen htop, raise_bec])

end EndOfInterrupt

/-- Edges are collected alike whether the stack is frozen or not. -/
theorem settle_edges_frozen (s : State) (b : Bool) :
    (settle { s with bec := { s.bec with frozen := b } }).bec.edges = (settle s).bec.edges :=
  (SameEdgeInputs.foldl_senseSource (s := s) (b := { s.bec with frozen := b }) (b' := s.bec) s.bec.cfg ⟨rfl, rfl, rfl⟩).edges

/-! The rows that ROOT alone can reach, in a block that runs. -/

section Rows

variable {w : World} {s : State} (v : Word)

theorem exec_becAck_root (hrunning : running s = true) : exec (.becAck .root 4) s = .next (settle (becAck s)) :=
  if_pos ⟨hrunning, rfl, rfl⟩

theorem exec_becEoi_root (hrunning : running s = true) :
    exec (.becEoi .root v) s = .next (settle (becEoi s (fld v 8 0))) :=
  if_pos ⟨hrunning, rfl⟩

theorem exec_pop_root (hrunning : running s = true) : exec (.pop .root) s = .next (settle (becPop s)) :=
  if_pos ⟨hrunning, rfl⟩

theorem exec_unfreeze_root (hrunning : running s = true) : exec (.unfreeze .root) s = .next (settle (becUnfreeze s)) :=
  if_pos ⟨hrunning, rfl⟩

/-- No other world reaches them (R452). -/
theorem exec_becRow_of_ne_root {i : Instr} (hworld : w ≠ .root)
    (hrow : i = .becAck w 4 ∨ i = .becEoi w v ∨ i = .pop w ∨ i = .unfreeze w) : exec i s = .next s := by
  obtain rfl | rfl | rfl | rfl := hrow
  · exact if_neg fun h => hworld h.2.1
  · exact if_neg fun h => hworld h.2
  · exact if_neg fun h => hworld h.2
  · exact if_neg fun h => hworld h.2

/-- None of them takes the stack above its 16 entries. -/
theorem length_stack_becRow {i : Instr} {t : State} (hrunning : running s = true) (hlength : s.bec.stack.length ≤ 16)
    (hrow : i = .becAck .root 4 ∨ i = .becEoi .root v ∨ i = .pop .root ∨ i = .unfreeze .root)
    (hexec : exec i s = .next t) : t.bec.stack.length ≤ 16 := by
  obtain rfl | rfl | rfl | rfl := hrow
  · obtain rfl := Host.Outcome.next.inj ((exec_becAck_root hrunning).symm.trans hexec)
    rw [settle_bec_stack]
    exact length_stack_becAck hlength
  · obtain rfl := Host.Outcome.next.inj ((exec_becEoi_root v hrunning).symm.trans hexec)
    rw [settle_bec_stack]
    exact Nat.le_trans length_stack_becEoi hlength
  · obtain rfl := Host.Outcome.next.inj ((exec_pop_root hrunning).symm.trans hexec)
    rw [settle_bec_stack]
    exact Nat.le_trans length_stack_becPop hlength
  · obtain rfl := Host.Outcome.next.inj ((exec_unfreeze_root hrunning).symm.trans hexec)
    rw [settle_bec_stack]
    exact hlength

end Rows

/-- Settles O49: what each access of the stack does (R438). That no other world reaches it is R452 (log entry 32). -/
theorem activeStack : Obligations.ActiveStack := by
  intro s v hrunning
  refine ⟨fun n hroom hselected => ?ack, fun hnothing => ?nothing, fun hfrozen htop => ?top, fun hfrozen htop => ?order,
    fun hfrozen => ?frozen, settle_edges_frozen s, exec_pop_root hrunning, exec_unfreeze_root hrunning,
    fun i t hlength => length_stack_becRow v hrunning hlength, fun w i hworld => exec_becRow_of_ne_root v hworld⟩
  case ack =>
    rw [exec_becAck_root hrunning, becAck_of_selected hroom hselected]
    exact ⟨ackWord_of_selected hroom hselected, rfl⟩
  case nothing =>
    rw [exec_becAck_root hrunning, becAck_of_nothing hnothing, ackWord_of_nothing hnothing]
    exact ⟨by decide, rfl⟩
  case top =>
    rw [exec_becEoi_root v hrunning, becEoi_of_top hfrozen htop, becPop]
  case order =>
    rw [exec_becEoi_root v hrunning, becEoi_of_not_top hfrozen htop]
  case frozen =>
    have hnone := selected_of_frozen hfrozen
    rw [exec_becAck_root hrunning, becAck_of_nothing (.inr hnone), exec_becEoi_root v hrunning, becEoi_of_frozen hfrozen]
    exact ⟨hnone, rfl, rfl⟩

end Sys2Proof.Machine

namespace Sys2Proof.Machine

/-! ## Fence commands (R106 to R111) -/

theorem exec_fenceCreate (q : Nat) (s : State) : exec (.fenceCreate q) s = runCommand 0x08 q fenceCreateEff s := rfl
theorem exec_fenceSignal (q : Nat) (s : State) : exec (.fenceSignal q) s = runCommand 0x09 q fenceSignalEff s := rfl
theorem exec_fenceError (q : Nat) (s : State) : exec (.fenceError q) s = runCommand 0x0A q fenceErrorEff s := rfl
theorem exec_fenceQuery (q : Nat) (s : State) : exec (.fenceQuery q) s = runCommand 0x0B q fenceQueryEff s := rfl

@[simp] theorem objCounts_setFence (s : State) (i : Nat) (f : Fence) :
    objCounts (setFence s i f) ⟨.fence, i⟩ = (f.href, f.dref) := by
  simp [objCounts, setFence]

/-- A fence without a mirror has no record to write. -/
theorem writeMirror_of_none (s : State) {f : Fence} (hmirror : f.mirror = none) : writeMirror s f = s := by
  rw [writeMirror, hmirror]

/-- The fence that FENCE_CREATE without a mirror makes for an issuer `x`. -/
def createdFence (x : Session) (c : Started) : Fence :=
  { value := wd2 c.words 8, multi := bit (wd c.words 10) 0, creator := c.session, accord := x.accord
    signalers := [c.session], fn := (sessionFn x).getD 0 }

/-- Past its checks FENCE_CREATE makes the fence and its issuer holds it. -/
theorem fenceCreateEff_of_holdRef {u v : State} {i : Nat} {c : Started} (id : Nat)
    (hmirror : bit (wd c.words 10) 1 = false) (hfree : freeIndex u .fence = some i) (hroom : refRoom u c.session = true)
    (hhold : holdRef (setFence u i (createdFence (sessionOf u c) c)) c.session ⟨.fence, i⟩ = .ok v) :
    fenceCreateEff id c u = .result (handle v ⟨.fence, i⟩) v := by
  simp only [createdFence] at hhold
  simp only [fenceCreateEff, hmirror, Bool.false_eq_true, if_false, hfree, hroom, hhold, writeMirror]

section FenceEffects

variable {u : State} {c : Started} {r : ObjRef} {f : Fence} (id : Nat) (htarget : targetOf u c = some r)
  (hfence : tget u.fences r.index = some f)

include htarget hfence

theorem fenceSignalEff_of_maySignal (hmay : maySignal c.session f = true) :
    fenceSignalEff id c u = .good (fenceSignal u r.index (wd2 c.words 8) (bit (wd c.words 10) 0)) := by
  simp [fenceSignalEff, htarget, hfence, hmay]

theorem fenceErrorEff_of_maySignal (hmay : maySignal c.session f = true) (hmin : 0x80 ≤ (wd c.words 8).toNat)
    (hmax : (wd c.words 8).toNat ≤ 0xFF) :
    fenceErrorEff id c u = .good (fenceError u r.index (BitVec.ofNat 8 (wd c.words 8).toNat)) := by
  have hcode : ¬((wd c.words 8).toNat < 0x80 ∨ (wd c.words 8).toNat > 0xFF) := by omega
  simp only [fenceErrorEff, htarget, hfence, Option.any_some, hmay, Bool.not_true, Bool.false_eq_true, if_false, if_neg hcode]

theorem fenceQueryEff_of_hub (hspace : spaceOf (fld (wd c.words 10) 1 0) = some .hub)
    (hcheck : spaceCheck (sessionOf u c) (some .hub) (wd2 c.words 8).toNat 16 = none) :
    fenceQueryEff id c u =
      .good { u with hubMem := memWriteBytes u.hubMem 0 (wd2 c.words 8).toNat (fenceRecord f) } := by
  simp only [fenceQueryEff, htarget, hfence, hspace, hcheck]
  rfl

end FenceEffects

/-- The fence unit takes an update that waits, and an error only where nothing but errors waits (R108). -/
theorem nextUpdate_mem {s : State} {x : FenceUpdate} (hnext : nextUpdate s = some x) :
    x ∈ s.fenceReady ∧ (x.code.isSome = true → ∀ y ∈ s.fenceReady, y.code.isSome = true) := by
  have hkind : x ∈ if (s.fenceReady.filter (·.code.isNone)).isEmpty then s.fenceReady
      else s.fenceReady.filter (·.code.isNone) := by
    obtain hturn | ⟨-, holdest⟩ := Option.or_eq_some_iff.1 (Option.orElse_eq_or.symm.trans hnext)
    · exact List.mem_of_find?_eq_some hturn
    · exact List.mem_of_head? holdest
  split at hkind
  next hnoSignal =>
    refine ⟨hkind, fun _ y hy => ?_⟩
    have hall := List.filter_eq_nil_iff.1 (List.isEmpty_iff.1 hnoSignal) y hy
    simpa [Option.isSome_iff_ne_none] using hall
  next =>
    obtain ⟨hmem, hsignal⟩ := List.mem_filter.1 hkind
    refine ⟨hmem, fun herror => ?_⟩
    rw [Option.isNone_iff_eq_none.1 hsignal] at herror
    cases herror

/-- What an update makes of its fence (Table 4.8). -/
def updatedFence (x : FenceUpdate) (f : Fence) : Fence :=
  match x.code with
  | none => signalFence f x.value x.add
  | some k => errorFence f k

/-- Neither a signal nor an error touches the mirror of a fence. -/
@[simp] theorem mirror_updatedFence (x : FenceUpdate) (f : Fence) : (updatedFence x f).mirror = f.mirror := by
  unfold updatedFence
  split
  · obtain hcode | ⟨hcode, hforward⟩ | ⟨hcode, hback⟩ := signalFence_cases f x.value x.add
    · rw [signalFence_of_error hcode]
    · rw [signalFence_of_forward hcode hforward]
    · rw [signalFence_of_backward hcode hback]
  · unfold errorFence
    dsimp only
    split <;> rfl

/-- An update of a fence without a mirror replaces that fence, and nothing else changes. -/
theorem applyUpdate_of_no_mirror {s : State} {x : FenceUpdate} {f : Fence} (hfence : tget s.fences x.fence = some f)
    (hmirror : f.mirror = none) : applyUpdate s x = setFence s x.fence (updatedFence x f) := by
  have hnone : (updatedFence x f).mirror = none := (mirror_updatedFence x f).trans hmirror
  rw [← writeMirror_of_none (setFence s x.fence (updatedFence x f)) hnone]
  simp only [applyUpdate, updateFence, hfence]
  rfl

/-- Settles O9: each command is the fence made and held, the update handed over or the record written; the fence unit's choice and
what it applies. The lowest free index is log entry 9, which updates are ready together log entry 87. -/
theorem fenceCommands : Obligations.FenceCommands := by
  refine ⟨fun s u q c => ⟨fun i x hbegin hmirror hfree hx hroom => ?create, fun r f hbegin htarget hfence hmay => ?signal,
    fun r f hbegin htarget hfence hmay hmin hmax => ?error, fun r f hbegin htarget hfence hspace hcheck => ?query⟩,
    fun s x => nextUpdate_mem, fun s x f hfence hmirror => ?applied⟩
  case create =>
    obtain ⟨h, d, -, hhold⟩ :=
      holdRef_of_unreferenced (s := setFence u i (createdFence (sessionOf u c) c)) hroom (objCounts_setFence ..)
    rw [exec_fenceCreate]
    refine ⟨_, { createdFence (sessionOf u c) c with href := h, dref := d },
      runCommand_done hbegin _ (fenceCreateEff_of_holdRef s.nextId hmirror hfree hroom hhold), ?_, rfl, rfl, rfl, rfl, rfl, rfl,
      ?_⟩
    · simp [listRef, setCounts, setFence]
    · simp only [listRef, setCounts, setFence]
  case signal =>
    rw [exec_fenceSignal]
    exact runCommand_done hbegin _ (fenceSignalEff_of_maySignal s.nextId htarget hfence hmay)
  case error =>
    rw [exec_fenceError]
    exact runCommand_done hbegin _ (fenceErrorEff_of_maySignal s.nextId htarget hfence hmay hmin hmax)
  case query =>
    rw [exec_fenceQuery]
    exact runCommand_done hbegin _ (fenceQueryEff_of_hub s.nextId htarget hfence hspace hcheck)
  case applied =>
    rw [applyUpdate_of_no_mirror hfence hmirror]
    refine ⟨updatedFence x f, rfl, tget_tset_self .., (mirror_updatedFence x f).trans hmirror,
      fun j hj => tget_tset_ne _ _ _ _ hj, rfl⟩

end Sys2Proof.Machine

namespace Sys2Proof.Machine

/-! ## What runs of an operation keep -/

/-- What one step of a fold keeps, the fold keeps. -/
theorem foldl_keeps {α β γ : Type} {f : γ → α → γ} {g : γ → β} (hstep : ∀ s x, g (f s x) = g s) (l : List α) (s : γ) :
    g (l.foldl f s) = g s := by
  induction l generalizing s with
  | nil => rfl
  | cons x r ih => rw [List.foldl_cons, ih, hstep]

/-- The block without its memory engines: what an operation of the engines alone leaves as it was. -/
def outsideMpes (s : State) : State := { s with mpes := [] }

/-- Two states that agree outside the engines are alike once the engines are put back. -/
theorem withMpes_of_outsideMpes {s t : State} (h : outsideMpes t = outsideMpes s) : { t with mpes := s.mpes } = s :=
  congrArg (fun u : State => { u with mpes := s.mpes }) h

@[simp] theorem outsideMpes_updMpe (s : State) (n : Nat) (f : Mpe → Mpe) : outsideMpes (updMpe s n f) = outsideMpes s := rfl

/-- The resource records are no part of the engines. -/
theorem getRes_of_outsideMpes {s t : State} (h : outsideMpes t = outsideMpes s) (k : ResKind) (i : Nat) :
    getRes t k i = getRes s k i := by
  have hres := congrArg (fun u => getRes u k i) h
  cases k <;> exact hres

/-! ## What is set twice -/

@[simp] theorem tset_tset {α : Type} (t : Tab α) (k : Nat) (v w : α) : tset (tset t k v) k w = tset t k w := by
  induction t with
  | nil => simp [tset]
  | cons e r ih =>
    obtain ⟨n, x⟩ := e
    by_cases hlt : k < n
    · simp [tset, hlt]
    · by_cases heq : k = n
      · simp [tset, heq]
      · simp [tset, hlt, heq, ih]

theorem updAccord_updAccord (s : State) (a : Nat) (f g : Accord → Accord) :
    updAccord (updAccord s a f) a g = updAccord s a fun x => g (f x) := by
  simp only [updAccord, getAccord, tgetD_tset_self, tset_tset]

theorem updMpe_updMpe (s : State) (n : Nat) (f g : Mpe → Mpe) :
    updMpe (updMpe s n f) n g = updMpe s n fun x => g (f x) := by
  simp only [updMpe, setMpe, getMpe, tgetD_tset_self, tset_tset]

/-! ## Entries of the coalescing store dropped -/

@[simp] theorem outsideMpes_dropEntry (s : State) (n x : Nat) : outsideMpes (dropEntry s n x) = outsideMpes s := rfl

@[simp] theorem outsideMpes_requeueWaiting (s : State) (n x : Nat) : outsideMpes (requeueWaiting s n x) = outsideMpes s := by
  unfold requeueWaiting
  split <;> rfl

@[simp] theorem store_requeueWaiting (s : State) (n x : Nat) : (getMpe (requeueWaiting s n x) n).store = (getMpe s n).store := by
  unfold requeueWaiting
  split
  · rw [getMpe_updMpe_self]
  · rfl

theorem outsideMpes_invalidateStore (s : State) (n : Nat) (f : Nat → StoreEntry → Bool) :
    outsideMpes (invalidateStore s n f) = outsideMpes s :=
  foldl_keeps (fun t e => by rw [outsideMpes_dropEntry, outsideMpes_requeueWaiting]) _ _

/-- An entry read from a table stands in it. -/
theorem mem_of_tget {α : Type} {t : Tab α} {k : Nat} {v : α} (h : tget t k = some v) : (k, v) ∈ t := by
  induction t with
  | nil => cases h
  | cons e r ih =>
    obtain ⟨n, w⟩ := e
    rw [tget] at h
    split at h
    next hkey =>
      cases h
      subst hkey
      exact List.mem_cons_self
    next => exact List.mem_cons_of_mem _ (ih h)

/-- An entry dropped stays dropped while further entries are. -/
theorem tget_foldl_dropEntry {n x : Nat} (l : List (Nat × StoreEntry)) (s : State)
    (h : tget (getMpe s n).store x = none ∨ ∃ e, (x, e) ∈ l) :
    tget (getMpe (l.foldl (fun s e => dropEntry (requeueWaiting s n e.1) n e.1) s) n).store x = none := by
  induction l generalizing s with
  | nil => exact h.resolve_right (fun ⟨e, he⟩ => by cases he)
  | cons y r ih =>
    refine ih _ ?_
    have hstore : (getMpe (dropEntry (requeueWaiting s n y.1) n y.1) n).store = tdel (getMpe s n).store y.1 := by
      rw [dropEntry, getMpe_updMpe_self, store_requeueWaiting]
    rw [hstore]
    by_cases hx : x = y.1
    · exact .inl (by rw [hx, tget_tdel_self])
    · rw [tget_tdel_ne _ _ _ hx]
      exact h.imp_right fun ⟨e, he⟩ => ⟨e, (List.mem_cons.1 he).resolve_left fun hy => hx (congrArg Prod.fst hy)⟩

/-- What `invalidateStore` selects is not in the store any more. -/
theorem tget_invalidateStore {s : State} {n x : Nat} {f : Nat → StoreEntry → Bool} (hsel : ∀ e, f x e = true) :
    tget (getMpe (invalidateStore s n f) n).store x = none := by
  refine tget_foldl_dropEntry _ s ?_
  cases hentry : tget (getMpe s n).store x with
  | none => exact .inl rfl
  | some e => exact .inr ⟨e, List.mem_filter.2 ⟨mem_of_tget hentry, hsel e⟩⟩

end Sys2Proof.Machine

namespace Sys2Proof.Machine

/-! ## CARVE_POOL_SET (R112, R115) -/

theorem exec_carvePoolSet (q : Nat) (s : State) : exec (.carvePoolSet q) s = runCommand 0x19 q carvePoolSetEff s := rfl

/-- The pool of `n` bricks from brick `first` of region `i` on. -/
def carvedPool (i : Nat) (g : Region) (e : RtEntry) (first n : Nat) : Pool :=
  { region := i, stack := g.stack, first := e.base + first, limit := e.base + first + n - 1, next := e.base + first }

section CarvePoolSetEff

variable {u : State} {c : Started} {i : Nat} {g : Region} {e : RtEntry} (id : Nat)
  (htarget : targetRegion u c = some (i, g, e))

include htarget

theorem carvePoolSetEff_of_unbound (hbound : coreBoundTo u (fld (wd c.words 8) 7 0) g.accord = false) :
    carvePoolSetEff id c u = .fail .noAccess u := by
  simp only [carvePoolSetEff, htarget, hbound, Bool.not_false, if_true]

variable (hbound : coreBoundTo u (fld (wd c.words 8) 7 0) g.accord = true)

include hbound

theorem carvePoolSetEff_of_none (hnone : wd c.words 10 = 0) :
    carvePoolSetEff id c u = .good (clearPool u (fld (wd c.words 8) 7 0)) := by
  simp only [carvePoolSetEff, htarget, hbound, hnone, Bool.not_true, Bool.false_eq_true, if_false]
  rfl

variable (hsome : wd c.words 10 ≠ 0)

include hsome

theorem carvePoolSetEff_of_beyond (hbeyond : e.limit + 1 - e.base < (wd c.words 9).toNat + (wd c.words 10).toNat) :
    carvePoolSetEff id c u = .fail .badOperand u := by
  have hcount : (wd c.words 10).toNat ≠ 0 := fun h => hsome (BitVec.eq_of_toNat_eq h)
  simp only [carvePoolSetEff, htarget, hbound, Bool.not_true, Bool.false_eq_true, if_false, if_neg hcount, if_pos hbeyond]

theorem carvePoolSetEff_of_within {v : State}
    (hwithin : (wd c.words 9).toNat + (wd c.words 10).toNat ≤ e.limit + 1 - e.base)
    (hadd : addRef u ⟨.region, i⟩ .device 1 = some v) :
    carvePoolSetEff id c u = .good (updCore (clearPool v (fld (wd c.words 8) 7 0)) (fld (wd c.words 8) 7 0)
      fun x => { x with pool := some (carvedPool i g e (wd c.words 9).toNat (wd c.words 10).toNat) }) := by
  have hcount : (wd c.words 10).toNat ≠ 0 := fun h => hsome (BitVec.eq_of_toNat_eq h)
  simp only [carvePoolSetEff, htarget, hbound, Bool.not_true, Bool.false_eq_true, if_false, if_neg hcount,
    if_neg (Nat.not_lt.2 hwithin), hadd, carvedPool]

end CarvePoolSetEff

/-- A device reference to a region is one more in its DREF. -/
theorem addRef_region {s v : State} {i : Nat} {g : Region} (hg : tget s.regions i = some g)
    (hadd : addRef s ⟨.region, i⟩ .device 1 = some v) :
    v = { s with regions := tset s.regions i { g with dref := g.dref + 1 } } := by
  rw [eq_setCounts_of_addRef hadd]
  simp only [setCounts, tupd_of_tget _ hg, raisedCounts, objCounts, hg, Option.map_some, Option.getD_some]

theorem clearPool_of_none {s : State} {cg : Nat} (hpool : (getCore s cg).pool = none) : clearPool s cg = s := by
  rw [clearPool, hpool]

/-- An object with a reference left is not torn down. -/
theorem reap_of_counted {s : State} {r : ObjRef} (hcounted : objCounts s r ≠ (0, 0)) : reap s r = s :=
  if_neg fun h => hcounted h.2

/-- A region that other references keep only loses one from its DREF. -/
theorem subRef_region_of_kept {s : State} {i : Nat} {g : Region} (hg : tget s.regions i = some g)
    (hkept : 2 ≤ g.href + g.dref) :
    subRef s ⟨.region, i⟩ .device 1 = { s with regions := tset s.regions i { g with dref := g.dref - 1 } } := by
  have hexists : objExists s ⟨.region, i⟩ = true := by simp [objExists, hg]
  have hcounts : objCounts s ⟨.region, i⟩ = (g.href, g.dref) := by simp [objCounts, hg]
  have hcounted : objCounts (setCounts s ⟨.region, i⟩ g.href (g.dref - 1)) ⟨.region, i⟩ ≠ (0, 0) := by
    rw [objCounts_setCounts hexists, Ne, Prod.mk.injEq]
    omega
  simp only [subRef, hexists, Bool.not_true, Bool.false_eq_true, if_false, hcounts, reap_of_counted hcounted]
  simp only [setCounts, tupd_of_tget _ hg]

/-- A pool cleared is gone from its core group, and its region has one reference less. -/
theorem clearPool_of_kept {s : State} {cg : Nat} {p : Pool} {g : Region} (hpool : (getCore s cg).pool = some p)
    (hg : tget s.regions p.region = some g) (hkept : 2 ≤ g.href + g.dref) :
    clearPool s cg = { updCore s cg fun c => { c with pool := none } with
      regions := tset s.regions p.region { g with dref := g.dref - 1 } } := by
  simp only [clearPool, hpool]
  exact subRef_region_of_kept (s := updCore s cg fun c => { c with pool := none }) hg hkept

/-- The regions are no part of the core groups. -/
@[simp] theorem getCore_withRegions (s : State) (t : Tab Region) (cg : Nat) :
    getCore { s with regions := t } cg = getCore s cg := rfl

/-- Settles O16: the effect by the operands, the reference of a new pool, and what clearing a pool leaves. -/
theorem carvePoolSet : Obligations.CarvePoolSet := by
  refine ⟨fun s u q i cg c g e hbegin htarget hcg => ?command, fun s v i g hg hadd => ?taken,
    fun s cg => ⟨clearPool_of_none, fun p g hpool hg hdref hkept => ?cleared⟩⟩
  case command =>
    subst hcg
    rw [exec_carvePoolSet]
    refine ⟨fun hbound => ?_, fun hbound hsome hbeyond => ?_, fun hbound hnone => ?_,
      fun v hbound hsome hwithin hadd => ⟨_, runCommand_done hbegin _
        (carvePoolSetEff_of_within s.nextId htarget hbound hsome hwithin hadd), ?_, fun k hk => ?_, rfl⟩⟩
    · exact runCommand_done hbegin _ (carvePoolSetEff_of_unbound s.nextId htarget hbound)
    · exact runCommand_done hbegin _ (carvePoolSetEff_of_beyond s.nextId htarget hbound hsome hbeyond)
    · exact runCommand_done hbegin _ (carvePoolSetEff_of_none s.nextId htarget hbound hnone)
    · rw [getCore_updCore_self, carvedPool]
    · exact getCore_updCore_ne _ _ _ _ hk
  case taken =>
    rw [addRef_region hg hadd]
    exact ⟨tget_tset_self .., fun j hj => tget_tset_ne _ _ _ _ hj, rfl⟩
  case cleared =>
    rw [clearPool_of_kept hpool hg hkept]
    refine ⟨?_, fun k hk => ?_, tget_tset_self .., fun j hj => tget_tset_ne _ _ _ _ hj, rfl⟩
    · rw [getCore_withRegions, getCore_updCore_self]
    · rw [getCore_withRegions, getCore_updCore_ne _ _ _ _ hk]

end Sys2Proof.Machine

namespace Sys2Proof.Machine

/-! ## ACCORD_UNBIND (R46, Table 2.7) -/

theorem exec_accordUnbind (q : Nat) (s : State) : exec (.accordUnbind q) s = runCommand 0x12 q accordUnbindEff s := rfl

theorem getRes_updRes_ne (s : State) (k : ResKind) {i j : Nat} (f : Res → Res) (h : j ≠ i) :
    getRes (updRes s k i f) k j = getRes s k j :=
  getRes_setRes_ne s k i j _ h

section Unbind

variable {u : State} {c : Started} {k : ResKind} {i : Nat} (id : Nat) (hsel : resSel (wd c.words 8) = some (k, i))

include hsel

theorem accordUnbindEff_of_bound (hbound : (getRes u k i).state = .bound) (hunused : k = .channel → channelInUse u i = false) :
    accordUnbindEff id c u = .wait (.unbind k i) (startDrain u k i) := by
  have hfree : ¬(k = .channel ∧ channelInUse u i = true) := fun h => by simp [hunused h.1] at h
  simp only [accordUnbindEff, hsel, hbound, if_neg hfree]

theorem accordUnbindEff_of_used (hchannel : k = .channel) (hbound : (getRes u k i).state = .bound)
    (hused : channelInUse u i = true) : accordUnbindEff id c u = .reject 0x14 u := by
  subst hchannel
  simp only [accordUnbindEff, hsel, hbound, hused, and_self, if_true]

theorem accordUnbindEff_of_queuedBind (hleaving : (getRes u k i).state = .drain ∨ (getRes u k i).state = .erase)
    (hpending : (getRes u k i).pending.isSome = true) (hnext : (getRes u k i).unbindNext = none)
    (hunused : k = .channel → channelInUse u i = false) :
    accordUnbindEff id c u = .wait (.unbind k i) (updRes u k i fun r => { r with unbindNext := some (some id) }) := by
  have hfree : ¬(k = .channel ∧ channelInUse u i = true) := fun h => by simp [hunused h.1] at h
  obtain hdrain | herase := hleaving
  · simp [accordUnbindEff, hsel, hdrain, hpending, hnext, hfree]
  · simp [accordUnbindEff, hsel, herase, hpending, hnext, hfree]

end Unbind

/-- A change of one resource record touches the resource records alone. -/
theorem updRes_frame (s : State) (k : ResKind) (i : Nat) (f : Res → Res) :
    { updRes s k i f with channels := s.channels, portRes := s.portRes, groups := s.groups } = s := by
  cases k <;> rfl

/-! ## DRAIN (Table 2.6) -/

@[simp] theorem getRes_updMpe (s : State) (n : Nat) (f : Mpe → Mpe) (k : ResKind) (i : Nat) :
    getRes (updMpe s n f) k i = getRes s k i := by
  cases k <;> rfl

@[simp] theorem getRes_releasePins (s : State) (i a : Nat) (k : ResKind) (j : Nat) :
    getRes (releasePins s i a) k j = getRes s k j := by
  cases k <;> rfl

/-- A resource that enters DRAIN: its record says so, and the other records of its kind stay. -/
theorem getRes_startDrain {k : ResKind} (s : State) (i j : Nat) (hport : k ≠ .port) :
    getRes (startDrain s k i) k j = getRes (updRes s k i fun r => { r with state := .drain, scrub := none }) k j := by
  cases k with
  | port => exact absurd rfl hport
  | channel =>
    refine (foldl_keeps (g := fun t => getRes t .channel j) (fun t a => getRes_releasePins t i a .channel j) _ _).trans ?_
    rw [markAccepted, getRes_updMpe]
  | coreGroup => simp only [startDrain, getRes_updCore]

/-- What is left of a pin that is cut lies outside the bricks that are taken from it. -/
theorem cutPin_outside {p p' : Pin} {lo hi : Nat} (hmem : p' ∈ cutPin p lo hi) :
    256 * (p'.base + p'.len) ≤ lo ∨ hi ≤ 256 * p'.base := by
  obtain hfirst | hafter := List.mem_append.1 hmem
  · left
    split at hfirst
    next hbase =>
      rw [List.mem_singleton.1 hfirst]
      have hlen : Nat.min p.len (lo / 256 - p.base) ≤ lo / 256 - p.base := Nat.min_le_right ..
      dsimp only
      omega
    next => cases hfirst
  · right
    split at hafter
    next hend =>
      rw [List.mem_singleton.1 hafter]
      have hbase : (hi + 255) / 256 ≤ Nat.max p.base ((hi + 255) / 256) := Nat.le_max_right ..
      dsimp only
      omega
    next => cases hafter

/-- No pin of accord `a` touches channel `i`. -/
def NoPinTouches (i a : Nat) (s : State) : Prop :=
  ∀ p ∈ (getAccord s a).pins, p.stack = i / 32 →
    256 * (p.base + p.len) ≤ i % 32 * channelBricks ∨ (i % 32 + 1) * channelBricks ≤ 256 * p.base

theorem noPinTouches_releasePins_self (s : State) (i a : Nat) : NoPinTouches i a (releasePins s i a) := by
  intro p' hmem hstack
  simp only [releasePins, getAccord_updAccord_self] at hmem
  obtain ⟨p, -, hcut⟩ := List.mem_flatMap.1 hmem
  split at hcut
  next => exact cutPin_outside hcut
  next hother => exact absurd (List.mem_singleton.1 hcut ▸ hstack) hother

theorem noPinTouches_releasePins {s : State} {i a : Nat} (b : Nat) (h : NoPinTouches i a s) :
    NoPinTouches i a (releasePins s i b) := by
  by_cases hab : a = b
  · subst hab
    exact noPinTouches_releasePins_self s i a
  · intro p hmem
    rw [releasePins, getAccord_updAccord_ne _ _ _ _ hab] at hmem
    exact h p hmem

/-- Every owner's pins are released, one owner after the other. -/
theorem noPinTouches_foldl_releasePins {i a : Nat} (l : List Nat) (s : State) (h : a ∈ l ∨ NoPinTouches i a s) :
    NoPinTouches i a (l.foldl (fun s b => releasePins s i b) s) := by
  induction l generalizing s with
  | nil => exact h.resolve_left List.not_mem_nil
  | cons b r ih =>
    refine ih _ ?_
    obtain hmem | hfree := h
    · obtain rfl | hrest := List.mem_cons.1 hmem
      · exact .inr (noPinTouches_releasePins_self s i a)
      · exact .inl hrest
    · exact .inr (noPinTouches_releasePins b hfree)

theorem noPinTouches_startDrain {s : State} {i a : Nat} (howner : a ∈ (getRes s .channel i).owners) :
    NoPinTouches i a (startDrain s .channel i) :=
  noPinTouches_foldl_releasePins _ _ (.inl howner)

/-- The entry of a core group that leaves: VALID cleared, HALTING set (Table 2.4). -/
theorem drainedEntry_bits (e : Word) :
    bit ((e &&& 0x7FFFFFFF) ||| 0x00008000) 31 = false ∧ bit ((e &&& 0x7FFFFFFF) ||| 0x00008000) 15 = true := by
  simp [bit]

theorem getCore_startDrain_self (s : State) (i : Nat) :
    ∃ c : Core, getCore (startDrain s .coreGroup i) i =
      { c with entry := (c.entry &&& 0x7FFFFFFF) ||| 0x00008000, session := none } :=
  ⟨_, getCore_updCore_self ..⟩

/-! ## ERASE (Table 2.6) -/

theorem exec_handoverDrainComplete {s : State} {k : ResKind} {i : Nat} (hrunning : running s = true)
    (hdrain : (getRes s k i).state = .drain) (hover : drainOver s k i = true) :
    exec (.handoverDrainComplete k i) s = .next (settleAll (startErase s k i)) :=
  if_pos ⟨hrunning, hdrain, hover⟩

theorem exec_eraseComplete {s : State} {k : ResKind} {i : Nat} (hrunning : running s = true)
    (herase : (getRes s k i).state = .erase) (hclear : k = .coreGroup → (getCore s i).clearReq = false) :
    exec (.eraseComplete k i) s = .next (settleAll (advanceAccords (endErase s k i))) :=
  if_pos ⟨hrunning, herase, hclear⟩

theorem exec_stCgClearAck {s : State} {i : Nat} (hrunning : running s = true) (hreq : (getCore s i).clearReq = true) :
    exec (.stCgClearAck i) s = .next (settle (updCore s i fun c => { c with clearReq := false })) :=
  if_pos ⟨hrunning, hreq⟩

/-- ERASE begins: the record says so, its owners kept, and the other records of its kind stay. -/
theorem getRes_startErase {s : State} {k : ResKind} {i : Nat} (hpool : k ≠ .coreGroup ∨ (getCore s i).pool = none) (j : Nat) :
    getRes (startErase s k i) k j = getRes (updRes s k i fun r => { r with state := .erase }) k j := by
  cases k with
  | channel => simp only [startErase, getRes_of_outsideMpes (outsideMpes_invalidateStore ..)]
  | port => rfl
  | coreGroup =>
    have hnone : (getCore (updRes s .coreGroup i fun r => { r with state := .erase }) i).pool = none :=
      hpool.resolve_left fun h => h rfl
    simp only [startErase, getRes_updCore, clearPool_of_none hnone]

/-- The record of a resource whose ERASE is over, before a queued bind takes it. -/
def erasedRes (k : ResKind) (r : Res) : Res :=
  { r with state := .free, owners := [], exclusive := false, scrub := if k = .channel then some 0 else none }

/-- A core group after its ERASE: entry, requests, pool and session are gone. -/
def eraseCore (s : State) (i : Nat) : State :=
  updCore s i fun c => { c with entry := 0, stores := [], doorbells := [], pool := none, session := none }

section EndErase

variable {s : State} {i : Nat} (hwaiters : unbindWaiters s .coreGroup i = [])

include hwaiters

theorem endErase_coreGroup_of_no_bind (hpending : (getRes s .coreGroup i).pending = none) :
    endErase s .coreGroup i = updRes (eraseCore s i) .coreGroup i (erasedRes .coreGroup) := by
  have hwaiters' : unbindWaiters (eraseCore s i) .coreGroup i = [] := hwaiters
  have hpending' : (getRes (eraseCore s i) .coreGroup i).pending = none := hpending
  rw [eraseCore] at hwaiters' hpending'
  simp only [endErase, eraseResource, hwaiters', hpending', List.foldl_nil]
  rfl

theorem endErase_coreGroup_of_bind {p : PendingBind} (hpending : (getRes s .coreGroup i).pending = some p)
    (hcmd : p.cmd = none) (hnext : (getRes s .coreGroup i).unbindNext = none) :
    endErase s .coreGroup i =
      bindNow (updRes (eraseCore s i) .coreGroup i (erasedRes .coreGroup)) .coreGroup i p.accord p.info := by
  have hwaiters' : unbindWaiters (eraseCore s i) .coreGroup i = [] := hwaiters
  have hpending' : (getRes (eraseCore s i) .coreGroup i).pending = some p := hpending
  have hnext' : (getRes (eraseCore s i) .coreGroup i).unbindNext = none := hnext
  rw [eraseCore] at hwaiters' hpending' hnext'
  simp only [endErase, eraseResource, hwaiters', hpending', hnext', hcmd, List.foldl_nil, finishOpt]
  rfl

end EndErase

/-- The core groups are no part of the resource records. -/
@[simp] theorem getCore_updRes (s : State) (k : ResKind) (i : Nat) (f : Res → Res) (cg : Nat) :
    getCore (updRes s k i f) cg = getCore s cg := by
  cases k <;> rfl

/-- The entry that the bind step gives a core group (Table 2.4). -/
theorem getCore_bindNow_self (s : State) (i a : Nat) (info : Word) :
    (getCore (bindNow s .coreGroup i a info) i).entry =
      pack [(1, 31), (fld info 30 29, 29), (a, 19), (fld info 18 16, 16), (fld info 14 14, 14)] := by
  simp only [bindNow, getCore_updCore_self]

section OtherCoreGroups

variable (s : State) {i j : Nat} (hj : j ≠ i)

include hj

theorem getCore_bindNow_ne (a : Nat) (info : Word) : getCore (bindNow s .coreGroup i a info) j = getCore s j :=
  (getCore_updCore_ne _ _ _ _ hj).trans (getCore_updRes ..)

theorem getRes_bindNow_ne (a : Nat) (info : Word) :
    getRes (bindNow s .coreGroup i a info) .coreGroup j = getRes s .coreGroup j := by
  simp only [bindNow, getRes_updCore, getRes_updRes_ne _ _ _ hj]

theorem getRes_erased_ne :
    getRes (updRes (eraseCore s i) .coreGroup i (erasedRes .coreGroup)) .coreGroup j = getRes s .coreGroup j :=
  (getRes_updRes_ne _ _ _ hj).trans (getRes_updCore ..)

theorem getCore_erased_ne :
    getCore (updRes (eraseCore s i) .coreGroup i (erasedRes .coreGroup)) j = getCore s j :=
  (getCore_updRes ..).trans (getCore_updCore_ne _ _ _ _ hj)

/-- The end of a core group's ERASE leaves the other core groups alone. -/
theorem endErase_coreGroup_ne (hwaiters : unbindWaiters s .coreGroup i = [])
    (hnext : (getRes s .coreGroup i).unbindNext = none) (hcmd : ∀ p ∈ (getRes s .coreGroup i).pending, p.cmd = none) :
    getRes (endErase s .coreGroup i) .coreGroup j = getRes s .coreGroup j ∧
      getCore (endErase s .coreGroup i) j = getCore s j := by
  cases hpending : (getRes s .coreGroup i).pending with
  | none =>
    rw [endErase_coreGroup_of_no_bind hwaiters hpending]
    exact ⟨getRes_erased_ne s hj, getCore_erased_ne s hj⟩
  | some p =>
    rw [endErase_coreGroup_of_bind hwaiters hpending (hcmd p hpending) hnext, getRes_bindNow_ne _ hj, getCore_bindNow_ne _ hj]
    exact ⟨getRes_erased_ne s hj, getCore_erased_ne s hj⟩

end OtherCoreGroups

/-- Settles O13: ACCORD_UNBIND by the state of its resource, and what entering DRAIN, beginning and ending ERASE leave of the
resource records, the pins, the store and the core groups (Tables 2.4, 2.6 and 2.7). -/
theorem handoverSteps : Obligations.HandoverSteps := by
  refine ⟨fun s u q i c k hbegin hsel => ?unbind, fun s k i hport => ?drain,
    fun s i a p howner hmem hstack => noPinTouches_startDrain howner p hmem hstack, fun s i => ?drainedCore,
    fun s k i => ⟨exec_handoverDrainComplete, fun hpool => ?erase, fun x hchannel hhere => ?store, fun hcore => ?clearReq,
      exec_eraseComplete, fun hrunning hreq => ?clearAck⟩,
    fun s i hwaiters => ⟨fun hpending => ?free, fun p hpending hcmd hnext => ?bound,
      fun j hj hnext hcmd => endErase_coreGroup_ne s hj hwaiters hnext hcmd⟩⟩
  case unbind =>
    rw [exec_accordUnbind]
    refine ⟨fun hbound hunused => ?_, fun hchannel hbound hused => ?_, fun hleaving hpending hnext hunused => ?_⟩
    · exact runCommand_wait hbegin _ (accordUnbindEff_of_bound s.nextId hsel hbound hunused)
    · exact runCommand_done hbegin _ (accordUnbindEff_of_used s.nextId hsel hchannel hbound hused)
    · exact ⟨_, runCommand_wait hbegin _ (accordUnbindEff_of_queuedBind s.nextId hsel hleaving hpending hnext hunused),
        getRes_updRes_self .., fun j hj => getRes_updRes_ne _ _ _ hj, updRes_frame ..⟩
  case drain =>
    refine ⟨?_, fun j hj => ?_⟩
    · rw [getRes_startDrain s i i hport, getRes_updRes_self]
    · rw [getRes_startDrain s i j hport, getRes_updRes_ne _ _ _ hj]
  case drainedCore =>
    obtain ⟨c, hc⟩ := getCore_startDrain_self s i
    rw [hc]
    exact ⟨rfl, (drainedEntry_bits c.entry).1, (drainedEntry_bits c.entry).2,
      fun j hj => (getCore_updCore_ne _ _ _ _ hj).trans (getCore_updRes ..)⟩
  case erase =>
    refine ⟨?_, fun j hj => ?_⟩
    · rw [getRes_startErase hpool, getRes_updRes_self]
    · rw [getRes_startErase hpool, getRes_updRes_ne _ _ _ hj]
  case store =>
    subst hchannel
    exact tget_invalidateStore fun _ => beq_iff_eq.2 hhere
  case clearReq =>
    subst hcore
    simp only [startErase, getCore_updCore_self]
  case clearAck =>
    exact ⟨_, exec_stCgClearAck hrunning hreq, rfl, getCore_updCore_self .., fun j hj => getCore_updCore_ne _ _ _ _ hj⟩
  case free =>
    rw [endErase_coreGroup_of_no_bind hwaiters hpending, getRes_updRes_self, getCore_updRes, eraseCore, getCore_updCore_self]
    exact ⟨rfl, rfl, rfl, rfl, rfl⟩
  case bound =>
    rw [endErase_coreGroup_of_bind hwaiters hpending hcmd hnext, getRes_bindNow_self, getCore_bindNow_self]
    exact ⟨rfl, rfl, rfl, rfl⟩

end Sys2Proof.Machine

namespace Sys2Proof.Machine

/-! ## ACCORD_RETIRE and PARTITION_RESET (R51, R413) -/

theorem exec_accordRetire (q : Nat) (s : State) : exec (.accordRetire q) s = runCommand 0x13 q accordRetireEff s := rfl
theorem exec_partitionReset (q : Nat) (s : State) : exec (.partitionReset q) s = runCommand 0x14 q partitionResetEff s := rfl

/-- A tenant accord that is not FREE may be named by every world, by a tenant only if it is its own. -/
theorem namedAccord_ok {u : State} {c : Started} (htenant : 2 ≤ fld (wd c.words 8) 9 0)
    (hstate : (getAccord u (fld (wd c.words 8) 9 0)).state ≠ .free)
    (hown : (sessionOf u c).world = .tenant → fld (wd c.words 8) 9 0 = (sessionOf u c).accord) :
    namedAccord u c = .ok (fld (wd c.words 8) 9 0) := by
  have hbad : ¬(fld (wd c.words 8) 9 0 < 2 ∨ (getAccord u (fld (wd c.words 8) 9 0)).state = .free) :=
    not_or.2 ⟨Nat.not_lt.2 htenant, hstate⟩
  have hforeign : ¬((sessionOf u c).world = .tenant ∧ fld (wd c.words 8) 9 0 ≠ (sessionOf u c).accord) :=
    fun h => h.2 (hown h.1)
  simp only [namedAccord, if_neg hbad, if_neg hforeign]

theorem accordRetireEff_of_named {u : State} {c : Started} {a : Nat} (id : Nat) (hnamed : namedAccord u c = .ok a) :
    accordRetireEff id c u = .wait (.retire a) (retireAccord (setWait u id (.retire a)) a (some id)) := by
  rw [accordRetireEff, hnamed]

/-- An accord that is neither fixed nor FREE nor RETIRING enters rung 2, which is then in progress. -/
theorem runRung2_of_entering {s : State} {a : Nat} (htenant : 2 ≤ a) (hfree : (getAccord s a).state ≠ .free)
    (hretiring : (getAccord s a).state ≠ .retiring) :
    runRung2 s a = retireAccord { s with frs := { s.frs with active := s.frs.active ++ [.rung2 a], lastRung2 := a } } a none :=
  if_neg (not_or.2 ⟨Nat.not_lt.2 htenant, not_or.2 ⟨hfree, hretiring⟩⟩)

theorem partitionResetEff_of_named {u : State} {c : Started} {a : Nat} (id : Nat) (hnamed : namedAccord u c = .ok a)
    (htenant : 2 ≤ a) (hfree : (getAccord u a).state ≠ .free) (hretiring : (getAccord u a).state ≠ .retiring) :
    partitionResetEff id c u = .wait (.rung2 a) (retireAccord { setWait u id (.rung2 a) with
      frs := { u.frs with active := u.frs.active ++ [.rung2 a], lastRung2 := a } } a none) := by
  have hentering := runRung2_of_entering (s := setWait u id (.rung2 a)) htenant hfree hretiring
  simp only [partitionResetEff, hnamed, hentering]
  rfl

/-! ## From LIVE to RETIRING to FREE (R50, R51, R113) -/

/-- Accord `a` in RETIRING, its owner event bits and its key gone. -/
def enterRetiring (s : State) (a : Nat) : State :=
  updAccord s a fun x => { x with state := .retiring, ownerEvents := 0, accordKey := none, deltaPending := false }

theorem retireAccord_of_active {s : State} {a : Nat} (own : Option Nat) (htenant : 2 ≤ a)
    (hactive : (getAccord s a).state = .composing ∨ (getAccord s a).state = .live) :
    retireAccord s a own = advanceAccords (drainAccord (dropEngines (retireKeys (abortWaiters
      (haltQueues (failFences (enterRetiring (cutJobs s a) a) a) a own) a) a) a) a) := by
  have henters : ¬(a < 2 ∨ (getAccord s a).state = .free ∨ (getAccord s a).state = .retiring) := by
    obtain hstate | hstate := hactive
    all_goals
      rw [hstate]
      simp only [reduceCtorEq, or_false]
      omega
  simp only [retireAccord, if_neg henters, enterRetiring]

section Retiring

variable {s : State} {a : Nat} (hretiring : (getAccord s a).state = .retiring)

include hretiring

theorem retireAccord_of_retiring (own : Option Nat) : retireAccord s a own = s :=
  if_pos (.inr (.inr hretiring))

theorem advanceAccord_of_leaving (hleaving : leaving s a false = true) : advanceAccord s a = s := by
  simp only [advanceAccord, hretiring, hleaving, if_true]

theorem advanceAccord_of_left (hleft : leaving s a false = false) : advanceAccord s a = freeAccord s a := by
  simp only [advanceAccord, hretiring, hleft, Bool.false_eq_true, if_false]

end Retiring

/-- The region table entries of stack `n` without those of accord `a`. -/
def dropRtOf (a : Nat) (s : State) (n : Nat) : State :=
  updMpe s n fun m => { m with rt := m.rt.filter fun e => e.2.owner != a }

/-- Stack `n` has no region table entry of accord `a`. -/
def NoRtOf (a n : Nat) (s : State) : Prop := ∀ e ∈ (getMpe s n).rt, e.2.owner ≠ a

theorem noRtOf_dropRtOf_self (s : State) (a n : Nat) : NoRtOf a n (dropRtOf a s n) := by
  intro e hmem
  rw [dropRtOf, getMpe_updMpe_self] at hmem
  simpa using (List.mem_filter.1 hmem).2

theorem noRtOf_dropRtOf {s : State} {a n : Nat} (k : Nat) (h : NoRtOf a n s) : NoRtOf a n (dropRtOf a s k) := by
  by_cases hk : n = k
  · subst hk
    exact noRtOf_dropRtOf_self s a n
  · rwa [NoRtOf, dropRtOf, getMpe_updMpe_ne _ _ _ _ hk]

theorem noRtOf_foldl_dropRtOf {a n : Nat} (l : List Nat) (s : State) (h : n ∈ l ∨ NoRtOf a n s) :
    NoRtOf a n (l.foldl (dropRtOf a) s) := by
  induction l generalizing s with
  | nil => exact h.resolve_left List.not_mem_nil
  | cons k r ih =>
    refine ih _ ?_
    obtain hmem | hnone := h
    · obtain rfl | hrest := List.mem_cons.1 hmem
      · exact .inr (noRtOf_dropRtOf_self s a n)
      · exact .inl hrest
    · exact .inr (noRtOf_dropRtOf k hnone)

/-- What is left of an accord's objects and commands when its region table entries go. -/
def accordTornDown (s : State) (a : Nat) : State :=
  tearObjects ((freeWaiters s a).foldl (fun s id => finish s id .ok 0 0) s) a

/-- The engines of a block that has freed an accord. -/
theorem mpes_freeAccord (s : State) (a : Nat) :
    (freeAccord s a).mpes = ((List.range 8).foldl (dropRtOf a) (accordTornDown s a)).mpes := by
  simp only [freeAccord, clearGateways, updAccord_mpes, accordTornDown]
  rfl

/-- An accord that is FREE again has no region table entry on any stack. -/
theorem noRtOf_freeAccord (s : State) {a n : Nat} (hn : n < 8) : NoRtOf a n (freeAccord s a) := by
  rw [NoRtOf, getMpe, mpes_freeAccord]
  exact noRtOf_foldl_dropRtOf _ (accordTornDown s a) (.inl (List.mem_range.2 hn))

theorem state_freeAccord (s : State) (a : Nat) : (getAccord (freeAccord s a) a).state = .free := by
  simp only [freeAccord, getAccord, tgetD_tset_self]

/-- A command that waits for an accord to be FREE ends OK once it is, and goes on waiting until then. -/
theorem resolve_of_accordWait {c : Started} {a : Nat} (s : State) (id : Nat) (hwait : c.wait = .retire a ∨ c.wait = .rung2 a) :
    resolve s id c = if (getAccord s a).state = .free then some (finish s id .ok 0 0) else none := by
  obtain hretire | hrung2 := hwait
  · simp only [resolve, hretire]
  · simp only [resolve, hrung2]

/-- Settles O14: the two commands wait for FREE over `retireAccord`, which an accord enters once; a RETIRING accord is freed when
nothing of it is left to leave. The order of what leaves is log entry 16. -/
theorem accordLeaving : Obligations.AccordLeaving := by
  refine ⟨fun s u q a c ha htenant hstate hown => ?commands, fun s a own htenant => ⟨fun hactive => ?active,
    fun hretiring => ?retiring, fun id c => resolve_of_accordWait s id⟩⟩
  case commands =>
    subst ha
    have hnamed := namedAccord_ok htenant hstate hown
    refine ⟨fun hbegin => ?_, fun hbegin hretiring => ?_⟩
    · exact runCommand_wait hbegin _ (accordRetireEff_of_named s.nextId hnamed)
    · exact runCommand_wait hbegin _ (partitionResetEff_of_named s.nextId hnamed htenant hstate hretiring)
  case active =>
    refine ⟨enterRetiring (cutJobs s a) a, ?_, ?_, ?_, rfl, retireAccord_of_active own htenant hactive⟩
    all_goals rw [enterRetiring, getAccord_updAccord_self]
  case retiring =>
    refine ⟨retireAccord_of_retiring hretiring own, advanceAccord_of_leaving hretiring, fun hleft => ?_⟩
    rw [advanceAccord_of_left hretiring hleft]
    exact ⟨state_freeAccord s a, fun n e hn => noRtOf_freeAccord s hn e⟩

end Sys2Proof.Machine

namespace Sys2Proof.Machine

/-! ## EPOCH_RETIRE (R195, R196) -/

theorem exec_epochRetire (q : Nat) (s : State) : exec (.epochRetire q) s = runCommand 0x1C q epochRetireEff s := rfl

/-- The accords are no part of the engines. -/
@[simp] theorem getMpe_updEpoch (s : State) (a n k : Nat) (cls : Cls) (f : Epoch → Epoch) :
    getMpe (updEpoch s a n cls f) k = getMpe s k := rfl

theorem updEpoch_frame (s : State) (a n : Nat) (k : Cls) (f : Epoch → Epoch) :
    { updEpoch s a n k f with accords := s.accords } = s := rfl

/-- An epoch changed reads back changed. -/
theorem epochOf_updEpoch_self {k : Cls} (hk : k ≠ .s) (s : State) (a n : Nat) (f : Epoch → Epoch) :
    epochOf (updEpoch s a n k f) a k n = f (epochOf s a k n) := by
  cases k with
  | s => exact absurd rfl hk
  | c => simp [epochOf, updEpoch]
  | r => simp [epochOf, updEpoch]

/-- A pass over the channels that the accord binds joins the stack's passes. -/
theorem startPass_of_bound {s : State} {a n : Nat} (k : Cls) (old : Nat) (hbound : channelsOf s a n ≠ []) :
    startPass s a n k old = updMpe s n fun m => { m with passes := m.passes ++
      [{ accord := a, cls := k, epoch := old % 4, next := (channelsOf s a n).map fun c => (c, c * channelBricks) }] } := by
  have hnonempty : ((channelsOf s a n).map fun c => (c, c * channelBricks)).isEmpty = false := by
    simpa using hbound
  simp only [startPass, hnonempty, Bool.false_eq_true, if_false]

/-- The accord's generation of class `k` on the stack gone up by one, the old one live for its pass. -/
def nextEpoch (s : State) (a n : Nat) (k : Cls) : State :=
  updEpoch s a n k fun x => { x with gen := x.gen + 1, prevLive := true }

/-- The block as EPOCH_RETIRE leaves it for its pass: class C gives up its store entries, class R regions enter SEALING. -/
def retiredEpoch (s : State) (a n : Nat) : Cls → State
  | .r => ((getMpe s n).rt.filter fun x => x.2.owner == a && x.2.cls == .r).foldl (fun s x => startSealing s n x.1)
      (nextEpoch s a n .r)
  | _ => nextEpoch (invalidateStore s n fun _ x => x.owner == a && x.cls == .c) a n .c

section EpochRetireEff

variable {u : State} {c : Started} {k : Cls} (id : Nat) (hcls : clsOf (fld (wd c.words 8) 5 4) = some k) (hk : k ≠ .s)

include hcls hk

theorem epochRetireEff_of_prevLive (hlive : (epochOf u (sessionOf u c).accord k (fld (wd c.words 8) 2 0)).prevLive = true) :
    epochRetireEff id c u = .reject 0x0A u := by
  cases k with
  | s => exact absurd rfl hk
  | c => simp only [epochRetireEff, hcls, hlive, if_true]
  | r => simp only [epochRetireEff, hcls, hlive, if_true]

variable (hover : (epochOf u (sessionOf u c).accord k (fld (wd c.words 8) 2 0)).prevLive = false)

include hover

theorem epochRetireEff_of_usedUp (hgen : 32767 ≤ (epochOf u (sessionOf u c).accord k (fld (wd c.words 8) 2 0)).gen) :
    epochRetireEff id c u = .reject 0x0B u := by
  cases k with
  | s => exact absurd rfl hk
  | c => simp only [epochRetireEff, hcls, hover, Bool.false_eq_true, if_false, ge_iff_le, if_pos hgen]
  | r => simp only [epochRetireEff, hcls, hover, Bool.false_eq_true, if_false, ge_iff_le, if_pos hgen]

theorem epochRetireEff_of_left {a n : Nat} (ha : a = (sessionOf u c).accord) (hn : n = fld (wd c.words 8) 2 0)
    (hgen : (epochOf u a k n).gen < 32767) :
    epochRetireEff id c u = .wait (.epochRetire a n k) (finishEpochC (finishEpochR
      (setWait (startPass (retiredEpoch u a n k) a n k (epochOf u a k n).gen) id (.epochRetire a n k)))) := by
  subst ha hn
  have hleft := Nat.not_le.2 hgen
  cases k with
  | s => exact absurd rfl hk
  | c =>
    simp only [epochRetireEff, hcls, hover, Bool.false_eq_true, if_false, ge_iff_le, if_neg hleft, reduceCtorEq, if_true,
      retiredEpoch, nextEpoch]
  | r =>
    simp only [epochRetireEff, hcls, hover, Bool.false_eq_true, if_false, ge_iff_le, if_neg hleft, reduceCtorEq, if_true,
      retiredEpoch, nextEpoch, getMpe_updEpoch]

end EpochRetireEff

/-! ## SILLAGE_HARVEST (R202 to R205) -/

theorem exec_sillageHarvest (q : Nat) (s : State) : exec (.sillageHarvest q) s = runCommand 0x1D q sillageHarvestEff s := rfl

/-- The accord whose log SILLAGE_HARVEST takes: the one ROOT names, another world's own. -/
def harvestAccord (u : State) (c : Started) : Nat :=
  if (sessionOf u c).world = .root then fld (wd c.words 8) 25 16 else (sessionOf u c).accord

/-- A buffer that SILLAGE_HARVEST takes: none, or an aligned one of 2^9 to 2^21 entries within the accord's memory (R202). -/
def GoodBuffer (u : State) (a : Nat) (w : BitVec 64) : Prop :=
  w = 0 ∨ fld w 11 5 = 0 ∧ 9 ≤ fld w 4 0 ∧ fld w 4 0 ≤ 21 ∧ bufferInside u a (fld w 63 12 * 4096) (fld w 4 0) = true

/-- The check of the buffer as the command makes it. -/
theorem badBuffer_iff (u : State) (a : Nat) (w : BitVec 64) :
    (!(w == 0) && (fld w 11 5 != 0 || fld w 4 0 < 9 || fld w 4 0 > 21 ||
      !bufferInside u a (fld w 63 12 * 4096) (fld w 4 0))) = true ↔ ¬GoodBuffer u a w := by
  simp only [GoodBuffer, Bool.and_eq_true, Bool.not_eq_true', beq_eq_false_iff_ne, Bool.or_eq_true, bne_iff_ne, ne_eq,
    decide_eq_true_eq, not_or, Classical.not_and_iff_not_or_not, Nat.not_le, Bool.not_eq_true, or_assoc, gt_iff_lt]

/-- The accord's store entries on a stack written back. -/
def writeBackAccord (u : State) (a n : Nat) : State :=
  ((getMpe u n).store.filter fun e => e.2.owner == a).foldl (fun s e => writeBackEntry s n e.1 .bestEffort) u

/-- The buffer that word `w` names registered empty, or none with word 0. -/
def registerBuffer (s : State) (a n : Nat) (w : BitVec 64) : State :=
  updAccord s a fun y => { y with
    sillage := if w = 0 then tdel y.sillage n
      else tset y.sillage n (BitVec.ofNat 52 (fld w 63 12 * 4096), fld w 4 0, 0, false) }

/-- The bricks that an earlier buffer sends the walk over: those it lists, after an overflow every brick bound. -/
def harvestBricks (s : State) (a n : Nat) (ob : BitVec 52) (count : Nat) (spilt : Bool) : State × List Nat :=
  if spilt then (s, boundBricks s a n) else listedBricks s a ob.toNat count

section SillageHarvestEff

variable {u : State} {c : Started} (id : Nat)
  (hstate : (getAccord u (harvestAccord u c)).state ≠ .free)

include hstate

theorem sillageHarvestEff_of_badBuffer (hbad : ¬GoodBuffer u (harvestAccord u c) (wd2 c.words 9)) :
    sillageHarvestEff id c u = .reject 0x04 u := by
  have hcheck := (badBuffer_iff ..).2 hbad
  rw [harvestAccord] at hstate hcheck
  simp only [sillageHarvestEff, if_neg hstate, if_pos hcheck]

variable (hgood : GoodBuffer u (harvestAccord u c) (wd2 c.words 9))

include hgood

theorem sillageHarvestEff_of_walk (hwalk : (getMpe u (fld (wd c.words 8) 2 0)).walk.isSome = true) :
    sillageHarvestEff id c u = .reject 0x05 u := by
  have hcheck := (not_congr (badBuffer_iff ..)).2 (Classical.not_not.2 hgood)
  rw [harvestAccord] at hstate hcheck
  simp only [sillageHarvestEff, if_neg hstate, if_neg hcheck, hwalk, if_true]

variable (hwalk : (getMpe u (fld (wd c.words 8) 2 0)).walk = none)

include hwalk

/-- Past its checks SILLAGE_HARVEST writes the entries back, registers the new buffer, and goes by the earlier one. -/
theorem sillageHarvestEff_of_goodBuffer {a n : Nat} {v w : State} (ha : a = harvestAccord u c)
    (hn : n = fld (wd c.words 8) 2 0) (hv : v = writeBackAccord u a n) (hw : w = registerBuffer v a n (wd2 c.words 9)) :
    (tget (getAccord v a).sillage n = none → sillageHarvestEff id c u = .result 0 w) ∧
    ∀ ob l count spilt x bricks, tget (getAccord v a).sillage n = some (ob, l, count, spilt) →
      (x, bricks) = harvestBricks w a n ob count spilt →
      sillageHarvestEff id c u = if bricks.isEmpty then .result (pack [(count, 0), (b2n spilt, 31)]) x
        else .wait (.harvest n) (updMpe x n fun m =>
          { m with walk := some { accord := a, bricks := bricks, result := pack [(count, 0), (b2n spilt, 31)] } }) := by
  have hcheck := (not_congr (badBuffer_iff ..)).2 (Classical.not_not.2 hgood)
  subst ha hn hv hw
  rw [harvestAccord] at hstate hcheck
  simp only [writeBackAccord, registerBuffer, harvestBricks, harvestAccord]
  refine ⟨fun hold => ?_, fun ob l count spilt x bricks hold hbricks => ?_⟩
  · simp only [sillageHarvestEff, if_neg hstate, if_neg hcheck, hwalk, Option.isSome_none, Bool.false_eq_true, if_false, hold,
      beq_iff_eq]
  · simp only [sillageHarvestEff, if_neg hstate, if_neg hcheck, hwalk, Option.isSome_none, Bool.false_eq_true, if_false, hold,
      beq_iff_eq, ← hbricks]

end SillageHarvestEff

/-- Settles O18: EPOCH_RETIRE by the accord's epoch on the stack, what a generation and a pass begun are, and SILLAGE_HARVEST by its
new buffer and its earlier one. -/
theorem epochAndHarvest : Obligations.EpochAndHarvest := by
  refine ⟨fun s u q a n c k hbegin ha hn hcls hk => ?retire, fun s a n old k f => ⟨fun hk => ?epoch, fun hbound => ?pass⟩,
    fun s u v q a n log2 base c good hbegin ha hn hlog2 hbase hstate hgood hv => ?harvest⟩
  case retire =>
    rw [exec_epochRetire]
    refine ⟨fun hlive => ?_, fun hover hgen => ?_, fun hover hgen => ⟨retiredEpoch u a n k, ?_, ?_, ?_⟩⟩
    · subst ha hn
      exact runCommand_done hbegin _ (epochRetireEff_of_prevLive s.nextId hcls hk hlive)
    · subst ha hn
      exact runCommand_done hbegin _ (epochRetireEff_of_usedUp s.nextId hcls hk hover hgen)
    · rintro rfl
      rfl
    · rintro rfl
      rfl
    · have hover' : (epochOf u (sessionOf u c).accord k (fld (wd c.words 8) 2 0)).prevLive = false := by rw [← ha, ← hn, hover]
      exact runCommand_wait hbegin _ (epochRetireEff_of_left s.nextId hcls hk hover' ha hn hgen)
  case epoch => exact ⟨epochOf_updEpoch_self hk s a n f, updEpoch_frame s a n k f⟩
  case pass =>
    rw [startPass_of_bound k old hbound, getMpe_updMpe_self]
    exact ⟨rfl, rfl⟩
  case harvest =>
    subst hlog2 hbase
    have hgood' : good ↔ GoodBuffer u a (wd2 c.words 9) := iff_of_eq hgood
    have hstate' : (getAccord u (harvestAccord u c)).state ≠ .free := by rwa [harvestAccord, ← ha]
    rw [exec_sillageHarvest]
    rw [show a = harvestAccord u c from ha] at hgood'
    refine ⟨fun hbad => ?_, fun hok hwalk => ?_, fun w hok hwalk hw => ?_⟩
    · exact runCommand_done hbegin _ (sillageHarvestEff_of_badBuffer s.nextId hstate' (mt hgood'.2 hbad))
    · rw [hn] at hwalk
      exact runCommand_done hbegin _ (sillageHarvestEff_of_walk s.nextId hstate' (hgood'.1 hok) hwalk)
    · have hwalk' : (getMpe u (fld (wd c.words 8) 2 0)).walk = none := by rw [← hn, hwalk]
      obtain ⟨hnone, hsome⟩ :=
        sillageHarvestEff_of_goodBuffer s.nextId hstate' (hgood'.1 hok) hwalk' ha hn hv hw
      refine ⟨fun hold => runCommand_done hbegin _ (hnone hold), fun ob l count spilt x bricks hold hbricks => ?_⟩
      have heff := hsome ob l count spilt x bricks hold hbricks
      refine ⟨fun hempty => ?_, fun hnonempty => ?_⟩
      · rw [hempty, List.isEmpty_nil, if_pos rfl] at heff
        exact runCommand_done hbegin _ heff
      · rw [List.isEmpty_eq_false_iff.2 hnonempty, if_neg Bool.false_ne_true] at heff
        exact runCommand_wait hbegin _ heff

end Sys2Proof.Machine

namespace Sys2Proof.Machine

/-! ## FOLD (R229 to R234) -/

/-- A FOLD that can run now is run whole in its step (log entry 58). -/
theorem exec_fold_of_ready {s t : State} {q : Nat} (hready : foldReady s q = (t, true)) :
    exec (.fold q) s = runCommand 0x1E q foldEff t := by
  change execFold q s = _
  rw [execFold, hready]

theorem foldEff_of_check {u : State} {c : Started} {j : FoldJob} {dst id : Nat} (hcheck : foldCheck u id c = .ok (j, dst)) :
    foldEff id c u = foldEnd j (foldFlush j true ((List.range j.count).foldl (foldStep j) { s := u, pos := dst })) := by
  rw [foldEff, hcheck]

/-- The block as a FOLD leaves it: under ZERO_SOURCE the cell flags of the source region are cleared (R230). -/
def foldLeaves (j : FoldJob) (r : FoldRun) : State :=
  if j.zero then updEntry r.s j.stack j.rt fun e => { e with overflow := false, invalid := false, loss := 0 } else r.s

section FoldEnd

variable {j : FoldJob} {r : FoldRun}

theorem foldEnd_of_stopped (hstopped : r.stopped = true) : foldEnd j r = .reject 0x08 (foldLeaves j r) := by
  simp only [foldEnd, hstopped, if_true, foldLeaves]

variable (hwritten : r.stopped = false)

include hwritten

theorem foldEnd_of_failed (hfailed : r.failed = true) : foldEnd j r = .reject 0x07 (foldLeaves j r) := by
  simp only [foldEnd, hwritten, hfailed, Bool.false_eq_true, if_false, if_true, foldLeaves]

theorem foldEnd_of_complete (hread : r.failed = false) {e : Option RtEntry} (he : e = tget (getMpe r.s j.stack).rt j.rt) :
    foldEnd j r = .done .ok
      (pack [(b2n (e.any (·.overflow)), 31), (b2n (e.any (·.invalid)), 30), (Nat.min r.infs (2 ^ 24 - 1), 0)])
      (BitVec.ofNat 32 (Nat.min r.changed (2 ^ 32 - 1))) (foldLeaves j r) := by
  simp only [foldEnd, hwritten, hread, Bool.false_eq_true, if_false, foldLeaves, he, satAdd, Nat.add_zero]

end FoldEnd

/-- What the accumulators of a list give: their outputs in order after `acc`, and the counts of those changed and infinite. -/
theorem foldl_outputs {α : Type} (out : α → Nat × Bool × Bool) (size : Nat) (l : List α) (acc : Bytes × Nat × Nat) :
    l.foldl (fun x k => (x.1 ++ toLE (out k).1 size, x.2.1 + b2n (out k).2.1, x.2.2 + b2n (out k).2.2)) acc =
      (acc.1 ++ l.flatMap fun k => toLE (out k).1 size, acc.2.1 + (l.filter fun k => (out k).2.1).length,
        acc.2.2 + (l.filter fun k => (out k).2.2).length) := by
  induction l generalizing acc with
  | nil => simp
  | cons k r ih =>
    rw [List.foldl_cons, ih]
    cases hchanged : (out k).2.1 <;> cases hinf : (out k).2.2 <;> simp [b2n, hchanged, hinf, Nat.add_assoc, Nat.add_comm 1]

/-- The outputs of a source stretcher: its cells in ascending order, each rounded (R233). -/
theorem foldOutputs_eq (j : FoldJob) (d : Bytes) {w : Nat} {out : Nat → Nat × Bool × Bool} (hw : w = if j.x512 then 64 else 8)
    (hout : ∀ k, out k = foldOut j.fmt w (if j.x512 then -160 else j.f) (leField d (w * k) w)) :
    foldOutputs j d =
      ((List.range (256 / w)).flatMap fun k => toLE (out k).1 j.size,
        ((List.range (256 / w)).filter fun k => (out k).2.1).length,
        ((List.range (256 / w)).filter fun k => (out k).2.2).length) := by
  have hfold := foldl_outputs out j.size (List.range (256 / w)) ([], 0, 0)
  simp only [List.nil_append, Nat.zero_add, hout] at hfold ⊢
  rw [foldOutputs, ← hw]
  exact hfold

/-- Settles O19: a FOLD that is ready runs over its sources and ends as `foldEnd` says; its outputs are counted cell by cell. That it
runs whole in one step is log entry 58. -/
theorem foldCompletes : Obligations.FoldCompletes := by
  refine ⟨fun s s1 u v q dst c j r e hready hbegin hcheck hr he hv => ?run, fun j d w out hw hout => ?outputs⟩
  case run =>
    have heff : foldEff s1.nextId c u = foldEnd j r := by rw [foldEff_of_check hcheck, hr]
    rw [exec_fold_of_ready hready, show v = foldLeaves j r from hv]
    refine ⟨fun hwritten hread => ?_, fun hwritten hfailed => ?_, fun hstopped => ?_⟩
    · exact runCommand_done hbegin _ (heff.trans (foldEnd_of_complete hwritten hread he))
    · exact runCommand_done hbegin _ (heff.trans (foldEnd_of_failed hwritten hfailed))
    · exact runCommand_done hbegin _ (heff.trans (foldEnd_of_stopped hstopped))
  case outputs =>
    rw [foldOutputs_eq j d hw hout]
    exact ⟨rfl, rfl⟩

end Sys2Proof.Machine

namespace Sys2Proof.Machine

/-! ## The epoch pass (R197) -/

theorem exec_epochPassStep {s : State} {m chan : Nat} (hlive : live s = true) :
    exec (.epochPassStep m chan) s = .next (settle (epochPassStep s m chan)) :=
  if_pos hlive

/-- A pass `p` stands at `next`; a pass with no channel left is not kept. -/
def movePass (s : State) (m : Nat) (p : EpochPass) (next : Tab Nat) : State :=
  updMpe s m fun x =>
    { x with passes := (x.passes.map fun y => if y = p then { p with next := next } else y).filter fun y => !y.next.isEmpty }

/-- A pass with no channel left is over: the old epoch is no longer live and its owner is told. -/
def passOver (s : State) (m : Nat) (p : EpochPass) (next : Tab Nat) : State :=
  if next = [] then ownerEvent (updEpoch s p.accord m p.cls fun e => { e with prevLive := false }) p.accord 1 else s

section EpochPassStep

variable {s : State} {m chan b : Nat} {p : EpochPass}

/-- Where a pass stands once brick `b` of channel `chan` is done. -/
def passNextBricks (p : EpochPass) (chan b : Nat) : Tab Nat :=
  if b + 1 < (chan + 1) * channelBricks then tset p.next chan (b + 1) else tdel p.next chan

theorem epochPassStep_of_pass (hpass : (getMpe s m).passes.find? (fun p => (tget p.next chan).isSome) = some p)
    (hb : tget p.next chan = some b) (hreads : ((getMpe s m).reads.any fun r => r.2.req.brick == b) = false) :
    epochPassStep s m chan = passOver (movePass (passBrick s m b p) m p (passNextBricks p chan b)) m p (passNextBricks p chan b) := by
  have hbrick : tgetD p.next chan 0 = b := by rw [tgetD, hb, Option.getD_some]
  simp only [epochPassStep, hpass, hbrick, hreads, Bool.false_eq_true, if_false, List.isEmpty_iff]
  rfl

end EpochPassStep

/-- A brick whose record is of the accord, class and epoch retired is zeroed and its record cleared of data. -/
theorem passBrick_of_retired {s u : State} {m b : Nat} {p : EpochPass} {r : Rec} (hu : u = ensureCourse s m b)
    (hr : r = heldRec (getMpe u m) b) (howner : r.owner = p.accord) (hcls : r.cls = p.cls) (hepoch : r.epoch = p.epoch) :
    passBrick s m b p = putRec (hbmWrite u m (dataAddr b 0) (zeros 4096)) m b { r with init := false, minor := [] } := by
  have hretired : (r.owner == p.accord && r.cls == p.cls && r.epoch == p.epoch) = true := by
    simp [howner, hcls, hepoch]
  rw [passBrick, ← hu, ← hr, if_pos hretired, zeroBrick]

/-- A brick whose record is of another accord is left alone. -/
theorem passBrick_of_other {s u : State} {m b : Nat} {p : EpochPass} {r : Rec} (hu : u = ensureCourse s m b)
    (hr : r = heldRec (getMpe u m) b) (howner : r.owner ≠ p.accord) : passBrick s m b p = u := by
  have hother : (r.owner == p.accord) = false := beq_eq_false_iff_ne.2 howner
  rw [passBrick, ← hu, ← hr, hother]
  simp only [Bool.false_and, Bool.and_false, Bool.false_eq_true, if_false]

/-! ## The harvest walk (R205) -/

theorem exec_harvestWalkStep {s : State} {m : Nat} (hlive : live s = true) :
    exec (.harvestWalkStep m) s = .next (settleAll (harvestWalkStep s m)) :=
  if_pos hlive

section HarvestWalkStep

variable {s : State} {m b : Nat} {w : Walk} (hwalk : (getMpe s m).walk = some w)

include hwalk

theorem harvestWalkStep_of_more {d : Nat} {rest : List Nat} (hbricks : w.bricks = b :: d :: rest) :
    harvestWalkStep s m =
      updMpe (walkBrick s m b) m fun x => { x with walk := some { w with bricks := d :: rest } } := by
  simp only [harvestWalkStep, hwalk, hbricks, List.isEmpty_cons, Bool.false_eq_true, if_false]

theorem harvestWalkStep_of_last (hbricks : w.bricks = [b]) {v : State}
    (hv : v = updMpe (walkBrick s m b) m fun x => { x with walk := none }) :
    harvestWalkStep s m =
      (v.started.filter fun e => e.2.wait == .harvest m).foldl (fun s e => finish s e.1 .ok 0 w.result) v := by
  simp only [harvestWalkStep, hwalk, hbricks, List.isEmpty_nil, if_true, List.foldl_map, ← hv]

end HarvestWalkStep

/-! ## The scrub of a channel (Table 2.6) -/

theorem exec_scrubStep {s : State} {chan : Nat} (hlive : live s = true) :
    exec (.scrubStep chan) s = .next (settle (scrubStep s chan)) :=
  if_pos hlive

theorem scrubStep_of_scrub {s u v : State} {chan k b : Nat} (hscrub : (getRes s .channel chan).scrub = some k)
    (hb : b = chan % 32 * channelBricks + k) (hu : u = ensureCourse s (chan / 32) b)
    (hv : v = if (heldRec (getMpe u (chan / 32)) b).init then u else hbmWrite u (chan / 32) (dataAddr b 0) (zeros 4096)) :
    scrubStep s chan =
      updRes v .channel chan fun r => { r with scrub := if k + 1 < channelBricks then some (k + 1) else none } := by
  simp only [scrubStep, hscrub, ← hb, ← hu, hv, zeroBrick]

/-! ## The end of a rewrite (R196, R198) -/

theorem exec_sealRewriteComplete {s : State} {m rt : Nat} {e : RtEntry} (hlive : live s = true)
    (he : tget (getMpe s m).rt rt = some e) (hbusy : e.busy = true) (hcls : e.cls = .r) (hbound : regionBound s m e = true) :
    exec (.sealRewriteComplete m rt) s = .next (settleAll (endRewrite s m rt)) := by
  change execSealRewriteComplete m rt s = _
  simp only [execSealRewriteComplete, he]
  exact if_pos ⟨hlive, hbusy, hcls, hbound⟩

theorem endRewrite_of_entry {s : State} {m rt : Nat} {e : RtEntry} (he : tget (getMpe s m).rt rt = some e) :
    endRewrite s m rt = advanceAccords (finishEpochR
      ((rewriteWaiters s m rt).foldl (fun s e => finish s e.1 .ok 0 (rewriteResult s m rt e.2))
        (updEntry ((regionBricks e).foldl (fun s b => sealRecord s m b e) s) m rt fun e => { e with busy := false }))) := by
  simp only [endRewrite, rewriteRecords, he]

/-- Settles O20: each engine's step by what stands in front of it, and what a pass does to a brick. -/
theorem engineSteps : Obligations.EngineSteps := by
  refine ⟨fun s m chan hlive => ⟨fun p b v hpass hb hreads next hv => ?pass, fun w b d rest hwalk hbricks => ?walk,
    fun w b v hwalk hbricks hv => ?walkEnd, fun k b u v hscrub hb hu hv => ?scrub, fun rt e he hbusy hcls hbound => ?rewrite⟩,
    fun s u m b p r hu hr => ⟨fun howner hcls hepoch => passBrick_of_retired hu hr howner hcls hepoch,
      fun howner => passBrick_of_other hu hr howner⟩⟩
  case pass =>
    have hstep := epochPassStep_of_pass hpass hb hreads
    rw [exec_epochPassStep hlive, hstep, hv]
    refine ⟨fun hmore hnext => ?_, fun hlast hnext => ?_⟩
    · rw [passNextBricks, if_pos hmore, hnext]
      have hleft : tset p.next chan (b + 1) ≠ [] := by
        intro hnone
        have hentry := tget_tset_self p.next chan (b + 1)
        rw [hnone] at hentry
        cases hentry
      rw [passOver, if_neg hleft]
      rfl
    · rw [passNextBricks, if_neg (Nat.not_lt.2 hlast), hnext]
      rfl
  case walk =>
    rw [exec_harvestWalkStep hlive, harvestWalkStep_of_more hwalk hbricks]
    rfl
  case walkEnd => rw [exec_harvestWalkStep hlive, harvestWalkStep_of_last hwalk hbricks hv]
  case scrub => rw [exec_scrubStep hlive, scrubStep_of_scrub hscrub hb hu hv]
  case rewrite => rw [exec_sealRewriteComplete hlive he hbusy hcls hbound, endRewrite_of_entry he]

end Sys2Proof.Machine

namespace Sys2Proof.Machine

/-! ## PINNED_WRITEBACK (R193) -/

theorem exec_pinnedWriteback {s : State} {m level index : Nat} (hlive : live s = true) :
    exec (.pinnedWriteback m level index) s = .next (settle (pinnedWriteback s m level index)) :=
  if_pos hlive

theorem pinnedWriteback_of_queued {s v : State} {m level index : Nat}
    (hqueued : (getMpe s m).wbQueue.contains (level, index) = true)
    (hv : v = updMpe s m fun x => { x with wbQueue := x.wbQueue.filter (· != (level, index)) }) :
    pinnedWriteback s m level index =
      if (heldLine (getMpe s m) level index).any (·.dirty) then writeBackLine v m level index else v := by
  have hline : heldLine (getMpe v m) level index = heldLine (getMpe s m) level index := by
    rw [hv, getMpe_updMpe_self]
    rfl
  simp only [pinnedWriteback, hqueued, Bool.not_true, Bool.false_eq_true, if_false, ← hv, hline]

theorem pinnedWriteback_of_not_queued {s : State} {m level index : Nat}
    (hqueued : (getMpe s m).wbQueue.contains (level, index) = false) : pinnedWriteback s m level index = s := by
  simp only [pinnedWriteback, hqueued, Bool.not_false, if_true]

/-! ## BANDWIDTH_WINDOW_END (R67, R68) -/

theorem exec_bandwidthWindowEnd {s : State} {m : Nat} (hlive : live s = true) :
    exec (.bandwidthWindowEnd m) s = .next (settle (windowEnd s m)) :=
  if_pos hlive

/-- The accords short of their reservation on stack `n`. -/
def shortAccords (s : State) (n : Nat) : List Nat := (s.accords.map (·.1)).filter (shortOf s n)

/-- An accord that was told of a shortfall (R68, R435). -/
def toldShort (x : Accord) : Accord := { x with shortfall := true, ownerEvents := x.ownerEvents ||| 1 }

/-- Being told twice is being told once. -/
theorem toldShort_toldShort (x : Accord) : toldShort (toldShort x) = toldShort x := by
  simp only [toldShort, BitVec.or_assoc, BitVec.or_self]

/-- What a shortfall report does: the accord is told, and the event with stack and fraction is there. -/
theorem reportShort_eq (s : State) (n a : Nat) :
    reportShort s n a =
      { updAccord s a toldShort with shortfalls := s.shortfalls ++ [(a, n, deliveredPart (updAccord s a toldShort) n a)] } := by
  have htold : ownerEvent (updAccord s a fun x => { x with shortfall := true }) a 0 = updAccord s a toldShort := by
    rw [ownerEvent, updAccord_updAccord]
    rfl
  simp only [reportShort, htold]
  rfl

/-- Being told of a shortfall changes no reservation, and nothing of the engines. -/
theorem deliveredPart_toldShort (s : State) (n a b : Nat) :
    deliveredPart (updAccord s a toldShort) n b = deliveredPart s n b := by
  have hresv : (getAccord (updAccord s a toldShort) b).resv = (getAccord s b).resv := by
    by_cases hab : b = a
    · rw [hab, getAccord_updAccord_self]
      rfl
    · rw [getAccord_updAccord_ne _ _ _ _ hab]
  rw [deliveredPart, hresv]
  rfl

theorem shortfalls_reportShort (s : State) (n a : Nat) :
    (reportShort s n a).shortfalls = s.shortfalls ++ [(a, n, deliveredPart s n a)] := by
  rw [reportShort_eq, deliveredPart_toldShort]

theorem deliveredPart_reportShort (s : State) (n a b : Nat) : deliveredPart (reportShort s n a) n b = deliveredPart s n b := by
  rw [reportShort_eq]
  exact deliveredPart_toldShort s n a b

theorem getAccord_reportShort (s : State) (n a b : Nat) :
    getAccord (reportShort s n a) b = if b = a then toldShort (getAccord s b) else getAccord s b := by
  rw [reportShort_eq]
  change getAccord (updAccord s a toldShort) b = _
  split
  next hab => rw [hab, getAccord_updAccord_self]
  next hab => exact getAccord_updAccord_ne _ _ _ _ hab

/-- Every accord of the list is told, the others are left alone. -/
theorem getAccord_reportShorts (l : List Nat) (s : State) (n b : Nat) :
    getAccord (l.foldl (fun s a => reportShort s n a) s) b = if b ∈ l then toldShort (getAccord s b) else getAccord s b := by
  induction l generalizing s with
  | nil => rfl
  | cons a r ih =>
    rw [List.foldl_cons, ih, getAccord_reportShort]
    by_cases hab : b = a <;> by_cases hr : b ∈ r <;> simp [hab, hr, toldShort_toldShort, List.mem_cons]

theorem shortfalls_reportShorts (l : List Nat) (s : State) (n : Nat) :
    (l.foldl (fun s a => reportShort s n a) s).shortfalls = s.shortfalls ++ l.map fun a => (a, n, deliveredPart s n a) := by
  induction l generalizing s with
  | nil => simp
  | cons a r ih =>
    rw [List.foldl_cons, ih, shortfalls_reportShort]
    simp [deliveredPart_reportShort]

/-- The block without its accords and without the shortfalls told. -/
def outsideShortfalls (s : State) : State := { s with accords := [], shortfalls := [] }

theorem outsideShortfalls_reportShorts (l : List Nat) (s : State) (n : Nat) :
    outsideShortfalls (l.foldl (fun s a => reportShort s n a) s) = outsideShortfalls s :=
  foldl_keeps (fun t a => by rw [reportShort_eq]; rfl) l s

theorem windowEnd_of_none {s : State} {m : Nat} (hnone : shortAccords s m = []) :
    windowEnd s m = updMpe s m fun x => { x with delivered := [], waited := [], scale := 256, beShare := 256 } := by
  rw [shortAccords] at hnone
  simp only [windowEnd, hnone, List.foldl_nil, List.isEmpty_nil, if_true]

/-- The next window of an engine while accords are short: BEST_EFFORT is cut first, then the rates, by `k`. -/
def cutWindow (k : Nat) (x : Mpe) : Mpe :=
  { x with
    delivered := [], waited := [], beShare := if x.beShare = 0 then 0 else k % x.beShare
    scale := if x.beShare = 0 then k % 257 else 256 }

theorem windowEnd_of_short {s : State} {m : Nat} (hshort : shortAccords s m ≠ []) :
    ∃ k, windowEnd s m =
      updMpe (drawNat ((shortAccords s m).foldl (fun s a => reportShort s m a) s)).1 m (cutWindow k) := by
  have hnonempty : (shortAccords s m).isEmpty = false := List.isEmpty_eq_false_iff.2 hshort
  refine ⟨(drawNat ((shortAccords s m).foldl (fun s a => reportShort s m a) s)).2, ?_⟩
  rw [shortAccords] at hnonempty ⊢
  simp only [windowEnd, hnonempty, Bool.false_eq_true, if_false]
  rfl

/-- Settles O21: a queued pinned line, and a window that ends with and without accords short of their reservation. -/
theorem windowAndPinnedSteps : Obligations.WindowAndPinnedSteps := by
  intro s m level index hlive
  refine ⟨fun v hqueued hv => ?queued, fun hqueued => ?unqueued, fun hnone => ?none, fun short hdef hshort => ?short⟩
  case queued => rw [exec_pinnedWriteback hlive, pinnedWriteback_of_queued hqueued hv]
  case unqueued => rw [exec_pinnedWriteback hlive, pinnedWriteback_of_not_queued hqueued]
  case none => rw [exec_bandwidthWindowEnd hlive, windowEnd_of_none hnone]
  case short =>
    obtain rfl : short = shortAccords s m := hdef
    obtain ⟨k, hend⟩ := windowEnd_of_short hshort
    have houtside := outsideShortfalls_reportShorts (shortAccords s m) s m
    have hmpe : getMpe ((shortAccords s m).foldl (fun s a => reportShort s m a) s) m = getMpe s m := by
      have hengines := congrArg (getMpe · m) houtside
      exact hengines
    have haccord (a : Nat) : getAccord (windowEnd s m) a =
        if a ∈ shortAccords s m then toldShort (getAccord s a) else getAccord s a := by
      rw [hend, ← getAccord_reportShorts]
      rfl
    have hengine : getMpe (windowEnd s m) m = cutWindow k (getMpe s m) := by
      rw [hend, getMpe_updMpe_self, ← hmpe]
      rfl
    refine ⟨windowEnd s m, exec_bandwidthWindowEnd hlive, fun a ha => ?_, fun a ha => ?_, ?_, ?_, ?_, fun hshare => ?_,
      fun hshare => ?_, ?_⟩
    · rw [haccord, if_pos ha]
      exact ⟨rfl, rfl⟩
    · rw [haccord, if_neg ha]
    · rw [hend, ← shortfalls_reportShorts]
      rfl
    · rw [hengine, cutWindow]
    · rw [hengine, cutWindow]
    · rw [hengine, cutWindow]
      exact ⟨by simpa [hshare] using Nat.mod_lt k (Nat.pos_of_ne_zero hshare), if_neg hshare⟩
    · rw [hengine, cutWindow]
      exact ⟨if_pos hshare, by simpa [hshare] using Nat.le_of_lt_succ (Nat.mod_lt k (show 0 < 257 by decide))⟩
    · rw [hend]
      exact congrArg (fun u : State => { u with accords := s.accords, mpes := s.mpes, draws := s.draws, shortfalls := s.shortfalls })
        houtside

end Sys2Proof.Machine

namespace Sys2Proof.Machine

/-! ## A compute request at its stamp unit (R22, R42, R52) -/

theorem updCore_updCore (s : State) (cg : Nat) (f g : Core → Core) :
    updCore (updCore s cg f) cg g = updCore s cg fun x => g (f x) := by
  simp only [updCore, getCore, tgetD_tset_self, tset_tset]

/-- A block that runs has its rail up. -/
theorem rail_of_running {s : State} (hrunning : running s = true) : s.pwr.current = 0 ∧ s.pwr.entering.isNone = true := by
  simp only [running, Bool.and_eq_true, beq_iff_eq] at hrunning
  exact ⟨hrunning.1.1.2, hrunning.1.2⟩

/-- A block that is awake, with no entry to abandon, takes no wake. -/
theorem takeWake_of_running {s : State} (hrunning : running s = true) (hentry : s.pwr.entry = none) (n : Nat) :
    takeWake s n = s := by
  obtain ⟨hcurrent, hentering⟩ := rail_of_running hrunning
  simp only [takeWake, hentry, hcurrent, hentering, Option.isSome_none, Bool.false_eq_true, if_false, and_self, or_true, if_true]

/-- Once nothing of a core group's doorbells waits, an answer joins the responses and frees its tag, and nothing else changes. -/
theorem respond_of_no_doorbells {s : State} {cg : Nat} (hdoorbells : (getCore s cg).doorbells = []) (tag : BitVec 16) (ok : Bool)
    (d : Bytes) :
    respond s cg tag ok d =
      updCore { s with responses := s.responses ++ [(cg, tag, if ok then 0 else 1, d)] } cg fun c =>
        { c with stores := c.stores.erase tag } := by
  have hcore : getCore { s with responses := s.responses ++ [(cg, tag, if ok then 0 else 1, d)] } cg = getCore s cg := rfl
  simp only [respond, releaseDoorbells, updCore_updCore, getCore_updCore_self, hcore, hdoorbells, List.map_nil,
    List.takeWhile_nil, List.foldl_nil]
  simp only [updCore, hcore, hdoorbells, List.map_nil, List.dropWhile_nil]

/-- The state of a fault raised outside dry-down. -/
theorem raise_of_not_dry {s : State} (hdry : inDry s = false) (f : Raised) :
    raise s f = { s with frs := { s.frs with raised := s.frs.raised ++ [f] } } := by
  simp only [raise, hdry, Bool.false_eq_true, if_false]

/-- Two answers that differ in their data alone are refusals alike. -/
theorem stampRefused_respond {s u : State} {cg : Nat} {r : ComputeReq} {code : BitVec 8} {f : Raised} {k : Nat} {d : Bytes}
    (hdoorbells : (getCore s cg).doorbells = []) (hcode : f.code = code) (hcg : f.cg = some cg)
    (hu : u = { s with frs := { s.frs with raised := s.frs.raised ++ [f] }, draws := k })
    (hline : memOpOf r.op = .readLine → d = zeros 64) (hstretcher : memOpOf r.op = .readStretcher → d = zeros 256) :
    StampRefused s cg r code (respond u cg r.tag false d) := by
  subst hu
  rw [respond_of_no_doorbells (s := { s with frs := { s.frs with raised := s.frs.raised ++ [f] }, draws := k }) hdoorbells]
  exact ⟨⟨d, rfl, hline, hstretcher⟩, ⟨f, rfl, hcode, hcg⟩, rfl⟩

/-- What a stamp unit refuses outside dry-down, with no doorbell of the core group waiting. -/
theorem stampRefused_stampRefuse {s : State} {cg : Nat} (r : ComputeReq) (e : Word) (code fence : BitVec 8) (rung : Option Nat)
    (hdry : inDry s = false) (hdoorbells : (getCore s cg).doorbells = []) :
    StampRefused s cg r code (stampRefuse s cg r e code fence rung) := by
  unfold stampRefuse
  dsimp only
  rw [raise_of_not_dry hdry]
  split
  next hatomic =>
    refine stampRefused_respond hdoorbells rfl rfl rfl ?_ ?_
    all_goals
      intro hread
      rw [hatomic.1] at hread
      cases hread
  next =>
    refine stampRefused_respond hdoorbells rfl rfl rfl ?_ ?_
    all_goals
      intro hread
      rw [hread]

/-- A refusal is one whatever the core groups held before. -/
theorem StampRefused.of_updCore {s v : State} {cg : Nat} {r : ComputeReq} {code : BitVec 8} {f : Core → Core}
    (h : StampRefused (updCore s cg f) cg r code v) : StampRefused s cg r code v := by
  obtain ⟨hresponse, hfault, hframe⟩ := h
  exact ⟨hresponse, hfault, congrArg (fun u : State => { u with cores := s.cores }) hframe⟩

/-- The block with nothing that a watch holds at core group `cg`. -/
def unwatched (s : State) (cg : Nat) : State := updCore s cg fun c => { c with watchHeld := [] }

/-- Nothing that a watch held is sent on. -/
theorem releaseHold_of_none {s : State} {cg : Nat} (hheld : (getCore s cg).watchHeld = []) :
    releaseHold s cg = unwatched s cg := by
  rw [releaseHold, hheld, List.foldl_nil, unwatched]

section Stamp

variable {s : State} {cg : Nat} (r : ComputeReq) (hrunning : running s = true) (hdry : inDry s = false)
  (hentry : s.pwr.entry = none) (hst : stOk s (cg / 16) = true)

include hrunning hentry hst

/-- A request at a stamp unit in service of a block that is awake is stamped at once. -/
theorem stampOrHold_of_awake : stampOrHold s cg r = stamp s cg r := by
  simp only [stampOrHold, hst, Bool.not_true, Bool.false_eq_true, and_false, if_false, hrunning, if_true,
    takeWake_of_running hrunning hentry]

include hdry

/-- From an entry that is VALID, with nothing held, the request is sorted by its address. -/
theorem stampOrHold_of_valid (hholding : s.dbg.holding = none) (hvalid : bit (getCore s cg).entry 31 = true)
    (hheld : (getCore s cg).watchHeld = []) :
    stampOrHold s cg r = stampForward (unwatched s cg) cg r (getCore s cg).entry := by
  rw [stampOrHold_of_awake r hrunning hentry hst]
  simp only [stamp, hdry, hvalid, hholding, releaseHold_of_none hheld, Bool.not_true, Bool.false_eq_true, or_self, if_false,
    reduceCtorEq]

/-- From an entry that is not VALID it is refused. -/
theorem stampOrHold_of_not_valid (hvalid : bit (getCore s cg).entry 31 = false) :
    stampOrHold s cg r = stampRefuse s cg r (getCore s cg).entry 0x02 0x07 none := by
  rw [stampOrHold_of_awake r hrunning hentry hst]
  simp only [stamp, hdry, hvalid, Bool.not_false, or_true, if_true]

end Stamp

/-! ## Sorting by address (R42) -/

section Forward

variable (s : State) {cg : Nat} {r : ComputeReq} (e : Word)

theorem stampForward_of_memory (hmark : (getCore s cg).localMark = false) (hmemory : r.addr.toNat < 0x8000000000)
    (haligned : r.addr.toNat % opSize (memOpOf r.op) = 0) (hmpe : mpeOk s (fld r.addr 38 36) = true) :
    stampForward s cg r e = reachMpe (noteStore s cg r) (fld r.addr 38 36)
      { stamped cg r e with stack := fld r.addr 38 36, brick := fld r.addr 35 12, off := fld r.addr 11 0 } := by
  simp only [stampForward, if_pos hmemory, hmark, haligned, hmpe, Bool.not_true, Bool.false_eq_true, if_false, ne_eq, not_true]

theorem stampForward_of_domain (hmin : 2 ^ 57 ≤ r.addr.toNat) (hmax : r.addr.toNat < 2 ^ 58)
    (haligned : r.addr.toNat % opSize (memOpOf r.op) = 0) (hlpe : lpeOk s (fld e 18 16) = true) :
    stampForward s cg r e = updOtu (noteStore s cg r) (fld e 18 16) fun t =>
      { t with ingress := t.ingress ++ [{ stamped cg r e with dva := r.addr.setWidth 57, arrival := r.arrival }] } := by
  have hmemory : ¬r.addr.toNat < 0x8000000000 := by omega
  have hpage : ¬r.addr.toNat < 0x8000002000 := by omega
  simp only [stampForward, if_neg hmemory, if_neg hpage, if_pos (And.intro hmin hmax), haligned, hlpe, Bool.not_true,
    Bool.false_eq_true, if_false, ne_eq, not_true]

/-- An address in no window, or one not aligned to its operation (R29). -/
def BadAddress (r : ComputeReq) : Prop :=
  (r.addr.toNat < 0x8000000000 ∨ 2 ^ 57 ≤ r.addr.toNat ∧ r.addr.toNat < 2 ^ 58) ∧ r.addr.toNat % opSize (memOpOf r.op) ≠ 0 ∨
    (0x8000002000 ≤ r.addr.toNat ∧ r.addr.toNat < 2 ^ 57) ∨ 2 ^ 58 ≤ r.addr.toNat

theorem stampForward_of_badAddress (hmark : (getCore s cg).localMark = false) (hbad : BadAddress r) :
    stampForward s cg r e = stampRefuse s cg r e 0x10 0x0B (some 2) := by
  obtain ⟨hmemory | ⟨hmin, hmax⟩, hunaligned⟩ | hnoWindow := hbad
  · simp only [stampForward, if_pos hmemory, hmark, Bool.false_eq_true, if_false, if_pos hunaligned]
  · have hmemory : ¬r.addr.toNat < 0x8000000000 := by omega
    have hpage : ¬r.addr.toNat < 0x8000002000 := by omega
    simp only [stampForward, if_neg hmemory, if_neg hpage, if_pos (And.intro hmin hmax), if_pos hunaligned]
  · have hmemory : ¬r.addr.toNat < 0x8000000000 := by omega
    have hpage : ¬r.addr.toNat < 0x8000002000 := by omega
    have hdomain : ¬(2 ^ 57 ≤ r.addr.toNat ∧ r.addr.toNat < 2 ^ 58) := by omega
    simp only [stampForward, if_neg hmemory, if_neg hpage, if_neg hdomain]

end Forward

/-- Remembering a store changes the core groups alone. -/
theorem noteStore_frame (s : State) (cg : Nat) (r : ComputeReq) : { noteStore s cg r with cores := s.cores } = s := by
  unfold noteStore
  split <;> rfl

theorem getMpe_noteStore (s : State) (cg : Nat) (r : ComputeReq) (n : Nat) : getMpe (noteStore s cg r) n = getMpe s n := by
  unfold noteStore
  split <;> rfl

theorem getOtu_noteStore (s : State) (cg : Nat) (r : ComputeReq) (o : Nat) : getOtu (noteStore s cg r) o = getOtu s o := by
  unfold noteStore
  split <;> rfl

/-! ## The ingress of an MPE (R54, R227) -/

section ReachMpe

variable (s : State) (n : Nat) (q : Req)

/-- A request that reaches an MPE changes that engine, and an open value may be drawn for its lane cycle. -/
theorem reachMpe_frame : { reachMpe s n q with mpes := s.mpes, draws := s.draws } = s := by
  unfold reachMpe
  split
  · rfl
  · split <;> rfl

theorem getMpe_reachMpe_ne {k : Nat} (hk : k ≠ n) : getMpe (reachMpe s n q) k = getMpe s k := by
  unfold reachMpe
  split
  · exact getMpe_updMpe_ne _ _ _ _ hk
  · split
    · exact getMpe_updMpe_ne _ _ _ _ hk
    · exact getMpe_updMpe_ne _ _ _ _ hk

variable {s n q} {m : Mpe} (hm : getMpe s n = m)

include hm

theorem getMpe_reachMpe_of_noCredit (hcredit : hasCredit m q.qos = false) :
    getMpe (reachMpe s n q) n = { m with netHeld := m.netHeld ++ [q] } := by
  simp only [reachMpe, hm, hcredit, Bool.not_false, if_true, getMpe_updMpe_self]

theorem getMpe_reachMpe_of_scheduled (hcredit : hasCredit m q.qos = true) (hqos : q.qos = .scheduled)
    (haxu : isAxuOp m q = true) :
    ∃ c, (c = m.cycle ∨ c = m.cycle + 1) ∧
      getMpe (reachMpe s n q) n = { m with
        cycle := c, ingress := insertArrival m { q with cycle := c } m.ingress } := by
  subst hm
  refine ⟨(getMpe s n).cycle + (drawNat s).2 % 2, ?_, ?_⟩
  · omega
  · have hcredited : ¬(!hasCredit (getMpe s n) q.qos) = true := by simp [hcredit]
    rw [reachMpe, if_neg hcredited, if_pos ⟨hqos, haxu⟩]
    exact getMpe_updMpe_self (drawNat s).1 n _

theorem getMpe_reachMpe_of_arrival (hcredit : hasCredit m q.qos = true)
    (hother : q.qos ≠ .scheduled ∨ isAxuOp m q = false) :
    getMpe (reachMpe s n q) n = { m with ingress := m.ingress ++ [q] } := by
  have hplain : ¬(q.qos = .scheduled ∧ isAxuOp m q = true) := by
    rintro ⟨hqos, haxu⟩
    exact hother.elim (fun h => h hqos) fun h => by simp [h] at haxu
  simp only [reachMpe, hm, hcredit, Bool.not_true, Bool.false_eq_true, if_false, if_neg hplain, getMpe_updMpe_self]

end ReachMpe

theorem exec_stampRequest (st : Nat) (r : ComputeReq) (s : State) :
    exec (.stampRequest st r) s = .next (settle (stampOrHold s (16 * st + r.src.toNat) r)) := rfl

/-- Settles O22: the request is sorted by its address, and what reaches an MPE or an OTU, or is refused. Holding a request back is log
entry 74, the lane cycle log entry 28. -/
theorem stampRequests : Obligations.StampRequests := by
  intro s st cg r e base hrunning hdry hentry hwaking hholding hcg hst he hbase
  obtain rfl : base = stamped cg r e := hbase
  subst he
  rw [exec_stampRequest, ← hcg]
  refine ⟨fun hvalid hheld hmark => ?valid, fun hvalid hdoorbells => ?invalid⟩
  case invalid =>
    rw [stampOrHold_of_not_valid r hrunning hdry hentry hst hvalid]
    exact ⟨_, rfl, stampRefused_stampRefuse r _ _ _ _ hdry hdoorbells⟩
  case valid =>
    rw [stampOrHold_of_valid r hrunning hdry hentry hst hholding hvalid hheld]
    have hmark' : (getCore (unwatched s cg) cg).localMark = false := by
      rw [unwatched, getCore_updCore_self, hmark]
    refine ⟨fun n req hmemory haligned hn hmpe hreq => ?memory, fun o hmin hmax haligned ho hlpe => ?domain,
      fun hdoorbells hbad => ?bad⟩
    case memory =>
      subst hn hreq
      rw [stampForward_of_memory (unwatched s cg) _ hmark' hmemory haligned hmpe]
      have hengine := getMpe_noteStore (unwatched s cg) cg r
      refine ⟨_, _, rfl, rfl, fun k hk => (getMpe_reachMpe_ne _ _ _ hk).trans (hengine k), ?_,
        getMpe_reachMpe_of_noCredit (hengine _), fun hcredit hqos haxu => ?_, getMpe_reachMpe_of_arrival (hengine _)⟩
      · have hreach := congrArg (fun u : State => { u with cores := s.cores, mpes := s.mpes, draws := s.draws })
          (reachMpe_frame (noteStore (unwatched s cg) cg r) (fld r.addr 38 36) { stamped cg r (getCore s cg).entry with
            stack := fld r.addr 38 36, brick := fld r.addr 35 12, off := fld r.addr 11 0 })
        have hnote := congrArg (fun u : State => { u with cores := s.cores, mpes := s.mpes, draws := s.draws })
          (noteStore_frame (unwatched s cg) cg r)
        exact hreach.trans hnote
      · obtain ⟨c, hc, hreach⟩ := getMpe_reachMpe_of_scheduled (hengine _) hcredit hqos haxu
        rw [hreach]
        exact ⟨hc, rfl⟩
    case domain =>
      subst ho
      rw [stampForward_of_domain (unwatched s cg) _ hmin hmax haligned hlpe]
      refine ⟨_, rfl, ?_, fun k hk => ?_, ?_⟩
      · rw [getOtu_updOtu_self, getOtu_noteStore]
        rfl
      · rw [getOtu_updOtu_ne _ _ _ _ hk, getOtu_noteStore]
        rfl
      · exact congrArg (fun u : State => { u with otus := s.otus, cores := s.cores }) (noteStore_frame (unwatched s cg) cg r)
    case bad =>
      rw [stampForward_of_badAddress (unwatched s cg) _ hmark' hbad]
      have hdoorbells' : (getCore (unwatched s cg) cg).doorbells = [] := by
        rw [unwatched, getCore_updCore_self, hdoorbells]
      exact ⟨_, rfl, (stampRefused_stampRefuse (s := unwatched s cg) r _ _ _ _ hdry hdoorbells').of_updCore⟩

end Sys2Proof.Machine

namespace Sys2Proof.Machine

/-! ## The slot of the doorbell page that CARVE names (R43, Table 4.13) -/

/-- Bits 11:3 of a number, kept in place. -/
theorem and_FF8 (x : Nat) : x &&& 0xFF8 = 8 * (x / 8 % 512) := by
  apply Nat.eq_of_testBit_eq
  intro i
  rw [Nat.testBit_and, show 0xFF8 = 2 ^ 3 * (2 ^ 9 - 1) by decide, show 8 * (x / 8 % 512) = 2 ^ 3 * (x / 2 ^ 3 % 2 ^ 9) by rfl,
    Nat.testBit_two_pow_mul, Nat.testBit_two_pow_mul, Nat.testBit_two_pow_sub_one, Nat.testBit_mod_two_pow, Nat.testBit_div_two_pow]
  by_cases hi : 3 ≤ i
  · simp [hi, Bool.and_comm]
  · simp [hi]

/-- The address that CARVE reads. -/
theorem toNat_carveAddress (off : BitVec 12) :
    (0x8000001000 ||| (off.setWidth 64 &&& 0xFF8) : BitVec 64).toNat = 0x8000001000 + 8 * (off.toNat / 8 % 512) := by
  have hslot : 8 * (off.toNat / 8 % 512) < 2 ^ 12 := by omega
  have hor := Nat.two_pow_add_eq_or_of_lt hslot 0x8000001
  have hoff := off.isLt
  have hmod : off.toNat % 2 ^ 64 = off.toNat := Nat.mod_eq_of_lt (by omega)
  rw [BitVec.toNat_or, BitVec.toNat_and, BitVec.toNat_setWidth, hmod]
  change 0x8000001000 ||| (off.toNat &&& 0xFF8) = _
  rw [and_FF8]
  exact hor.symm

/-- The request that CARVE puts at the stamp unit: a load of 64 bits from the doorbell page. -/
def carveRequest (tag : BitVec 16) (off : BitVec 12) : ComputeReq :=
  { (default : ComputeReq) with tag := tag, op := 0, addr := 0x8000001000 ||| (off.setWidth 64 &&& 0xFF8) }

theorem exec_carve (cg : Nat) (tag : BitVec 16) (off : BitVec 12) (s : State) :
    exec (.carve cg tag off) s = .next (settle (stampOrHold s cg (carveRequest tag off))) := rfl

/-- A CARVE of `n` bricks answered to the core group (R115). -/
def carveAnswered (s : State) (cg n : Nat) (tag : BitVec 16) : State :=
  respond (carveFrom s cg n).1 cg tag true (toLE (carveFrom s cg n).2 8 ++ zeros 56)

/-- The request of CARVE is sorted to the slot of the doorbell page that OFFSET names. -/
theorem stampForward_carveRequest (s : State) (cg : Nat) (tag : BitVec 16) (off : BitVec 12) (e : Word) :
    stampForward s cg (carveRequest tag off) e = carveAnswered s cg (off.toNat / 8 % 512 + 1) tag := by
  have haddr : (carveRequest tag off).addr.toNat = 0x8000001000 + 8 * (off.toNat / 8 % 512) := toNat_carveAddress off
  have hop : memOpOf (carveRequest tag off).op = .readLine := rfl
  have htag : (carveRequest tag off).tag = tag := rfl
  have hmemory : ¬(carveRequest tag off).addr.toNat < 0x8000000000 := by omega
  have hpage : (carveRequest tag off).addr.toNat < 0x8000002000 := by omega
  have hoff : fld (carveRequest tag off).addr 12 0 = 0x1000 + 8 * (off.toNat / 8 % 512) := by
    simp only [fld, haddr]
    omega
  have hslot : 0x1000 ≤ 0x1000 + 8 * (off.toNat / 8 % 512) ∧ 0x1000 + 8 * (off.toNat / 8 % 512) ≤ 0x1FF8 ∧
      (0x1000 + 8 * (off.toNat / 8 % 512)) % 8 = 0 := by omega
  have hcount : (0x1000 + 8 * (off.toNat / 8 % 512) - 0x1000) / 8 + 1 = off.toNat / 8 % 512 + 1 := by omega
  simp only [stampForward, if_neg hmemory, if_pos hpage, doorbellPage, hop, hoff, if_pos hslot, hcount, htag, carveAnswered]

/-! ## CARVE (R115, Table 4.14) -/

section CarveFrom

variable {s : State} {cg n : Nat}

theorem carveFrom_of_no_pool (hpool : (getCore s cg).pool = none) : carveFrom s cg n = (s, 2 ^ 63) := by
  rw [carveFrom, hpool]

variable {p : Pool} (hpool : (getCore s cg).pool = some p)

include hpool

theorem carveFrom_of_left (hleft : n ≤ p.limit + 1 - p.next) :
    carveFrom s cg n =
      (updCore s cg fun c => { c with pool := some { p with next := p.next + n } }, p.stack * 2 ^ 24 + p.next) := by
  simp only [carveFrom, hpool, if_pos hleft]

theorem carveFrom_of_short (hshort : p.limit + 1 - p.next < n) :
    carveFrom s cg n = (s, 2 ^ 63 + p.stack * 2 ^ 24 + (p.limit + 1 - p.next)) := by
  simp only [carveFrom, hpool, if_neg (Nat.not_le.2 hshort)]

end CarveFrom

/-! What every CARVE leaves alone, whatever the pool. -/

theorem carveFrom_frame (s : State) (cg n : Nat) : { (carveFrom s cg n).1 with cores := s.cores } = s := by
  unfold carveFrom
  split
  · rfl
  · dsimp only
    split <;> rfl

theorem doorbells_carveFrom (s : State) (cg n : Nat) :
    (getCore (carveFrom s cg n).1 cg).doorbells = (getCore s cg).doorbells := by
  unfold carveFrom
  split
  · rfl
  · dsimp only
    split
    · rw [getCore_updCore_self]
    · rfl

theorem getCore_carveFrom_ne (s : State) (n : Nat) {cg j : Nat} (hj : j ≠ cg) :
    getCore (carveFrom s cg n).1 j = getCore s j := by
  unfold carveFrom
  split
  · rfl
  · dsimp only
    split
    · exact getCore_updCore_ne _ _ _ _ hj
    · rfl

/-- A CARVE answered, with no doorbell of the core group waiting: the response over what the pool gave. -/
theorem carveAnswered_of_no_doorbells {s : State} {cg : Nat} (n : Nat) (tag : BitVec 16)
    (hdoorbells : (getCore s cg).doorbells = []) :
    carveAnswered s cg n tag =
      updCore { (carveFrom s cg n).1 with
        responses := (carveFrom s cg n).1.responses ++ [(cg, tag, 0, toLE (carveFrom s cg n).2 8 ++ zeros 56)] } cg
        fun c => { c with stores := c.stores.erase tag } :=
  respond_of_no_doorbells ((doorbells_carveFrom s cg n).trans hdoorbells) tag true _

theorem pool_carveAnswered {s : State} {cg : Nat} (n : Nat) (tag : BitVec 16) (hdoorbells : (getCore s cg).doorbells = []) :
    (getCore (carveAnswered s cg n tag) cg).pool = (getCore (carveFrom s cg n).1 cg).pool := by
  rw [carveAnswered_of_no_doorbells n tag hdoorbells, getCore_updCore_self]
  rfl

/-! ## DOORBELL (R43, R99, R110) -/

/-- A session that a doorbell of accord `a` may reach a queue of: a tenant session of that accord. -/
def RingsFor (a : Nat) (x : Session) : Prop := x.world = .tenant ∧ x.accord = a ∧ x.accord ≠ 0

theorem ringsFor_iff (a : Nat) (x : Session) : (x.accord == a && a != 0 && x.world == .tenant) = true ↔ RingsFor a x := by
  simp only [RingsFor, Bool.and_eq_true, beq_iff_eq, bne_iff_ne]
  exact ⟨fun ⟨⟨haccord, hnonzero⟩, hworld⟩ => ⟨hworld, haccord, haccord ▸ hnonzero⟩,
    fun ⟨hworld, haccord, hnonzero⟩ => ⟨⟨haccord, haccord ▸ hnonzero⟩, hworld⟩⟩

section ForwardDoorbell

variable {s : State} {a : Nat} {w : Word}

theorem forwardDoorbell_of_no_queue (hq : tget s.queues (fld w 9 0) = none) :
    forwardDoorbell s a w = { s with foreignDb := Nat.min (s.foreignDb + 1) 255 } := by
  simp only [forwardDoorbell, hq, Bool.false_eq_true, if_false]
  rfl

variable {q : Queue} {x : Session} (hq : tget s.queues (fld w 9 0) = some q) (hx : tget s.sessions q.session = some x)

include hq hx

theorem forwardDoorbell_of_own (hown : RingsFor a x) :
    forwardDoorbell s a w =
      { s with queues := tset s.queues (fld w 9 0) { q with tail := fld w 31 16 % 2 ^ q.log2 } } := by
  simp only [forwardDoorbell, hq, hx, (ringsFor_iff a x).2 hown, if_true]

theorem forwardDoorbell_of_foreign (hforeign : ¬RingsFor a x) :
    forwardDoorbell s a w = { s with foreignDb := Nat.min (s.foreignDb + 1) 255 } := by
  have hother := (not_congr (ringsFor_iff a x)).2 hforeign
  simp only [forwardDoorbell, hq, hx, if_neg hother]
  rfl

end ForwardDoorbell

/-- A doorbell touches the queues and the count of foreign doorbells alone. -/
theorem forwardDoorbell_frame (s : State) (a : Nat) (w : Word) :
    { forwardDoorbell s a w with queues := s.queues, foreignDb := s.foreignDb } = s := by
  cases hq : tget s.queues (fld w 9 0) with
  | none => rw [forwardDoorbell_of_no_queue hq]
  | some q =>
    cases hx : tget s.sessions q.session with
    | none => simp only [forwardDoorbell, hq, hx, Bool.false_eq_true, if_false]
    | some x =>
      by_cases hown : RingsFor a x
      · rw [forwardDoorbell_of_own hq hx hown]
      · rw [forwardDoorbell_of_foreign hq hx hown]

/-- A doorbell that nothing holds back reaches the hub at once. -/
theorem ringDoorbell_of_nothing_held {s : State} {cg : Nat} (w : Word) (hstores : (getCore s cg).stores = [])
    (hdoorbells : (getCore s cg).doorbells = []) :
    ringDoorbell s cg w = forwardDoorbell (updCore s cg fun c => { c with doorbells := [] }) (fld (getCore s cg).entry 28 19) w := by
  simp only [ringDoorbell, releaseDoorbells, updCore_updCore, getCore_updCore_self, hstores, hdoorbells, List.nil_append,
    List.takeWhile_cons, List.takeWhile_nil, List.isEmpty_nil, if_true, List.foldl_cons, List.foldl_nil]
  simp only [updCore, hstores, hdoorbells, List.nil_append, List.dropWhile_cons, List.dropWhile_nil, List.isEmpty_nil, if_true]

section ExecDoorbell

variable {s : State} {cg : Nat} (w : Word) (hrunning : running s = true) (hdry : inDry s = false)
  (hentry : s.pwr.entry = none) (hst : stOk s (cg / 16) = true)

include hrunning hentry hst

theorem exec_doorbell_of_awake : exec (.doorbell cg w) s = .next (settle (doorbellNow s cg w)) := by
  change execDoorbell cg w s = _
  simp only [execDoorbell, hst, Bool.not_true, Bool.false_eq_true, and_false, if_false, hrunning, if_true,
    takeWake_of_running hrunning hentry]

end ExecDoorbell

section DoorbellNow

variable {s : State} {cg : Nat} (w : Word) (hdry : inDry s = false) (hvalid : bit (getCore s cg).entry 31 = true)

include hdry hvalid

theorem doorbellNow_of_mayRing (hring : bit (getCore s cg).entry 14 = true) : doorbellNow s cg w = ringDoorbell s cg w := by
  simp only [doorbellNow, hdry, hvalid, hring, Bool.not_true, Bool.false_eq_true, or_self, if_false]

omit hvalid in
theorem doorbellNow_of_mayNotRing (hring : bit (getCore s cg).entry 14 = false) :
    doorbellNow s cg w = { s with frs := { s.frs with raised := s.frs.raised ++
      [coreFault s 0x02 unitSt (cg / 16) cg (fld (getCore s cg).entry 28 19) 0x07] } } := by
  simp only [doorbellNow, hring, Bool.not_false, or_true, if_true, raise_of_not_dry hdry]

end DoorbellNow

/-- Settles O23: a CARVE is the load of one slot answered from the pool, and a doorbell reaches its queue or is counted as foreign.
The tail modulo the ring size is log entry 23. -/
theorem carveAndDoorbell : Obligations.CarveAndDoorbell := by
  refine ⟨fun s cg k tag off hrunning hdry hentry _ hholding hst hvalid hheld hdoorbells hk => ?carve,
    fun s cg w hrunning hdry hentry _ hst hvalid => ?doorbell⟩
  case carve =>
    have hcore : getCore (unwatched s cg) cg = { getCore s cg with watchHeld := [] } := getCore_updCore_self ..
    have hnone : (getCore (unwatched s cg) cg).doorbells = [] := by rw [hcore, hdoorbells]
    rw [exec_carve, stampOrHold_of_valid _ hrunning hdry hentry hst hholding hvalid hheld, stampForward_carveRequest, ← hk]
    have hanswer := carveAnswered_of_no_doorbells k tag hnone
    have hpool := pool_carveAnswered k tag hnone
    have hframe := congrArg (fun u : State => { u with cores := s.cores }) (carveFrom_frame (unwatched s cg) cg k)
    refine ⟨_, (carveFrom (unwatched s cg) cg k).2, rfl, ?_, ?_, fun j hj => ?_, fun p hp hleft => ?_, fun p hp hshort => ?_,
      fun hp => ?_⟩
    · have hresponses := congrArg State.responses hframe
      rw [hanswer, updCore_responses, show (carveFrom (unwatched s cg) cg k).1.responses = s.responses from hresponses]
    · rw [hanswer]
      exact congrArg (fun u : State => { u with responses := s.responses }) hframe
    · rw [hanswer, getCore_updCore_ne _ _ _ _ hj]
      exact (getCore_carveFrom_ne (unwatched s cg) k hj).trans (getCore_updCore_ne _ _ _ _ hj)
    · have hp' : (getCore (unwatched s cg) cg).pool = some p := by rw [hcore, hp]
      rw [hpool, carveFrom_of_left hp' hleft, getCore_updCore_self]
      exact ⟨rfl, rfl⟩
    · have hp' : (getCore (unwatched s cg) cg).pool = some p := by rw [hcore, hp]
      rw [hpool, carveFrom_of_short hp' hshort]
      exact ⟨rfl, hp'⟩
    · have hp' : (getCore (unwatched s cg) cg).pool = none := by rw [hcore, hp]
      rw [hpool, carveFrom_of_no_pool hp']
      exact ⟨rfl, hp'⟩
  case doorbell =>
    rw [exec_doorbell_of_awake w hrunning hentry hst]
    refine ⟨fun hring hstores hdoorbells => ?_, fun hring => ?_⟩
    · rw [doorbellNow_of_mayRing w hdry hvalid hring, ringDoorbell_of_nothing_held w hstores hdoorbells]
      let u := updCore s cg fun c => { c with doorbells := [] }
      refine ⟨_, rfl, fun q x hq hx => ⟨fun hown => ?_, fun hforeign => ?_⟩, fun hq => ?_, ?_⟩
      · rw [forwardDoorbell_of_own (s := u) hq hx hown]
        exact ⟨rfl, rfl⟩
      · rw [forwardDoorbell_of_foreign (s := u) hq hx hforeign]
        exact ⟨rfl, rfl⟩
      · rw [forwardDoorbell_of_no_queue (s := u) hq]
        exact ⟨rfl, rfl⟩
      · exact congrArg (fun u : State => { u with cores := s.cores }) (forwardDoorbell_frame _ _ w)
    · rw [doorbellNow_of_mayNotRing w hdry hring]
      exact ⟨_, _, rfl, rfl, rfl, rfl, rfl⟩

end Sys2Proof.Machine

namespace Sys2Proof.Machine

/-! ## ADMISSION_SLOT (R64 to R67) -/

theorem exec_admissionSlot {s : State} {m : Nat} (hrunning : running s = true) :
    exec (.admissionSlot m) s = .next (settle (admissionSlot s m)) :=
  if_pos hrunning

/-- An engine without its capstone, the copy of it, and what repairs them. -/
def outsideCapstone (m : Mpe) : Mpe := { m with shadow := [], capstone := [], repairs := 0, repairing := [], capState := 0 }

/-- Repairs that end touch the capstone and its copy alone. -/
theorem outsideCapstone_capRepaired (m : Mpe) : outsideCapstone (capRepaired m) = outsideCapstone m := by
  refine foldl_keeps (g := outsideCapstone) (fun x r => ?_) m.repairing m
  split <;> rfl

/-- Whether a slot is given to BEST_EFFORT may take an open value, and nothing else. -/
theorem beSlot_frame (s : State) (n : Nat) : { (beSlot s n).1 with draws := s.draws } = s := by
  unfold beSlot
  dsimp only
  split
  · rfl
  · split <;> rfl

theorem getMpe_beSlot (s : State) (n k : Nat) : getMpe (beSlot s n).1 k = getMpe s k := by
  have hframe := congrArg (getMpe · k) (beSlot_frame s n)
  exact hframe

/-- An engine in its next slot, with nothing admitted. -/
def nextSlot (width : Nat) (m : Mpe) : Mpe :=
  { m with
    slot := (m.slot + 1) % 256, cycle := m.cycle + 1, slotUsed := m.slotUsed - width + 0
    waited := (m.waited ++ (m.ingress.filter fun r => r.qos == .reserved).map (·.accord)).eraseDups }

/-- The block as a slot begins: repairs done, credits gained. -/
def slotBegun (s : State) (n : Nat) : State := updMpe s n fun m => capRepaired { m with credit := gainCredits s n }

theorem outsideCapstone_slotBegun (s : State) (n : Nat) :
    outsideCapstone (getMpe (slotBegun s n) n) = outsideCapstone { getMpe s n with credit := gainCredits s n } := by
  rw [slotBegun, getMpe_updMpe_self, outsideCapstone_capRepaired]

/-- With nothing at the ingress a slot only passes. -/
theorem admissionSlot_of_no_ingress {s : State} {n : Nat} (hingress : (getMpe s n).ingress = []) :
    ∃ width, admissionSlot s n = updMpe (beSlot (slotBegun s n) n).1 n (nextSlot width) := by
  have hbegun : (getMpe (beSlot (slotBegun s n) n).1 n).ingress = [] := by
    have hsame := congrArg Mpe.ingress (outsideCapstone_slotBegun s n)
    rw [getMpe_beSlot]
    exact hsame.trans hingress
  refine ⟨slotStretchers (beSlot (slotBegun s n) n).1 n, ?_⟩
  rw [slotBegun] at hbegun ⊢
  simp only [admissionSlot, hbegun, List.length_nil, List.range_zero, List.foldl_nil]
  rfl

/-! ## Credits (R66, R67) -/

/-- What is read from a table that a filter makes of one with rising keys. -/
theorem tgetD_filterMap {α β : Type} (g : Nat → α → Option β) (d : β) (t : Tab α) (k : Nat)
    (hsorted : t.Pairwise fun x y => x.1 < y.1) :
    tgetD (t.filterMap fun e => (g e.1 e.2).map fun b => (e.1, b)) k d = ((tget t k).bind (g k)).getD d := by
  induction t with
  | nil => rfl
  | cons e r ih =>
    obtain ⟨n, x⟩ := e
    obtain ⟨hfirst, hrest⟩ := List.pairwise_cons.1 hsorted
    have habsent (hk : n = k) : tget r k = none := by
      cases hentry : tget r k with
      | none => rfl
      | some y => exact absurd (hfirst _ (mem_of_tget hentry)) (by simp [hk])
    by_cases hk : n = k
    · subst hk
      have hnone : tgetD (r.filterMap fun e => (g e.1 e.2).map fun b => (e.1, b)) n d = d := by
        rw [ih hrest, habsent rfl]
        rfl
      cases hg : g n x with
      | none => simp [tget, hg, hnone]
      | some b => simp [tget, tgetD, hg]
    · cases hg : g n x with
      | none => simp [tget, hk, hg, ih hrest]
      | some b => simpa [tget, tgetD, hk, hg] using ih hrest

/-- The credit of an accord in a slot: what it kept, and its rate under the common factor. -/
def gainedCredit (m : Mpe) (n a : Nat) (x : Accord) : Int :=
  let r := tgetD x.resv n {}
  let old := tgetD m.credit a 0
  (if m.slot = 0 then min old 0 else old) + ((r.c + r.r + r.s) * 40 * m.scale : Nat)

theorem tgetD_gainCredits {s : State} {n a : Nat} {x : Accord} (hsorted : s.accords.Pairwise fun x y => x.1 < y.1)
    (hx : tget s.accords a = some x) : tgetD (gainCredits s n) a 0 = gainedCredit (getMpe s n) n a x := by
  have hgain : gainCredits s n = s.accords.filterMap fun e =>
      (if gainedCredit (getMpe s n) n e.1 e.2 = 0 then none else some (gainedCredit (getMpe s n) n e.1 e.2)).map
        fun b => (e.1, b) := by
    change s.accords.filterMap (fun e => if gainedCredit (getMpe s n) n e.1 e.2 = 0 then none
      else some (e.1, gainedCredit (getMpe s n) n e.1 e.2)) = _
    congr 1
    funext e
    split <;> rfl
  rw [hgain, tgetD_filterMap (fun k y => if gainedCredit (getMpe s n) n k y = 0 then none
    else some (gainedCredit (getMpe s n) n k y)) 0 _ _ hsorted, hx, Option.bind_some]
  split
  next hzero => exact hzero.symm
  next => rfl

/-! ## The order of admission (R65) -/

/-- The lower of a request kept so far and the next one, by `key`; a request without a key is passed over. -/
def keepLower (key : Req → Option Nat) (x : Option (Nat × Req)) (r : Req) : Option (Nat × Req) :=
  match key r, x with
  | none, _ => x
  | some k, none => some (k, r)
  | some k, some (j, q) => if k < j then some (k, r) else some (j, q)

/-- One step keeps what was there or takes the next request, and is no higher than either. -/
theorem keepLower_some {key : Req → Option Nat} {x : Option (Nat × Req)} {r q : Req} {k : Nat}
    (h : keepLower key x r = some (k, q)) :
    (x = some (k, q) ∨ q = r ∧ key r = some k) ∧ (∀ j, key r = some j → k ≤ j) ∧ ∀ j p, x = some (j, p) → k ≤ j := by
  unfold keepLower at h
  split at h
  next hkey =>
    subst h
    exact ⟨.inl rfl, by simp [hkey], fun j p hx => by cases hx; exact Nat.le_refl _⟩
  next hkey =>
    cases h
    exact ⟨.inr ⟨rfl, hkey⟩, fun j hj => by cases hkey.symm.trans hj; exact Nat.le_refl _, by simp⟩
  next k' j' p' hkey =>
    split at h
    next hlower =>
      cases h
      exact ⟨.inr ⟨rfl, hkey⟩, fun j hj => by cases hkey.symm.trans hj; exact Nat.le_refl _,
        fun j p hx => by cases hx; exact Nat.le_of_lt hlower⟩
    next hlower =>
      cases h
      exact ⟨.inl rfl, fun j hj => by cases hkey.symm.trans hj; exact Nat.not_lt.1 hlower,
        fun j p hx => by cases hx; exact Nat.le_refl _⟩

/-- What the steps keep comes from the list or was there, and has the lowest key of both. -/
theorem foldl_keepLower_some {key : Req → Option Nat} {l : List Req} {x : Option (Nat × Req)} {q : Req} {k : Nat}
    (h : l.foldl (keepLower key) x = some (k, q)) :
    (x = some (k, q) ∨ q ∈ l ∧ key q = some k) ∧ (∀ r ∈ l, ∀ j, key r = some j → k ≤ j) ∧ ∀ j p, x = some (j, p) → k ≤ j := by
  induction l generalizing x with
  | nil =>
    subst h
    exact ⟨.inl rfl, by simp, fun j p hx => by cases hx; exact Nat.le_refl _⟩
  | cons r l ih =>
    obtain ⟨hfrom, hlower, hkept⟩ := ih h
    cases hstep : keepLower key x r with
    | none =>
      have hnokey : key r = none ∧ x = none := by
        unfold keepLower at hstep
        split at hstep
        next hkey => exact ⟨hkey, hstep⟩
        next => cases hstep
        next => split at hstep <;> cases hstep
      obtain hx | ⟨hq, hkey⟩ := hfrom
      · rw [hstep] at hx
        cases hx
      · exact ⟨.inr ⟨List.mem_cons_of_mem _ hq, hkey⟩,
          List.forall_mem_cons.2 ⟨fun j hj => (by cases hnokey.1.symm.trans hj), hlower⟩,
          fun j p hx => by cases hnokey.2.symm.trans hx⟩
    | some y =>
      obtain ⟨j, p⟩ := y
      have hj : k ≤ j := hkept j p hstep
      obtain ⟨hfrom', hlower', hkept'⟩ := keepLower_some hstep
      refine ⟨?_, List.forall_mem_cons.2 ⟨fun i hi => Nat.le_trans hj (hlower' i hi), hlower⟩,
        fun i p' hx => Nat.le_trans hj (hkept' i p' hx)⟩
      obtain hx | ⟨hq, hkey⟩ := hfrom
      · cases hstep.symm.trans hx
        exact hfrom'.imp_right fun ⟨hp, hkey⟩ => ⟨hp ▸ List.mem_cons_self, hp ▸ hkey⟩
      · exact .inr ⟨List.mem_cons_of_mem _ hq, hkey⟩

/-- The key of a request: its step first, then the distance of its accord from the rotation position. -/
def admitKey (s : State) (n : Nat) (be : Bool) (r : Req) : Option Nat :=
  (admitStep s n be r).map fun k => k * 1024 + (if k = 1 then 0 else rotDist (getMpe s n).rotate r.accord)

/-- Lower keys are steps no later. -/
theorem step_le_of_admitKey_le {s : State} {n k j kq kr : Nat} {be : Bool} {q r : Req} (hq : admitStep s n be q = some k)
    (hr : admitStep s n be r = some j) (hkq : admitKey s n be q = some kq) (hkr : admitKey s n be r = some kr) (hle : kq ≤ kr) :
    k ≤ j := by
  simp only [admitKey, hq, hr, Option.map_some, Option.some.injEq] at hkq hkr
  have hdist : (if j = 1 then 0 else rotDist (getMpe s n).rotate r.accord) < 1024 := by
    split
    · omega
    · exact Nat.mod_lt _ (by omega)
  omega

/-- The requests that a slot may take: the oldest of each accord and class that fit, and that the residency buffer has room for. -/
def admitCandidates (s : State) (n : Nat) (b : Budget) : List Req :=
  (headsOf (getMpe s n).ingress).filter fun r =>
    fitsBudget (getMpe s n) b r && !(decide ((getMpe s n).residency.length ≥ 64) && (lacksKeys s n r).isSome)

theorem pickRequest_eq (s : State) (n : Nat) (be : Bool) (b : Budget) :
    pickRequest s n be b = ((admitCandidates s n b).foldl (keepLower (admitKey s n be)) none).map (·.2) := rfl

theorem mem_admitCandidates {s : State} {n : Nat} {b : Budget} {r : Req} :
    r ∈ admitCandidates s n b ↔ r ∈ headsOf (getMpe s n).ingress ∧ fitsBudget (getMpe s n) b r = true ∧
      ((getMpe s n).residency.length < 64 ∨ lacksKeys s n r = none) := by
  rw [admitCandidates, List.mem_filter]
  cases lacksKeys s n r <;> simp

/-- The request picked is a candidate of the lowest step. -/
theorem pickRequest_some {s : State} {n : Nat} {be : Bool} {b : Budget} {r : Req} (hpick : pickRequest s n be b = some r) :
    r ∈ admitCandidates s n b ∧ ∃ k, admitStep s n be r = some k ∧
      ∀ q ∈ admitCandidates s n b, ∀ j, admitStep s n be q = some j → k ≤ j := by
  rw [pickRequest_eq] at hpick
  obtain ⟨⟨key, r'⟩, hfold, rfl⟩ := Option.map_eq_some_iff.1 hpick
  obtain ⟨hfrom, hlowest, -⟩ := foldl_keepLower_some hfold
  obtain ⟨hmem, hkey⟩ := hfrom.resolve_left fun h => by cases h
  obtain ⟨k, hk, -⟩ := Option.map_eq_some_iff.1 hkey
  refine ⟨hmem, k, hk, fun q hq j hj => ?_⟩
  have hkeyq : admitKey s n be q = some (j * 1024 + if j = 1 then 0 else rotDist (getMpe s n).rotate q.accord) := by
    rw [admitKey, hj, Option.map_some]
  exact step_le_of_admitKey_le hk hj hkey hkeyq (hlowest q hq _ hkeyq)

/-! ## A request let in (R63, R183) -/

/-- The engine once request `r` has left the ingress, its credit and bandwidth counted. -/
def leaveIngress (s : State) (n : Nat) (r : Req) : State :=
  updMpe s n fun m =>
    { m with
      ingress := m.ingress.erase r, rotate := if r.qos = .scheduled then m.rotate else (r.accord + 1) % 1024
      credit := if admitStep s n true r == some 2
        then tset m.credit r.accord (tgetD m.credit r.accord 0 - (admitCost (getMpe s n) r).1 * stretcherCredit) else m.credit
      delivered := tset m.delivered r.accord (tgetD m.delivered r.accord 0 + (admitCost (getMpe s n) r).1) }

/-- Leaving the ingress changes no region table, no accord and no residency buffer. -/
theorem lacksKeys_leaveIngress (s : State) (n : Nat) (r : Req) : lacksKeys (leaveIngress s n r) n r = lacksKeys s n r := by
  have hregion : findRegion (getMpe (leaveIngress s n r) n) r.brick = findRegion (getMpe s n) r.brick := by
    rw [leaveIngress, getMpe_updMpe_self]
    rfl
  simp only [lacksKeys, hregion]
  rfl

theorem behindResidency_leaveIngress (s : State) (n : Nat) (r : Req) :
    behindResidency (getMpe (leaveIngress s n r) n) r = behindResidency (getMpe s n) r := by
  rw [leaveIngress, getMpe_updMpe_self]
  rfl

/-- An accord used is no part of the engines. -/
@[simp] theorem getMpe_touchAccord (s : State) (a n : Nat) : getMpe (touchAccord s a) n = getMpe s n := by
  unfold touchAccord
  split <;> rfl

theorem admitOne_of_waiting {s : State} {n : Nat} {r : Req}
    (hwaits : lacksKeys s n r ≠ none ∨ behindResidency (getMpe s n) r = true) :
    admitOne s n r = updMpe (leaveIngress s n r) n fun m => holdResidency m r := by
  have hwaits' : (lacksKeys (leaveIngress s n r) n r).isSome = true ∨
      behindResidency (getMpe (leaveIngress s n r) n) r = true := by
    rwa [lacksKeys_leaveIngress, behindResidency_leaveIngress, Option.isSome_iff_ne_none]
  exact if_pos hwaits'

theorem getMpe_admitOne_of_ready {s : State} {n : Nat} {r : Req} (hkeys : lacksKeys s n r = none)
    (hfirst : behindResidency (getMpe s n) r = false) :
    getMpe (admitOne s n r) n =
      { getMpe (leaveIngress s n r) n with ready := (getMpe (leaveIngress s n r) n).ready ++ [r] } := by
  have hgoes : ¬((lacksKeys (leaveIngress s n r) n r).isSome = true ∨
      behindResidency (getMpe (leaveIngress s n r) n) r = true) := by
    simp [lacksKeys_leaveIngress, behindResidency_leaveIngress, hkeys, hfirst]
  refine (congrArg (getMpe · n) (if_neg hgoes)).trans ?_
  change getMpe (updMpe (match findRegion (getMpe (leaveIngress s n r) n) r.brick with
    | some (_, e) => touchAccord (leaveIngress s n r) e.owner
    | none => leaveIngress s n r) n fun m => { m with ready := m.ready ++ [r] }) n = _
  rw [getMpe_updMpe_self]
  split
  · rw [getMpe_touchAccord]
  · rfl

/-! ## Residency (R62, R63) -/

theorem exec_accordResident {s : State} (a : Nat) (hrunning : running s = true) :
    exec (.accordResident a) s = .next (settleAll (runRecords (advanceAccords (accordResident s a)))) :=
  if_pos hrunning

theorem accordResident_of_leaving {s : State} {a : Nat} (hlive : (getAccord s a).state ≠ .live)
    (hcomposing : (getAccord s a).state ≠ .composing) : accordResident s a = releaseResidency s a :=
  if_pos ⟨hlive, hcomposing⟩

theorem accordResident_of_makeResident {s u : State} {a : Nat}
    (hstate : (getAccord s a).state = .live ∨ (getAccord s a).state = .composing) (hmade : makeResident s a = (u, true)) :
    accordResident s a = releaseResidency u a := by
  have hstays : ¬((getAccord s a).state ≠ .live ∧ (getAccord s a).state ≠ .composing) := fun h => hstate.elim h.1 h.2
  simp only [accordResident, if_neg hstays, hmade]

/-- The requests of a residency buffer that the keys of accord `a` send on. -/
def waitsFor (a : Nat) (m : Mpe) (r : Req) : Bool := (findRegion m r.brick).all fun e => e.2.owner == a || e.2.cls == .s

/-- One stack's residency buffer released. -/
def releaseStack (a : Nat) (s : State) (n : Nat) : State :=
  updMpe s n fun m => giveCredits { m with
    ready := m.ready ++ m.residency.filter (waitsFor a (getMpe s n)), residency := m.residency.filter fun r => !waitsFor a (getMpe s n) r }

theorem releaseResidency_eq (s : State) (a : Nat) : releaseResidency s a = (List.range 8).foldl (releaseStack a) s := rfl

/-- Credits given again change neither the service list nor the residency buffer. -/
theorem giveCredits_lists (m : Mpe) : (giveCredits m).ready = m.ready ∧ (giveCredits m).residency = m.residency := by
  unfold giveCredits
  split <;> exact ⟨rfl, rfl⟩

theorem getMpe_foldl_releaseStack_of_not_mem {a n : Nat} (l : List Nat) (s : State) (hn : n ∉ l) :
    getMpe (l.foldl (releaseStack a) s) n = getMpe s n := by
  induction l generalizing s with
  | nil => rfl
  | cons k r ih =>
    obtain ⟨hk, hr⟩ := not_or.1 ((not_congr List.mem_cons).1 hn)
    rw [List.foldl_cons, ih _ hr, releaseStack, getMpe_updMpe_ne _ _ _ _ hk]

/-- A stack is released once, whichever stacks go before and after it. -/
theorem getMpe_foldl_releaseStack {a n : Nat} (l : List Nat) (s : State) (hn : n ∈ l) (hnodup : l.Nodup) :
    getMpe (l.foldl (releaseStack a) s) n = getMpe (releaseStack a s n) n := by
  induction l generalizing s with
  | nil => cases hn
  | cons k r ih =>
    obtain ⟨hk, hr⟩ := List.nodup_cons.1 hnodup
    rw [List.foldl_cons]
    by_cases hkn : n = k
    · subst hkn
      exact getMpe_foldl_releaseStack_of_not_mem r _ hk
    · have hother : getMpe (releaseStack a s k) n = getMpe s n := getMpe_updMpe_ne _ _ _ _ hkn
      rw [ih _ ((List.mem_cons.1 hn).resolve_left hkn) hr]
      simp only [releaseStack, getMpe_updMpe_self] at hother ⊢
      rw [hother]

theorem getMpe_releaseResidency {s : State} {a n : Nat} (hn : n < 8) :
    getMpe (releaseResidency s a) n = getMpe (releaseStack a s n) n := by
  rw [releaseResidency_eq]
  exact getMpe_foldl_releaseStack _ s (List.mem_range.2 hn) List.nodup_range

/-- Settles O24: a slot without requests, the credit of an accord, the choice of a request, where one let in goes, and the requests
that residency sends on. Credit and steps of admission are log entry 17. -/
theorem requestAdmission : Obligations.RequestAdmission := by
  refine ⟨fun s m hrunning hingress => ?slot, fun s m a x old r hsorted hx hr hold => ?credit, fun s m be b r hpick => ?pick,
    fun s m r => ?admitted, fun s a hrunning => ⟨fun hlive hcomposing => ?left, fun u hstate hmade => ?resident⟩,
    fun s a m mine hm hmine => ?released⟩
  case slot =>
    obtain ⟨width, hslot⟩ := admissionSlot_of_no_ingress hingress
    have hbegun := outsideCapstone_slotBegun s m
    have hengine : getMpe (admissionSlot s m) m = nextSlot width (getMpe (slotBegun s m) m) := by
      rw [hslot, getMpe_updMpe_self, getMpe_beSlot]
    refine ⟨admissionSlot s m, exec_admissionSlot hrunning, ?_, ?_, ?_, ?_, ?_, fun k hk => ?_, ?_⟩
    · rw [hengine]
      exact (congrArg (fun x : Mpe => (x.slot + 1) % 256) hbegun :)
    · rw [hengine]
      exact (congrArg Mpe.credit hbegun :)
    · rw [hengine]
      exact (congrArg Mpe.ready hbegun :)
    · rw [hengine]
      exact (congrArg Mpe.residency hbegun :)
    · rw [hengine]
      exact (congrArg Mpe.hbm hbegun :)
    · rw [hslot, getMpe_updMpe_ne _ _ _ _ hk, getMpe_beSlot]
      exact getMpe_updMpe_ne _ _ _ _ hk
    · rw [hslot]
      exact congrArg (fun u : State => { u with mpes := s.mpes, draws := s.draws }) (beSlot_frame (slotBegun s m) m)
  case credit =>
    rw [tgetD_gainCredits hsorted hx, hold, hr]
    rfl
  case pick =>
    obtain ⟨hmem, k, hk, hlowest⟩ := pickRequest_some hpick
    obtain ⟨hhead, hfits, -⟩ := mem_admitCandidates.1 hmem
    exact ⟨hhead, hfits, k, hk, fun q hq j hfitsq hj hroom => hlowest q (mem_admitCandidates.2 ⟨hq, hfitsq, hroom⟩) j hj⟩
  case admitted =>
    refine ⟨?_, fun hwaits => ?_, fun hkeys hfirst => ?_⟩
    · by_cases hwaits : lacksKeys s m r ≠ none ∨ behindResidency (getMpe s m) r = true
      · rw [admitOne_of_waiting hwaits, getMpe_updMpe_self, leaveIngress, getMpe_updMpe_self, holdResidency]
      · obtain ⟨hkeys, hfirst⟩ := not_or.1 hwaits
        rw [getMpe_admitOne_of_ready (Classical.not_not.1 hkeys) (Bool.eq_false_iff.2 hfirst), leaveIngress, getMpe_updMpe_self]
    · rw [admitOne_of_waiting hwaits, getMpe_updMpe_self, leaveIngress, getMpe_updMpe_self, holdResidency]
      exact ⟨rfl, rfl⟩
    · rw [getMpe_admitOne_of_ready hkeys hfirst, leaveIngress, getMpe_updMpe_self]
      exact ⟨rfl, rfl⟩
  case left => rw [exec_accordResident a hrunning, accordResident_of_leaving hlive hcomposing]
  case resident => rw [exec_accordResident a hrunning, accordResident_of_makeResident hstate hmade]
  case released =>
    have hmine' : mine = waitsFor a (getMpe s m) := funext hmine
    rw [getMpe_releaseResidency hm, releaseStack, getMpe_updMpe_self, hmine']
    exact giveCredits_lists _

end Sys2Proof.Machine

namespace Sys2Proof.Machine

/-! ## The oldest admitted request served (R183) -/

section ServeRow

variable {s v : State} {m : Nat} {r : Req} {rest : List Req} (hready : (getMpe s m).ready = r :: rest)
  (hv : v = updMpe s m fun y => { y with ready := rest })

include hready hv

/-- A row serves the request at the head of the service list when it is of the row's kind. -/
theorem serveRow_of_head {want : Req → Bool} (u : Upset) (hrunning : running s = true) (hwant : want r = true) :
    serveRow want m u s = .next (settleAll (serveReq v m u r)) := by
  simp only [serveRow, hrunning, if_true, serveHead, hready, hwant, ← hv]

end ServeRow

section ServeReq

variable {s : State} {m : Nat} {r : Req} (hdry : inDry s = false)
  (hreenc : ((getMpe s m).reenc.any fun y => y.brick == r.brick) = false) (hbehind : behindResidency (getMpe s m) r = false)

include hdry hreenc hbehind

/-! A request that nothing holds up, with no upset, goes to its operation. -/

theorem serveReq_of_read (hop : r.op = .readLine ∨ r.op = .readStretcher) : serveReq s m .none r = serveRead s m .none r := by
  obtain hop | hop := hop
  · simp only [serveReq, hdry, hreenc, hbehind, checkedUpset, isCapFailure, capUpset, hop, Bool.false_eq_true, false_and, if_false]
  · simp only [serveReq, hdry, hreenc, hbehind, checkedUpset, isCapFailure, capUpset, hop, Bool.false_eq_true, false_and, if_false]

theorem serveReq_of_write (hop : r.op = .writeLine ∨ r.op = .writeStretcher ∨ r.op = .writeBrick) :
    serveReq s m .none r = serveWrite s m .none r := by
  obtain hop | hop | hop := hop
  · simp only [serveReq, hdry, hreenc, hbehind, checkedUpset, isCapFailure, capUpset, hop, Bool.false_eq_true, false_and, if_false]
  · simp only [serveReq, hdry, hreenc, hbehind, checkedUpset, isCapFailure, capUpset, hop, Bool.false_eq_true, false_and, if_false]
  · simp only [serveReq, hdry, hreenc, hbehind, checkedUpset, isCapFailure, capUpset, hop, Bool.false_eq_true, false_and, if_false]

theorem serveReq_of_atomic (hop : r.op = .atomic) : serveReq s m .none r = serveAtomic s m .none r := by
  simp only [serveReq, hdry, hreenc, hbehind, checkedUpset, isCapFailure, capUpset, hop, Bool.false_eq_true, false_and, if_false]

end ServeReq

/-- Taking a request off the service list changes nothing that holds another one up. -/
theorem getMpe_unlisted (s : State) (m : Nat) (rest : List Req) :
    getMpe (updMpe s m fun y => { y with ready := rest }) m = { getMpe s m with ready := rest } :=
  getMpe_updMpe_self ..

/-! ## Answers to a core group (R23, R29) -/

section Answer

variable {r : Req} {cg : Nat} {tag : BitVec 16} (hcore : r.origin = .core cg tag)

include hcore

theorem answer_ok_of_core (s : State) (d : Bytes) : answer s r none d = respond s cg tag true d := by
  simp only [answer, hcore, Option.isSome_none, Bool.false_eq_true, if_false]

theorem answer_error_of_core (s : State) (e : MemErr) (d : Bytes) :
    answer s r (some e) d = respond (refusedData s r).1 cg tag false (refusedData s r).2 := by
  simp only [answer, hcore, Option.isSome_some, if_true]

end Answer

/-! ## Entries of the coalescing store -/

theorem storeEntry_putEntry_self (s : State) (n x : Nat) (e : StoreEntry) :
    storeEntry (putEntry s n x e) n x = some { e with lastUse := s.stamp } := by
  change tget (getMpe (updMpe s n fun m => { m with store := tset m.store x { e with lastUse := s.stamp } }) n).store x = _
  rw [getMpe_updMpe_self, tget_tset_self]

theorem storeEntry_putEntry_ne (s : State) (n : Nat) {x y : Nat} (e : StoreEntry) (h : y ≠ x) :
    storeEntry (putEntry s n x e) n y = storeEntry s n y := by
  change tget (getMpe (updMpe s n fun m => { m with store := tset m.store x { e with lastUse := s.stamp } }) n).store y = _
  rw [getMpe_updMpe_self, tget_tset_ne _ _ _ _ h]
  rfl

/-- An entry put into the store changes that engine's store and the order of use, and nothing else. -/
theorem getMpe_putEntry_self (s : State) (n x : Nat) (e : StoreEntry) :
    getMpe (putEntry s n x e) n = { getMpe s n with store := tset (getMpe s n).store x { e with lastUse := s.stamp } } := by
  change getMpe (updMpe s n fun m => { m with store := tset m.store x { e with lastUse := s.stamp } }) n = _
  rw [getMpe_updMpe_self]

theorem putEntry_frame (s : State) (n x : Nat) (e : StoreEntry) :
    { putEntry s n x e with mpes := s.mpes, stamp := s.stamp } = s := rfl

/-- What is read of the store of an engine goes by the engine alone. -/
theorem storeEntry_congr {s t : State} {n : Nat} (h : (getMpe t n).store = (getMpe s n).store) (x : Nat) :
    storeEntry t n x = storeEntry s n x := by
  rw [storeEntry, h, storeEntry]

/-- The checks of a request's place look at what the service list does not change. -/
theorem checkPlace_unlisted (s : State) (m b : Nat) (rest : List Req) (bad : Bool) (place : Option (Nat × RtEntry)) :
    checkPlace (updMpe s m fun y => { y with ready := rest }) m b bad place = checkPlace s m b bad place := by
  simp only [checkPlace, getMpe_unlisted]
  rfl

end Sys2Proof.Machine

namespace Sys2Proof.Machine

/-! ## READ_LINE and READ_STRETCHER (R185, R186, R222) -/

theorem exec_readLine (m : Nat) (u : Upset) (s : State) :
    exec (.readLine m u) s = serveRow (fun r => r.op == .readLine || r.op == .reserved) m u s := rfl

theorem exec_readStretcher (m : Nat) (u : Upset) (s : State) :
    exec (.readStretcher m u) s = serveRow (fun r => r.op == .readStretcher) m u s := rfl

/-- What a read answers of a stretcher: the line it names, or the whole. -/
def readAnswer (r : Req) (d : Bytes) : Bytes := if r.op = .readLine then bslice d (r.off % 256 / 64 * 64) 64 else d

theorem readData_of_read {r : Req} (hop : r.op = .readLine ∨ r.op = .readStretcher) (d : Bytes) :
    readData r d = readAnswer r d := by
  obtain hop | hop := hop <;> simp only [readData, readAnswer, hop, if_true, reduceCtorEq, if_false]

/-- A read that the checks refuse. -/
theorem serveRead_of_error {s : State} {m : Nat} {r : Req} {y : MemErr}
    (hplace : checkPlace s m r.brick false r.place = .error y) : serveRead s m .none r = refuse s m r y := by
  rw [serveRead, hplace]

section ServeRead

variable {s : State} {m rt : Nat} {r : Req} {e : RtEntry} (hplace : checkPlace s m r.brick false r.place = .ok (rt, e))

include hplace

/-- A read that finds a VALID entry takes it as the one last used. -/
theorem serveRead_of_valid {en : StoreEntry} (hentry : storeEntry s m (16 * r.brick + r.off / 256) = some en)
    (hvalid : en.state = .valid) :
    serveRead s m .none r = readEntry (putEntry s m (16 * r.brick + r.off / 256) en) m r en true := by
  simp only [serveRead, hplace, hentry, hvalid, reduceCtorEq, if_false]

theorem serveRead_of_no_entry (hentry : storeEntry s m (16 * r.brick + r.off / 256) = none) :
    serveRead s m .none r = readHbm s m .none e r := by
  simp only [serveRead, hplace, hentry]

end ServeRead

section ReadEntry

variable {s : State} {m : Nat} {r : Req} {en : StoreEntry}

theorem readEntry_of_own (hown : en.owner = r.accord) (hvalid : en.state = .valid) :
    readEntry s m r en true = answer (countOp s m true) r none (readData r en.data) := by
  simp only [readEntry, hown, ne_eq, not_true, if_false, hvalid, and_self, if_true]

theorem readEntry_of_foreign (hforeign : en.owner ≠ r.accord) (hit : Bool) : readEntry s m r en hit = refuse s m r .access :=
  if_pos hforeign.symm

end ReadEntry

/-- Operations counted leave the service list and the stack alone. -/
theorem getMpe_countOp_self (s : State) (n : Nat) (hit : Bool) :
    getMpe (countOp s n hit) n = { getMpe s n with
      axuOps := ((getMpe s n).axuOps + 1) % 2 ^ 32, axuHits := ((getMpe s n).axuHits + b2n hit) % 2 ^ 32 } :=
  getMpe_updMpe_self ..

/-! A read that no entry serves goes by the plan of its region. -/

section ReadHbm

variable {s t : State} {m : Nat} {r : Req} {e : RtEntry} (hfull : readsFull (getMpe s m) = false)

include hfull

theorem readHbm_of_plan_unknown (hplan : planKnown (getMpe s m) e r.brick = false) :
    readHbm s m .none e r = postRead (countFor s m e r (getMpe s m)) m e r none := by
  simp only [readHbm, hfull, hplan, Bool.not_false, Bool.false_eq_true, if_false, if_true]

variable (hplan : planKnown (getMpe s m) e r.brick = true)

include hplan

theorem readHbm_of_mix
    (hread : planRead (countFor s m e r (getMpe s m)) m r.brick (r.off / 256) r.accord r.place = (t, .mix)) :
    readHbm s m .none e r = postRead t m e r none := by
  simp only [readHbm, hfull, hplan, hread, Bool.not_true, Bool.false_eq_true, if_false]

theorem readHbm_of_need {k : StretcherKey}
    (hread : planRead (countFor s m e r (getMpe s m)) m r.brick (r.off / 256) r.accord r.place = (t, .need k)) :
    readHbm s m .none e r = postRead t m e r none := by
  simp only [readHbm, hfull, hplan, hread, Bool.not_true, Bool.false_eq_true, if_false]

theorem readHbm_of_zero
    (hread : planRead (countFor s m e r (getMpe s m)) m r.brick (r.off / 256) r.accord r.place = (t, .zero)) :
    readHbm s m .none e r = answer t r none (readData r (zeros 256)) := by
  simp only [readHbm, hfull, hplan, hread, Bool.not_true, Bool.false_eq_true, if_false]

theorem readHbm_of_err {y : MemErr}
    (hread : planRead (countFor s m e r (getMpe s m)) m r.brick (r.off / 256) r.accord r.place = (t, .err y)) :
    readHbm s m .none e r = refuse t m r y := by
  simp only [readHbm, hfull, hplan, hread, Bool.not_true, Bool.false_eq_true, if_false]

end ReadHbm

/-- Settles O25: the read at the head of the service list is refused, served from its store entry, or planned from its region. -/
theorem readsHitEntry : Obligations.ReadsHitEntry := by
  intro s v m cg x tag r rest i hrunning hdry hready hreenc hbehind hcore hx hv hrow
  subst hx
  have hop : r.op = .readLine ∨ r.op = .readStretcher := hrow.imp And.left And.left
  have hengine : getMpe v m = { getMpe s m with ready := rest } := by rw [hv, getMpe_unlisted]
  have hserve : exec i s = .next (settleAll (serveRead v m .none r)) := by
    rw [← serveReq_of_read (s := v) (by rw [hv]; exact hdry) (by rw [hengine]; exact hreenc) (by rw [hengine]; exact hbehind) hop]
    obtain ⟨hline, rfl⟩ | ⟨hstretcher, rfl⟩ := hrow
    · exact (exec_readLine m .none s).trans (serveRow_of_head hready hv .none hrunning (by rw [hline]; rfl))
    · exact (exec_readStretcher m .none s).trans (serveRow_of_head hready hv .none hrunning (by rw [hstretcher]; rfl))
  have hstore (x : Nat) : storeEntry v m x = storeEntry s m x := storeEntry_congr (by rw [hengine]) x
  rw [hserve]
  refine ⟨fun y hplace => by rw [serveRead_of_error hplace], fun rt e hplace => ⟨fun en hentry hvalid => ?entry,
    fun hentry hfull => ?noEntry⟩⟩
  case entry =>
    rw [serveRead_of_valid hplace ((hstore _).trans hentry) hvalid]
    have hframe : { putEntry v m (16 * r.brick + r.off / 256) en with mpes := s.mpes, stamp := s.stamp } = s := by
      rw [hv]
      rfl
    by_cases hown : en.owner = r.accord
    · refine ⟨countOp (putEntry v m (16 * r.brick + r.off / 256) en) m true, hframe, ?_, ?_, fun _ => ?_,
        fun hforeign => absurd hown hforeign⟩
      · rw [getMpe_countOp_self, getMpe_putEntry_self, hengine]
      · rw [getMpe_countOp_self, getMpe_putEntry_self, hengine]
      · rw [readEntry_of_own hown hvalid, answer_ok_of_core hcore, readData_of_read hop]
        rfl
    · refine ⟨putEntry v m (16 * r.brick + r.off / 256) en, hframe, ?_, ?_, fun h => absurd h hown, fun hforeign => ?_⟩
      · rw [getMpe_putEntry_self, hengine]
      · rw [getMpe_putEntry_self, hengine]
      · rw [readEntry_of_foreign hforeign]
  case noEntry =>
    have hfull' : readsFull (getMpe v m) = false := by
      rw [hengine]
      exact hfull
    have hknown : planKnown (getMpe v m) e r.brick = planKnown (getMpe s m) e r.brick := by
      rw [hengine]
      rfl
    rw [serveRead_of_no_entry hplace ((hstore _).trans hentry), ← hknown]
    refine ⟨fun hplan => ?_, fun t hplan => ⟨fun hread => ?_, fun k hread => ?_, fun hread => ?_, fun y hread => ?_⟩⟩
    · rw [readHbm_of_plan_unknown hfull' hplan]
    · rw [readHbm_of_mix hfull' hplan hread]
    · rw [readHbm_of_need hfull' hplan hread]
    · rw [readHbm_of_zero hfull' hplan hread, answer_ok_of_core hcore, readData_of_read hop]
      rfl
    · rw [readHbm_of_err hfull' hplan hread]

end Sys2Proof.Machine

namespace Sys2Proof.Machine

/-! ## The operations of Table 8.2 -/

/-- The rows of Table 8.2, by their operation. -/
def atomicRow (k m : Nat) : Option Instr :=
  match k with
  | 0 => some (.add m .none)
  | 1 => some (.min m .none)
  | 2 => some (.max m .none)
  | 3 => some (.cas m .none)
  | 4 => some (.swap m .none)
  | 5 => some (.cellW64 m .none)
  | 6 => some (.cellX512 m .none)
  | 7 => some (.touch m .none)
  | _ => none

/-- Each row serves the atomics of its operation. -/
theorem exec_atomicRow {k m : Nat} {i : Instr} (hrow : atomicRow k m = some i) (s : State) :
    ∃ want : Req → Bool, exec i s = serveRow want m .none s ∧ ∀ r, isAop k r = true → want r = true := by
  unfold atomicRow at hrow
  split at hrow
  case h_1 =>
    cases hrow
    exact ⟨fun r => isAop 0 r || (r.op == .atomic && aopOf r.control ≥ 8), rfl, fun r h => by simp [h]⟩
  case h_9 => cases hrow
  all_goals
    cases hrow
    exact ⟨_, rfl, fun r h => h⟩

section ServeAtomic

variable {s : State} {m rt : Nat} {r : Req} {e : RtEntry}
  (hvalid : atomicValid r.control r.mask (r.off % 64) = true) (hplace : checkPlace s m r.brick false r.place = .ok (rt, e))

include hvalid hplace

/-- An operation with a mask that is not empty goes by the store entry it meets. -/
theorem serveAtomic_of_entry {en : StoreEntry} (hnonempty : emptyAtomic r = false)
    (hentry : storeEntry s m (16 * r.brick + r.off / 256) = some en) :
    serveAtomic s m .none r =
      if en.state = .filling then behindFill s m (16 * r.brick + r.off / 256) en r
      else opOnEntry s m (16 * r.brick + r.off / 256) r en true := by
  simp only [serveAtomic, hvalid, Bool.not_true, hplace, hentry, hnonempty, reduceCtorEq, Bool.false_eq_true, if_false, false_and]

theorem serveAtomic_of_no_entry (hentry : storeEntry s m (16 * r.brick + r.off / 256) = none) :
    serveAtomic s m .none r = atomicFill s m .none rt e r := by
  simp only [serveAtomic, hvalid, Bool.not_true, hplace, hentry]

end ServeAtomic

section OpOnEntry

variable {s : State} {m x : Nat} {r : Req} {en : StoreEntry} (hit : Bool)

theorem opOnEntry_of_foreign (hforeign : en.owner ≠ r.accord) : opOnEntry s m x r en hit = refuse s m r .access :=
  if_pos hforeign.symm

theorem opOnEntry_of_held (hown : en.owner = r.accord) (hheld : en.state = .held) :
    opOnEntry s m x r en hit = refuse s m r en.heldBy := by
  simp only [opOnEntry, hown, ne_eq, not_true, if_false, hheld, if_true]

theorem opOnEntry_of_valid (hown : en.owner = r.accord) (hvalid : en.state = .valid) :
    opOnEntry s m x r en hit = applyOp (countOp s m hit) m x r en := by
  simp only [opOnEntry, hown, ne_eq, not_true, if_false, hvalid, reduceCtorEq]

end OpOnEntry

/-- In class S of its own accord an operation without an entry begins a fill (R222). -/
theorem atomicFill_of_classS {s : State} {m rt : Nat} {r : Req} {e : RtEntry} (hcls : e.cls = .s) (hown : r.accord = e.owner)
    (hnonempty : emptyAtomic r = false) : atomicFill s m .none rt e r = startFill s m rt e r false (getMpe s m) := by
  have hplan : planKnown (getMpe s m) e r.brick = true := by rw [planKnown, hcls]; rfl
  simp only [atomicFill, hplan, Bool.not_true, Bool.false_eq_true, false_and, if_false, atomicPlan, hcls, if_pos hown, hnonempty,
    reduceCtorEq]

/-- The entry that a class S fill begins, with the operation that waits for it. -/
def fillingEntry (e : RtEntry) (rt : Nat) (r : Req) (read : Nat) : StoreEntry :=
  { state := .filling, owner := e.owner, cls := .s, rt := rt, waiting := [r], fillRead := some read }

theorem startFill_of_room {s t : State} {m rt : Nat} {r : Req} {e : RtEntry} (hcls : e.cls = .s)
    (hfull : readsFull (getMpe s m) = false)
    (hroom : makeRoom s m (16 * r.brick + r.off / 256) e.sched r.qos = (t, .ok)) (x : Mpe) :
    startFill s m rt e r false x =
      postRead (putEntry (updMpe t m fun y => { y with axuFills := (y.axuFills + 1) % 2 ^ 32 }) m (16 * r.brick + r.off / 256)
        (fillingEntry e rt r (getMpe t m).nextRead)) m e r (some (16 * r.brick + r.off / 256)) := by
  simp only [startFill, hfull, hroom, countFor, hcls, fillOwner, reduceCtorEq, Bool.false_eq_true, false_and, if_false,
    getMpe_updMpe_self, fillingEntry]

/-- Settles O27: the operation at the head of the service list goes by the state and the owner of its entry, and without one in class
S by a fill. -/
theorem atomicsHitEntry : Obligations.AtomicsHitEntry := by
  intro s v m x rt k r rest e i hrunning hdry hready hreenc hbehind hop hvalid hplace hx hnonempty hv hk hrow
  subst hx
  have hrow' : atomicRow k m = some i := by
    simp only [List.mem_cons, List.not_mem_nil, or_false, Prod.mk.injEq] at hrow
    obtain ⟨rfl, rfl⟩ | ⟨rfl, rfl⟩ | ⟨rfl, rfl⟩ | ⟨rfl, rfl⟩ | ⟨rfl, rfl⟩ | ⟨rfl, rfl⟩ | ⟨rfl, rfl⟩ | ⟨rfl, rfl⟩ := hrow
    all_goals rfl
  have hengine : getMpe v m = { getMpe s m with ready := rest } := by rw [hv, getMpe_unlisted]
  have hserve : exec i s = .next (settleAll (serveAtomic v m .none r)) := by
    obtain ⟨want, hexec, hwant⟩ := exec_atomicRow hrow' s
    rw [← serveReq_of_atomic (s := v) (by rw [hv]; exact hdry) (by rw [hengine]; exact hreenc) (by rw [hengine]; exact hbehind)
      hop, hexec]
    exact serveRow_of_head hready hv .none hrunning (hwant r (by rw [isAop, hop, hk]; simp))
  have hplace' : checkPlace v m r.brick false r.place = .ok (rt, e) := by rw [hv, checkPlace_unlisted, hplace]
  have hstore (x : Nat) : storeEntry v m x = storeEntry s m x := storeEntry_congr (by rw [hengine]) x
  rw [hserve]
  refine ⟨fun en hentry => ?entry, fun t hentry hcls hown hfull hroom => ?fill⟩
  case entry =>
    rw [serveAtomic_of_entry hvalid hplace' hnonempty ((hstore _).trans hentry)]
    refine ⟨fun hstate hown => ?_, fun hstate hforeign => ?_, fun hstate hown => ?_, fun hstate => ?_⟩
    · rw [if_neg (by rw [hstate]; decide), opOnEntry_of_valid true hown hstate]
      rfl
    · rw [if_neg hstate, opOnEntry_of_foreign true hforeign]
    · rw [if_neg (by rw [hstate]; decide), opOnEntry_of_held true hown hstate]
    · rw [if_pos hstate, behindFill]
  case fill =>
    have hfull' : readsFull (getMpe v m) = false := by
      rw [hengine]
      exact hfull
    rw [serveAtomic_of_no_entry hvalid hplace' ((hstore _).trans hentry), atomicFill_of_classS hcls hown hnonempty,
      startFill_of_room hcls hfull' hroom, fillingEntry]

end Sys2Proof.Machine

namespace Sys2Proof.Machine

/-! ## What a response leaves alone -/

/-- The block without what a doorbell sets. -/
def outsideDoorbells (s : State) : State := { s with queues := [], foreignDb := 0 }

theorem outsideDoorbells_forwardDoorbell (s : State) (a : Nat) (w : Word) :
    outsideDoorbells (forwardDoorbell s a w) = outsideDoorbells s :=
  (congrArg outsideDoorbells (forwardDoorbell_frame s a w) :)

/-- A response releases doorbells, and touches no memory engine. -/
@[simp] theorem mpes_respond (s : State) (cg : Nat) (tag : BitVec 16) (ok : Bool) (d : Bytes) :
    (respond s cg tag ok d).mpes = s.mpes :=
  foldl_keeps (f := fun s (d : Word × List (BitVec 16)) => forwardDoorbell s _ d.1) (g := State.mpes)
    (fun t d => (congrArg State.mpes (outsideDoorbells_forwardDoorbell t _ d.1) :)) _ _

@[simp] theorem mpes_refusedData (s : State) (r : Req) : (refusedData s r).1.mpes = s.mpes := by
  unfold refusedData
  split <;> rfl

theorem getMpe_of_mpes {s t : State} (h : t.mpes = s.mpes) (k : Nat) : getMpe t k = getMpe s k := by
  rw [getMpe, h, getMpe]

/-- A fault of the memory engine at most counts in the engine. -/
theorem hbm_raiseMem (s : State) (n : Nat) (r : Req) (e : MemErr) (k : Nat) :
    (getMpe (raiseMem s n r e) k).hbm = (getMpe s k).hbm := by
  unfold raiseMem
  dsimp only
  rw [getMpe_of_mpes (raise_mpes _ _)]
  split
  next hcapstone => rw [if_neg (by rw [hcapstone]; decide)]; rfl
  next =>
    split
    next =>
      by_cases hk : k = n
      · rw [hk, getMpe_updMpe_self]
      · rw [getMpe_updMpe_ne _ _ _ _ hk]
    next => rfl

/-- A request of a core group that is refused writes nothing to HBM. -/
theorem hbm_refuse_of_core {r : Req} {cg : Nat} {tag : BitVec 16} (hcore : r.origin = .core cg tag) (s : State) (m : Nat)
    (e : MemErr) (k : Nat) : (getMpe (refuse s m r e) k).hbm = (getMpe s k).hbm := by
  rw [refuse, answer_error_of_core hcore, getMpe_of_mpes (mpes_respond ..), getMpe_of_mpes (mpes_refusedData ..), hbm_raiseMem]

/-! ## Bytes written to a stack (Table 7.4) -/

/-- The state `t` that writing makes of `s`: the bytes of stack `n` are `h`, the commands to its memory are told, and nothing else
is changed. -/
structure HbmWritten (n : Nat) (s : State) (h : List Host.Cell) (t : State) : Prop where
  outside : outsideMpes t = outsideMpes s
  others : ∀ k, k ≠ n → getMpe t k = getMpe s k
  engine : ∃ out, getMpe t n = { getMpe s n with hbm := h, hbmOut := out }

namespace HbmWritten

variable {n : Nat} {s t u : State} {h k : List Host.Cell}

theorem refl (n : Nat) (s : State) : HbmWritten n s (getMpe s n).hbm s := ⟨rfl, fun _ _ => rfl, (getMpe s n).hbmOut, rfl⟩

theorem hbm_eq (hw : HbmWritten n s h t) : (getMpe t n).hbm = h := by
  obtain ⟨out, hout⟩ := hw.engine
  rw [hout]

theorem capState_eq (hw : HbmWritten n s h t) : (getMpe t n).capState = (getMpe s n).capState := by
  obtain ⟨out, hout⟩ := hw.engine
  rw [hout]

theorem findRegion_eq (hw : HbmWritten n s h t) (b : Nat) : findRegion (getMpe t n) b = findRegion (getMpe s n) b := by
  obtain ⟨out, hout⟩ := hw.engine
  rw [hout]
  rfl

theorem trans (hst : HbmWritten n s h t) (htu : HbmWritten n t k u) : HbmWritten n s k u := by
  obtain ⟨out, hout⟩ := hst.engine
  obtain ⟨out', hout'⟩ := htu.engine
  exact ⟨htu.outside.trans hst.outside, fun j hj => (htu.others j hj).trans (hst.others j hj), out', by rw [hout', hout]⟩

/-- A write to a stack that is not halted. -/
theorem of_hbmWrite (hcap : (getMpe s n).capState ≠ 2) (a : Nat) (d : Bytes) :
    HbmWritten n s (memWriteBytes (getMpe s n).hbm 0 a d) (hbmWrite s n a d) :=
  ⟨rfl, fun j hj => getMpe_updMpe_ne _ _ _ _ hj, _, by rw [hbmWrite, getMpe_updMpe_self, if_neg hcap]; rfl⟩

/-- Blocks written one after another, those masked out left as they were. -/
theorem foldl (skip : Nat → Prop) [DecidablePred skip] (a : Nat → Nat) (d : Nat → Bytes) (l : List Nat) (s : State)
    (hcap : (getMpe s n).capState ≠ 2) :
    HbmWritten n s (l.foldl (fun h k => if skip k then h else memWriteBytes h 0 (a k) (d k)) (getMpe s n).hbm)
      (l.foldl (fun s k => if skip k then s else hbmWrite s n (a k) (d k)) s) := by
  induction l generalizing s with
  | nil => exact refl n s
  | cons x l ih =>
    rw [List.foldl_cons, List.foldl_cons]
    by_cases hskip : skip x
    · rw [if_pos hskip, if_pos hskip]
      exact ih s hcap
    · rw [if_neg hskip, if_neg hskip]
      have hwrite := of_hbmWrite hcap (a x) (d x)
      have hrest := ih (hbmWrite s n (a x) (d x)) (by rw [hwrite.capState_eq]; exact hcap)
      rw [hwrite.hbm_eq] at hrest
      exact hwrite.trans hrest

end HbmWritten

/-! ## WRITE_LINE, WRITE_STRETCHER and WRITE_BRICK (R183, R187, R222) -/

/-- The row of a plain write. -/
def writeRow (op : MemOp) (m : Nat) : Option Instr :=
  match op with
  | .writeLine => some (.writeLine m .none)
  | .writeStretcher => some (.writeStretcher m .none)
  | .writeBrick => some (.writeBrick m .none)
  | _ => none

/-- Each row serves the writes of its operation. -/
theorem exec_writeRow {op : MemOp} {m : Nat} {i : Instr} (hrow : writeRow op m = some i) (s : State) :
    exec i s = serveRow (fun r => r.op == op) m .none s := by
  unfold writeRow at hrow
  split at hrow
  case h_4 => cases hrow
  all_goals
    cases hrow
    rfl

/-- A write whose keys are at hand does not go to the residency buffer. -/
theorem not_lacksKeys {s : State} {r : Req} {e : RtEntry}
    (hkeys : e.cls ≠ .s → r.accord = e.owner → (heartOf s e.owner).isSome = true) :
    ¬(e.cls ≠ .s ∧ r.accord = e.owner ∧ (heartOf s e.owner).isNone = true) := by
  rintro ⟨hcls, hown, hnone⟩
  have hsome := hkeys hcls hown
  rw [Option.isNone_iff_eq_none.1 hnone] at hsome
  cases hsome

section ServeWrite

variable {s : State} {m : Nat} {r : Req}

theorem serveWrite_of_error {x : MemErr} (hplace : checkPlace s m r.brick false r.place = .error x) :
    serveWrite s m .none r = refuse s m r x := by
  rw [serveWrite, hplace]

variable {rt : Nat} {e : RtEntry} (hplace : checkPlace s m r.brick false r.place = .ok (rt, e)) (hwaits : writeWaits s m r = false)
  (hkeys : e.cls ≠ .s → r.accord = e.owner → (heartOf s e.owner).isSome = true)

include hplace hwaits hkeys

/-- A write that nothing holds up meets the store's entries first. -/
theorem serveWrite_of_entries_refuse {w : State} {y : MemErr} (hentries : meetEntries s m e r = (w, some y)) :
    serveWrite s m .none r = refuse w m r y := by
  simp only [serveWrite, hplace, hwaits, Bool.false_eq_true, if_false, if_neg (not_lacksKeys hkeys), hentries]

variable {w t : State} (hentries : meetEntries s m e r = (w, none))

include hentries

theorem serveWrite_of_written : serveWrite s m .none r =
    match writeLogged w m r false with
    | (t, .err x) => refuse t m r x
    | (t, .done) => answer t r none []
    | (t, .reenc) => updMpe t m fun y => { y with reenc := y.reenc ++ [{ brick := r.brick, req := r }] } := by
  simp only [serveWrite, hplace, hwaits, Bool.false_eq_true, if_false, if_neg (not_lacksKeys hkeys), hentries]
  rcases writeLogged w m r false with ⟨t, _ | _ | _⟩ <;> rfl

end ServeWrite

/-! ## A class S write with no store entry in its way -/

/-- Without an entry at its stretchers a write meets none. -/
theorem clearEntries_of_none {s : State} {n : Nat} {q : Req} (hnone : ∀ x ∈ stretchersOf q, storeEntry s n x = none) :
    clearEntries s n q = (s, none) := by
  unfold clearEntries
  generalize stretchersOf q = l at hnone
  induction l with
  | nil => rfl
  | cons x l ih =>
    have hx := hnone x List.mem_cons_self
    rw [List.foldl_cons]
    simp only [Option.isSome_none, Bool.false_eq_true, if_false, forceFill, writeBackEntry, hx]
    exact ih fun y hy => hnone y (List.mem_cons_of_mem _ hy)

theorem meetEntries_of_none {s : State} {n : Nat} {e : RtEntry} {r : Req}
    (hnone : ∀ x ∈ stretchersOf r, storeEntry s n x = none) : meetEntries s n e r = (s, none) := by
  have hheld : ((stretchersOf r).findSome? fun x => (storeEntry s n x).bind fun en =>
      if en.state = .held then some en.heldBy else none) = none :=
    List.findSome?_eq_none_iff.2 fun x hx => by rw [hnone x hx]; rfl
  rw [meetEntries, hheld, clearEntries_of_none hnone, ite_self, ite_self]

/-- A request that the checks of its place let on reaches a stack that is not halted, at the region it was accepted under. -/
theorem checkPlace_ok {s : State} {n b rt : Nat} {e : RtEntry} (hplace : checkPlace s n b false none = .ok (rt, e)) :
    (getMpe s n).capState ≠ 2 ∧ findRegion (getMpe s n) b = some (rt, e) := by
  unfold checkPlace at hplace
  dsimp only at hplace
  split at hplace
  next => cases hplace
  next hcap =>
    simp only [Bool.false_eq_true, if_false, Option.orElse_none] at hplace
    split at hplace
    next => cases hplace
    next rt' e' hregion =>
      refine ⟨hcap, ?_⟩
      rw [hregion]
      split at hplace
      · cases hplace
      split at hplace
      · cases hplace
      split at hplace
      · cases hplace
      injection hplace with hplace
      rw [hplace]

/-- What a class S write that reads nothing leaves of a stack's bytes. -/
def classSBytes (s : State) (m : Nat) (r : Req) : List Host.Cell :=
  if r.op = .writeLine then
    if r.mask = 0 then (getMpe s m).hbm
    else (List.range 4).foldl (fun h k =>
      if fld r.mask (16 * k) (16 * k) = 0 then h
      else memWriteBytes h 0 (dataAddr r.brick (r.off / 64 * 64) + 16 * k)
        (bslice (mixLines (k5 s) false m r.brick (r.off / 64) (bslice r.data 0 64)) (16 * k) 16)) (getMpe s m).hbm
  else memWriteBytes (getMpe s m).hbm 0 (dataAddr r.brick r.off) (mixLines (k5 s) false m r.brick (r.off / 64) r.data)

theorem writeS_of_blocks {s : State} {m : Nat} {e : RtEntry} {r : Req} (hown : r.accord = e.owner)
    (hcap : (getMpe s m).capState ≠ 2) (hmask : r.op ≠ .writeLine ∨ r.mask = 0 ∨ blockMask r.mask = true) :
    ∃ t, writeS s m e r = (t, .done) ∧ HbmWritten m s (classSBytes s m r) t := by
  unfold writeS classSBytes
  rw [if_neg (Classical.not_not.2 hown)]
  by_cases hline : r.op = .writeLine
  · rw [if_pos hline, if_pos hline]
    by_cases hzero : r.mask = 0
    · rw [if_pos hzero, if_pos hzero]
      exact ⟨s, rfl, .refl m s⟩
    · have hblocks : blockMask r.mask = true := (hmask.resolve_left (Classical.not_not.2 hline)).resolve_left hzero
      rw [if_neg hzero, if_neg hzero]
      dsimp only
      rw [if_pos hblocks]
      exact ⟨_, rfl, .foldl (fun k => fld r.mask (16 * k) (16 * k) = 0) _ _ _ s hcap⟩
  · rw [if_neg hline, if_neg hline]
    exact ⟨_, rfl, .of_hbmWrite hcap _ _⟩

/-- A class S brick has no sillage. -/
theorem logWrite_of_classS {s : State} {n b rt : Nat} {e : RtEntry} (hregion : findRegion (getMpe s n) b = some (rt, e))
    (hcls : e.cls = .s) (q : Req) : logWrite s n b q = s := by
  simp only [logWrite, hregion, hcls, if_true]

theorem writeLogged_of_classS {s : State} {m rt : Nat} {e : RtEntry} {r : Req}
    (hplace : checkPlace s m r.brick false r.place = .ok (rt, e)) (hnoPlace : r.place = none) (hcls : e.cls = .s)
    (hown : r.accord = e.owner) (hmask : r.op ≠ .writeLine ∨ r.mask = 0 ∨ blockMask r.mask = true) :
    ∃ t, writeLogged s m r false = (t, .done) ∧ HbmWritten m s (classSBytes s m r) t := by
  obtain ⟨hcap, hregion⟩ := checkPlace_ok (hnoPlace ▸ hplace)
  obtain ⟨t, hwrite, hwritten⟩ := writeS_of_blocks hown hcap hmask
  have hcore : writeCore s m r false = (t, .done) := by simp only [writeCore, hplace, hcls, hwrite]
  refine ⟨t, ?_, hwritten⟩
  simp only [writeLogged, hcore, logWrite_of_classS ((hwritten.findRegion_eq r.brick).trans hregion) hcls, ite_self]

/-- Settles O26: the write at the head of the service list is refused, kept for a re-encryption or carried out, and in class S the
bytes written are those of Table 7.4. -/
theorem writesAnswered : Obligations.WritesAnswered := by
  refine ⟨fun s v m r rest i hrunning hdry hready hreenc hbehind hv hrow => ?writes, fun s m r e cg tag hcore k =>
    hbm_refuse_of_core hcore s m e k⟩
  case writes =>
    have hrow' : writeRow r.op m = some i := by
      obtain ⟨hop, rfl⟩ | ⟨hop, rfl⟩ | ⟨hop, rfl⟩ := hrow <;> rw [hop] <;> rfl
    have hop : r.op = .writeLine ∨ r.op = .writeStretcher ∨ r.op = .writeBrick := hrow.imp And.left (Or.imp And.left And.left)
    have hengine : getMpe v m = { getMpe s m with ready := rest } := by rw [hv, getMpe_unlisted]
    have hserve : exec i s = .next (settleAll (serveWrite v m .none r)) := by
      rw [← serveReq_of_write (s := v) (by rw [hv]; exact hdry) (by rw [hengine]; exact hreenc) (by rw [hengine]; exact hbehind)
        hop, exec_writeRow hrow']
      exact serveRow_of_head hready hv .none hrunning (by simp)
    have hstore (x : Nat) : storeEntry v m x = storeEntry s m x := storeEntry_congr (by rw [hengine]) x
    rw [hserve]
    refine ⟨fun x hplace => by rw [serveWrite_of_error hplace], fun rt e w t hplace hwaits hkeys => ⟨fun y hentries => ?_,
      fun hentries => ⟨fun hdone => ?_, fun hreenc => ?_, fun y herr => ?_⟩, fun hcls hown hnoPlace hnone hmask => ?_⟩⟩
    · rw [serveWrite_of_entries_refuse hplace hwaits hkeys hentries]
    · rw [serveWrite_of_written hplace hwaits hkeys hentries, hdone]
    · rw [serveWrite_of_written hplace hwaits hkeys hentries, hreenc]
    · rw [serveWrite_of_written hplace hwaits hkeys hentries, herr]
    · have hentries : meetEntries v m e r = (v, none) := meetEntries_of_none fun x hx => (hstore x).trans (hnone x hx)
      obtain ⟨u, hdone, hwritten⟩ := writeLogged_of_classS hplace hnoPlace hcls hown hmask
      have hk5 : k5 v = k5 s := by rw [hv]; rfl
      have hbytes : classSBytes v m r = classSBytes s m r := by rw [classSBytes, hk5, hengine, classSBytes]
      refine ⟨u, ?_, fun k hk => ?_, ?_, ?_⟩
      · rw [serveWrite_of_written hplace hwaits hkeys hentries, hdone]
      · rw [hwritten.others k hk, hv, getMpe_updMpe_ne _ _ _ _ hk]
      · exact withMpes_of_outsideMpes (hwritten.outside.trans (by rw [hv]; rfl))
      · rw [hwritten.hbm_eq, hbytes, classSBytes]

end Sys2Proof.Machine

namespace Sys2Proof.Machine

/-! ## What an operation on an entry leaves (R221, R230) -/

/-- The region's entry after an operation on its cells. -/
def cellsNoted (e : RtEntry) (fl : CellFlags) : RtEntry :=
  { e with overflow := e.overflow || fl.overflow, invalid := e.invalid || fl.invalid, loss := satAdd 32 e.loss fl.loss }

theorem getMpe_noteCells_self {s : State} {n rt : Nat} {e : RtEntry} (hrt : tget (getMpe s n).rt rt = some e) (fl : CellFlags) :
    getMpe (noteCells s n rt fl) n = { getMpe s n with rt := tset (getMpe s n).rt rt (cellsNoted e fl) } := by
  rw [noteCells, getMpe_updMpe_self, hrt]
  rfl

section ApplyOp

variable (r : Req) (en : StoreEntry) (f : Int)

/-- The line of the entry that the operation names, after it, with the cell flags it raised. -/
def lineApplied : Bytes × CellFlags :=
  applyAtomic r.control r.mask (r.off % 64) r.data (bslice en.data (r.off % 256 / 64 * 64) 64) f

/-- The entry after the operation, dirty once its bytes differ. -/
def entryApplied : StoreEntry :=
  { en with
    data := bput en.data (r.off % 256 / 64 * 64) (lineApplied r en f).1
    dirty := en.dirty || bput en.data (r.off % 256 / 64 * 64) (lineApplied r en f).1 != en.data }

/-- The answer to an operation: the old value where it is asked for. -/
def opAnswer : Bytes :=
  if wantsOld r.control then oldValue r.control (r.off % 64) (bslice en.data (r.off % 256 / 64 * 64) 64) else []

end ApplyOp

/-- An operation changes its entry, notes its cells, and answers. -/
theorem applyOp_eq {s : State} {m x : Nat} {r : Req} {en : StoreEntry} {e : RtEntry}
    (hrt : tget (getMpe s m).rt en.rt = some e) :
    applyOp s m x r en = answer (noteCells (putEntry s m x (entryApplied r en e.f.toInt)) m en.rt
      (lineApplied r en e.f.toInt).2) r none (opAnswer r en) := by
  simp only [applyOp, hrt, Option.map_some, Option.getD_some, entryApplied, lineApplied, opAnswer]

/-- The engine after an operation: its entry in the store, its cell flags gathered. -/
theorem getMpe_applyOp_self {s : State} {m x : Nat} {r : Req} {en : StoreEntry} {e : RtEntry} {cg : Nat} {tag : BitVec 16}
    (hcore : r.origin = .core cg tag) (hrt : tget (getMpe s m).rt en.rt = some e) :
    getMpe (applyOp s m x r en) m = { getMpe s m with
      store := tset (getMpe s m).store x { entryApplied r en e.f.toInt with lastUse := s.stamp }
      rt := tset (getMpe s m).rt en.rt (cellsNoted e (lineApplied r en e.f.toInt).2) } := by
  rw [applyOp_eq hrt, answer_ok_of_core hcore, getMpe_of_mpes (mpes_respond ..),
    getMpe_noteCells_self (e := e) (by rw [getMpe_putEntry_self]; exact hrt), getMpe_putEntry_self]

/-- Settles O28: the operation leaves the entry with the line `applyAtomic` makes, gathers the cell flags and answers. -/
theorem applyOpFrame : Obligations.ApplyOpFrame := by
  intro s m x r en e cg tag l hcore hdoorbells hrt hl
  subst hl
  have hengine := getMpe_applyOp_self (x := x) hcore hrt
  refine ⟨{ entryApplied r en e.f.toInt with lastUse := s.stamp }, cellsNoted e (lineApplied r en e.f.toInt).2, ?entry, rfl, rfl, rfl,
    fun hdirty => ?dirty, fun hdiffer => ?differs, ?region, fun hoverflow => ?overflow, fun hinvalid => ?invalid, ?hbm,
    fun y hy => ?others, ?answer⟩
  case entry => rw [storeEntry, hengine, tget_tset_self]
  case dirty => simp only [entryApplied, hdirty, Bool.true_or]
  case differs =>
    have hbne : (bput en.data (r.off % 256 / 64 * 64) (lineApplied r en e.f.toInt).1 != en.data) = true := bne_iff_ne.2 hdiffer
    simp only [entryApplied, hbne, Bool.or_true]
  case region => rw [hengine, tget_tset_self]
  case overflow => simp only [cellsNoted, hoverflow, Bool.true_or]
  case invalid => simp only [cellsNoted, hinvalid, Bool.true_or]
  case hbm => rw [hengine]
  case others => rw [storeEntry, hengine, tget_tset_ne _ _ _ _ hy, storeEntry]
  case answer =>
    rw [applyOp_eq hrt, answer_ok_of_core hcore, respond_of_no_doorbells (by exact hdoorbells)]
    rfl

end Sys2Proof.Machine

namespace Sys2Proof.Machine

/-! ## Read data that returns (R186) -/

theorem exec_hbmReadReturn {s : State} (m rid : Nat) (part : HbmPart) (line : Option Line) (rerr : BitVec 2)
    (hrunning : running s = true) : exec (.hbmReadReturn m rid part line rerr) s = .next (settleAll (lineArrives s m rid part line rerr)) :=
  if_pos hrunning

theorem exec_storeFillComplete {s : State} (m x : Nat) (hrunning : running s = true) :
    exec (.storeFillComplete m x) s = .next (settle (fillComplete s m x)) := if_pos hrunning

theorem exec_reencryptionComplete {s : State} (m b : Nat) (hrunning : running s = true) :
    exec (.reencryptionComplete m b) s = .next (settleAll (reencComplete s m b)) := if_pos hrunning

/-- A posted read once a line of it has come. -/
def lineTaken (s : State) (m : Nat) (p : PendingRead) (part : HbmPart) (line : Option Line) (rerr : BitVec 2) : PendingRead :=
  { p with
    need := p.need.erase part
    got := if line.isSome ∨ rerr ≠ 0
      then p.got ++ [(part, line.getD (storedPart s m p.req.brick (p.req.off / 256) part), rerr)] else p.got }

section LineArrives

variable {s : State} {m rid : Nat} {p : PendingRead} {part : HbmPart} (line : Option Line) (rerr : BitVec 2)
  (hread : tget (getMpe s m).reads rid = some p) (hneeded : p.need.contains part = true)

include hread hneeded

theorem lineArrives_of_more (hmore : p.need.erase part ≠ []) :
    lineArrives s m rid part line rerr =
      updMpe s m fun x => { x with reads := tset x.reads rid (lineTaken s m p part line rerr) } := by
  simp only [lineArrives, hread, hneeded, Bool.not_true, Bool.false_eq_true, if_false, List.isEmpty_eq_false_iff.2 hmore, lineTaken]

theorem lineArrives_of_last (hlast : p.need.erase part = []) :
    lineArrives s m rid part line rerr =
      finishEpochC (finishEpochR (completeRead s m rid (lineTaken s m p part line rerr))) := by
  simp only [lineArrives, hread, hneeded, Bool.not_true, Bool.false_eq_true, if_false, hlast, List.isEmpty_nil, if_true, lineTaken]

end LineArrives

section CompleteRead

variable {s t : State} {m rid : Nat} {p : PendingRead} (hdry : inDry s = false) (hfill : p.fill = none)

include hdry hfill

theorem completeRead_of_data {d : Bytes} (hend : endRead s m p = (t, .data d)) :
    completeRead s m rid p =
      answer (updMpe t m fun m => { m with reads := tdel m.reads rid }) p.req none (readData p.req d) := by
  simp only [completeRead, hdry, Bool.false_eq_true, if_false, hend, hfill]

theorem completeRead_of_err {e : MemErr} (hend : endRead s m p = (t, .err e)) :
    completeRead s m rid p = refuse (updMpe t m fun m => { m with reads := tdel m.reads rid }) m p.req e := by
  simp only [completeRead, hdry, Bool.false_eq_true, if_false, hend, hfill]

end CompleteRead

/-- Data of a class C or R stretcher has opened under its tag, and no line of it was uncorrectable. -/
theorem openStretcher_of_authenticate {s t : State} {m : Nat} {p : PendingRead} {k : StretcherKey} {d : Bytes}
    (hdata : authenticate s m p k = (t, .data d)) :
    ∃ ct tag, gotStretcher s m p true = (ct, tag, false) ∧ openStretcher k ct tag = some d := by
  rcases hgot : gotStretcher s m p true with ⟨ct, tag, ue⟩
  simp only [authenticate, hgot] at hdata
  cases ue with
  | true =>
    simp only [if_true] at hdata
    split at hdata
    · cases hdata
    · cases hdata
  | false =>
    cases hopen : openStretcher k ct tag with
    | some d' =>
      simp only [Bool.false_eq_true, if_false, hopen, Prod.mk.injEq, ReadEnd.data.injEq] at hdata
      exact ⟨ct, tag, rfl, by rw [hopen, hdata.2]⟩
    | none =>
      simp only [Bool.false_eq_true, if_false, hopen, false_or] at hdata
      split at hdata
      · cases hdata
      · split at hdata <;> cases hdata

/-! ## Fills (R222) -/

section FillComplete

variable {s : State} {m x : Nat} {en : StoreEntry} (hentry : storeEntry s m x = some en)

include hentry

/-- The entry that a fill whose data is in leaves. -/
def filledEntry (en : StoreEntry) (d : Bytes) : StoreEntry :=
  { en with state := .valid, data := d, fillResult := none, fillRead := none, waiting := [] }

theorem fillComplete_of_data {d : Bytes} (hresult : en.fillResult = some (.data d)) :
    fillComplete s m x = en.waiting.foldl (fun s r => serveWaiting s m x r) (putEntry s m x (filledEntry en d)) := by
  simp only [fillComplete, hentry, hresult, filledEntry]

theorem fillComplete_of_failed {e : MemErr} (hresult : en.fillResult = some (.failed e)) :
    fillComplete s m x =
      en.waiting.foldl (fun s r => refuse s m r (if r.accord = en.owner then e else .access)) (dropEntry s m x) := by
  simp only [fillComplete, hentry, hresult]

end FillComplete

theorem storeEntry_dropEntry_self (s : State) (n x : Nat) : storeEntry (dropEntry s n x) n x = none := by
  rw [storeEntry, dropEntry, getMpe_updMpe_self, tget_tdel_self]

theorem storeEntry_dropEntry_ne (s : State) (n : Nat) {x y : Nat} (h : y ≠ x) :
    storeEntry (dropEntry s n x) n y = storeEntry s n y := by
  rw [storeEntry, dropEntry, getMpe_updMpe_self, tget_tdel_ne _ _ _ h, storeEntry]

/-! ## Re-encryptions (R188) -/

section Reenc

variable {s : State} {m b : Nat} {y : Reenc} (hfound : (getMpe s m).reenc.find? (fun x => x.brick == b) = some y)

include hfound

theorem reencComplete_of_reads (hreads : ((getMpe s m).reads.any fun p => p.2.req.brick == b) = true) :
    reencComplete s m b = s := by
  simp only [reencComplete, hfound, hreads, if_true]

/-- A brick's write that no read holds up is carried out and answered, and what was held for the brick goes on. -/
theorem reencComplete_of_write {t : State} (hreads : ((getMpe s m).reads.any fun p => p.2.req.brick == b) = false)
    (hwrite : y.sched = false)
    (hdone : writeLogged (updMpe s m fun x => { x with reenc := x.reenc.erase y }) m y.req true = (t, .done)) :
    reencComplete s m b = resumeHeld (answer t y.req none []) m b := by
  have hbrick : y.brick = b := by simpa using List.find?_some hfound
  simp only [reencComplete, hfound, hreads, Bool.false_eq_true, if_false, finishReenc, hwrite, hdone, hbrick]

end Reenc

/-! ## What a read that is refused answers -/

theorem answer_error_of_read {s : State} {r : Req} {cg : Nat} {tag : BitVec 16} (hcore : r.origin = .core cg tag)
    (hop : r.op = .readLine ∨ r.op = .readStretcher) (e : MemErr) :
    answer s r (some e) [] = respond s cg tag false (zeros (if r.op = .readLine then 64 else 256)) := by
  rw [answer_error_of_core hcore]
  obtain hop | hop := hop <;> simp only [refusedData, answerSize, hop, reduceCtorEq, false_and, if_false, if_true]

theorem responses_raiseMem (s : State) (n : Nat) (r : Req) (e : MemErr) : (raiseMem s n r e).responses = s.responses := by
  unfold raiseMem
  dsimp only
  rw [raise_responses]
  split <;> split <;> rfl

theorem cores_raiseMem (s : State) (n : Nat) (r : Req) (e : MemErr) : (raiseMem s n r e).cores = s.cores := by
  unfold raiseMem
  dsimp only
  rw [raise_cores]
  split <;> split <;> rfl

/-- Settles O29: a returned line is kept or ends its read, a fill ends with its entry VALID or dropped, and a re-encryption ends with
its write. -/
theorem readReturnSteps : Obligations.ReadReturnSteps := by
  refine ⟨fun s m k hrunning => ⟨fun p part line rerr got hread hneeded hgot => ?line, fun en d hentry hresult => ?filled,
      fun en e hentry hresult => ?failed, fun y hfound => ⟨fun hreads => ?waits, fun v t hreads hwrite hv hdone => ?done⟩⟩,
    fun s t m k p hdry hfill => ⟨fun d hend => completeRead_of_data hdry hfill hend,
      fun e hend => completeRead_of_err hdry hfill hend⟩,
    fun s t m p k d hdata => openStretcher_of_authenticate hdata, fun s m r e cg tag hcore hdoorbells hop => ?refused,
    fun s m b => ?held⟩
  case line =>
    subst hgot
    rw [exec_hbmReadReturn m k part line rerr hrunning]
    refine ⟨fun hmore => ?_, fun hlast => ?_⟩
    · rw [lineArrives_of_more line rerr hread hneeded hmore]
      rfl
    · rw [lineArrives_of_last line rerr hread hneeded hlast, lineTaken, hlast]
  case filled =>
    refine ⟨putEntry s m k (filledEntry en d), { filledEntry en d with lastUse := s.stamp }, ?_, storeEntry_putEntry_self .., rfl, rfl,
      rfl, fun y hy => storeEntry_putEntry_ne s m _ hy, rfl⟩
    rw [exec_storeFillComplete m k hrunning, fillComplete_of_data hentry hresult]
  case failed =>
    refine ⟨dropEntry s m k, ?_, storeEntry_dropEntry_self .., fun y hy => storeEntry_dropEntry_ne s m hy, rfl⟩
    rw [exec_storeFillComplete m k hrunning, fillComplete_of_failed hentry hresult]
  case waits => rw [exec_reencryptionComplete m k hrunning, reencComplete_of_reads hfound hreads]
  case done =>
    subst hv
    rw [exec_reencryptionComplete m k hrunning, reencComplete_of_write hfound hreads hwrite hdone]
  case refused =>
    have hnone : (getCore (raiseMem s m r e) cg).doorbells = [] := by
      rw [getCore, cores_raiseMem]
      exact hdoorbells
    rw [refuse, answer_error_of_read hcore hop, respond_of_no_doorbells hnone]
    exact congrArg (· ++ _) (responses_raiseMem s m r e)
  case held => rw [resumeHeld, getMpe_updMpe_self]

end Sys2Proof.Machine

namespace Sys2Proof.Machine

/-! ## What a port's own operations leave alone -/

/-- The block without its ports and its event controller. -/
def outsidePorts (s : State) : State := { s with ports := [], bec := {} }

/-- Two states that agree outside the ports are alike once the ports are put back. -/
theorem withPorts_of_outsidePorts {s t : State} (h : outsidePorts t = outsidePorts s) :
    { t with ports := s.ports, bec := s.bec } = s :=
  (congrArg (fun u : State => { u with ports := s.ports, bec := s.bec }) h :)

/-- The state `t` differs from `s` in port `p` and the event controller alone. -/
structure OnPort (p : Nat) (s t : State) : Prop where
  outside : outsidePorts t = outsidePorts s
  others : ∀ k, k ≠ p → getPort t k = getPort s k

namespace OnPort

variable {p : Nat} {s t u : State}

theorem refl (p : Nat) (s : State) : OnPort p s s := ⟨rfl, fun _ _ => rfl⟩

theorem trans (hst : OnPort p s t) (htu : OnPort p t u) : OnPort p s u :=
  ⟨htu.outside.trans hst.outside, fun k hk => (htu.others k hk).trans (hst.others k hk)⟩

theorem updPort (p : Nat) (s : State) (f : Port → Port) : OnPort p s (updPort s p f) :=
  ⟨rfl, fun _ hk => getPort_updPort_ne _ _ _ _ hk⟩

theorem pulse (p : Nat) (s : State) (n : Nat) : OnPort p s (pulse s n) := ⟨rfl, fun _ _ => rfl⟩

theorem foldl {α : Type} {f : State → α → State} (l : List α) (s : State) (hstep : ∀ s, ∀ x ∈ l, OnPort p s (f s x)) :
    OnPort p s (l.foldl f s) := by
  induction l generalizing s with
  | nil => exact refl p s
  | cons x l ih =>
    exact (hstep s x List.mem_cons_self).trans (ih _ fun t y hy => hstep t y (List.mem_cons_of_mem _ hy))

theorem frame (h : OnPort p s t) : { t with ports := s.ports, bec := s.bec } = s := withPorts_of_outsidePorts h.outside

end OnPort

/-! ## The state of a port -/

theorem setPortState_of_same {s : State} {p : Nat} {st : PortState} (h : (getPort s p).state = st) : setPortState s p st = s :=
  if_pos h

theorem setPortState_of_other {s : State} {p : Nat} {st : PortState} (h : (getPort s p).state ≠ st) :
    setPortState s p st = pulsePort (updPort s p fun x => { x with state := st }) p := if_neg h

theorem onPort_setPortState (s : State) (p : Nat) (st : PortState) : OnPort p s (setPortState s p st) := by
  unfold setPortState
  split
  · exact .refl p s
  · exact (OnPort.updPort p s _).trans (.pulse p _ _)

@[simp] theorem getPort_setPortState_self (s : State) (p : Nat) (st : PortState) :
    getPort (setPortState s p st) p = { getPort s p with state := st } := by
  by_cases h : (getPort s p).state = st
  · rw [setPortState_of_same h, ← h]
  · rw [setPortState_of_other h]
    exact getPort_updPort_self s p fun x => { x with state := st }

/-! ## Streams of a port -/

theorem getPort_updStream_self (s : State) (p e : Nat) (f : Stream → Stream) :
    getPort (updStream s p e f) p = { getPort s p with
      streams := tset (getPort s p).streams e (f (getStream s p e)) } :=
  getPort_updPort_self ..

@[simp] theorem getStream_updStream_self (s : State) (p e : Nat) (f : Stream → Stream) :
    getStream (updStream s p e f) p e = f (getStream s p e) := by
  rw [getStream, getPort_updStream_self, tgetD_tset_self]

theorem getStream_updStream_ne {s : State} {p e q k : Nat} (f : Stream → Stream) (h : (q, k) ≠ (p, e)) :
    getStream (updStream s p e f) q k = getStream s q k := by
  by_cases hq : q = p
  · subst hq
    rw [getStream, getPort_updStream_self, getStream]
    exact tgetD_tset_ne _ _ _ _ _ fun hk => h (by rw [hk])
  · rw [getStream, updStream, getPort_updPort_ne _ _ _ _ hq, getStream]

/-- A port operation that leaves the stream table leaves the streams. -/
theorem getStream_updPort_of_streams {s : State} {p : Nat} {f : Port → Port} (hf : ∀ x, (f x).streams = x.streams) (q k : Nat) :
    getStream (updPort s p f) q k = getStream s q k := by
  by_cases hq : q = p
  · rw [hq, getStream, getPort_updPort_self, hf, getStream]
  · rw [getStream, getPort_updPort_ne _ _ _ _ hq, getStream]

@[simp] theorem getStream_unqueue (s : State) (p e q k : Nat) : getStream (unqueue s p e) q k = getStream s q k := by
  refine getStream_updPort_of_streams ?_ q k
  exact fun _ => rfl

@[simp] theorem getStream_pulse (s : State) (n q k : Nat) : getStream (pulse s n) q k = getStream s q k := rfl

@[simp] theorem getStream_setPortState (s : State) (p : Nat) (st : PortState) (q k : Nat) :
    getStream (setPortState s p st) q k = getStream s q k := by
  unfold setPortState
  split
  · rfl
  · refine getStream_updPort_of_streams (s := s) (p := p) (f := fun x => { x with state := st }) ?_ q k
    exact fun _ => rfl

/-! ## Draining (Table 9.6) -/

section DrainStream

variable {s : State} {p e : Nat} (handover : Bool)

theorem drainStream_of_opened (h : (getStream s p e).state = .opened) :
    drainStream s p e handover =
      unqueue (updStream s p e fun x => { x with state := .draining, handover := handover }) p e := if_pos h

theorem drainStream_of_not_opened (h : (getStream s p e).state ≠ .opened) : drainStream s p e handover = s := if_neg h

theorem getStream_drainStream_of_opened (h : (getStream s p e).state = .opened) :
    getStream (drainStream s p e handover) p e = { getStream s p e with state := .draining, handover := handover } := by
  rw [drainStream_of_opened handover h, getStream_unqueue, getStream_updStream_self]

theorem getStream_drainStream_ne {q k : Nat} (h : (q, k) ≠ (p, e)) :
    getStream (drainStream s p e handover) q k = getStream s q k := by
  unfold drainStream
  split
  · rw [getStream_unqueue, getStream_updStream_ne _ h]
  · rfl

theorem onPort_drainStream (s : State) (p e : Nat) : OnPort p s (drainStream s p e handover) := by
  unfold drainStream
  split
  · exact (OnPort.updPort p s _).trans (.updPort p _ _)
  · exact .refl p s

/-- Draining touches the ports alone. -/
theorem outsidePorts_drainStream (s : State) (p e : Nat) : outsidePorts (drainStream s p e handover) = outsidePorts s :=
  (onPort_drainStream handover s p e).outside

/-- A stream that drains, or that is OPEN and in the list, drains once the list is drained. -/
theorem state_foldl_drainStream (l : List (Nat × Nat)) (s : State)
    (h : (getStream s p e).state = .draining ∨ (getStream s p e).state = .opened ∧ (p, e) ∈ l) :
    (getStream (l.foldl (fun s pe => drainStream s pe.1 pe.2 handover) s) p e).state = .draining := by
  induction l generalizing s with
  | nil => exact h.resolve_right fun ⟨_, hmem⟩ => by cases hmem
  | cons x l ih =>
    rw [List.foldl_cons]
    refine ih _ ?_
    by_cases hx : (p, e) = x
    · subst hx
      obtain hdraining | ⟨hopened, _⟩ := h
      · exact .inl (by rw [drainStream_of_not_opened handover (by rw [hdraining]; decide)]; exact hdraining)
      · exact .inl (by rw [getStream_drainStream_of_opened handover hopened])
    · rw [getStream_drainStream_ne handover hx]
      exact h.imp_right fun ⟨hopened, hmem⟩ => ⟨hopened, (List.mem_cons.1 hmem).resolve_left hx⟩

end DrainStream

/-- A stream that is not CLOSED stands in the table of its port. -/
theorem mem_streams_of_not_closed {s : State} {p e : Nat} (h : (getStream s p e).state ≠ .closed) :
    (e, getStream s p e) ∈ (getPort s p).streams := by
  unfold getStream tgetD at h ⊢
  cases hentry : tget (getPort s p).streams e with
  | none => exact absurd (by rw [hentry]; rfl) h
  | some x => exact mem_of_tget hentry

/-- A stream that is not CLOSED and selected is listed. -/
theorem mem_streamsWhere {s : State} {f : Nat → Stream → Bool} {p e : Nat} (h : (getStream s p e).state ≠ .closed)
    (hf : f p (getStream s p e) = true) : (p, e) ∈ streamsWhere s f := by
  have hstream := mem_streams_of_not_closed h
  have hport : (p, getPort s p) ∈ s.ports := by
    unfold getPort tgetD at hstream ⊢
    cases hentry : tget s.ports p with
    | none =>
      rw [hentry] at hstream
      cases hstream
    | some x => exact mem_of_tget hentry
  refine List.mem_flatMap.2 ⟨(p, getPort s p), hport, List.mem_map.2 ⟨(e, getStream s p e), List.mem_filter.2 ⟨hstream, ?_⟩, rfl⟩⟩
  simp only [hf, Bool.and_true, bne_iff_ne, ne_eq, h, not_false_iff]

/-- What is listed is selected. -/
theorem of_mem_streamsWhere {s : State} {f : Nat → Stream → Bool} {pe : Nat × Nat} (h : pe ∈ streamsWhere s f) :
    ∃ x : Stream, f pe.1 x = true := by
  obtain ⟨y, _, hy⟩ := List.mem_flatMap.1 h
  obtain ⟨z, hz, rfl⟩ := List.mem_map.1 hy
  have hsel := (List.mem_filter.1 hz).2
  rw [Bool.and_eq_true] at hsel
  exact ⟨z.2, hsel.2⟩

end Sys2Proof.Machine

namespace Sys2Proof.Machine

/-! ## Port commands (R238, R239, R241) -/

theorem exec_portEnable (q : Nat) (s : State) : exec (.portEnable q) s = runLink 0x25 q portEnableEff s := rfl

theorem exec_portDisable (q : Nat) (s : State) : exec (.portDisable q) s = runLink 0x26 q portDisableEff s := rfl

theorem exec_portUpHour {s : State} {p : Nat} (hstate : (getPort s p).state = .up) :
    exec (.portUpHour p) s = .next (settle (updPort s p fun x => { x with upHours := satAdd 32 x.upHours 1 })) := if_pos hstate

theorem exec_linkUp {s : State} (p : Nat) (hup : s.up = true) :
    exec (.linkUp p) s = .next (settleAll (
      if (getPort (updPort s p fun x => { x with linkUp := true }) p).state = .noLink
      then setPortState (updPort s p fun x => { x with linkUp := true }) p .unidentified
      else updPort s p fun x => { x with linkUp := true })) := if_pos hup

theorem exec_linkDown {s : State} (p : Nat) (hup : s.up = true) : exec (.linkDown p) s = .next (fabricSettle (linkDown s p)) :=
  if_pos hup

section PortEnable

variable {id : Nat} {c : Started} {s : State} {p : Nat} (hp : p = fld (wd c.words 8) 4 0)

include hp

theorem portEnableEff_of_out (hservice : unitInService s .port p = false) :
    portEnableEff id c s = .reject linkPortState s := by
  subst hp
  simp only [portEnableEff, hservice, Bool.not_false, if_true]

variable (hservice : unitInService s .port p = true)

include hservice

theorem portEnableEff_of_draining (hstate : (getPort s p).state = .draining) (hfirst : ∀ e ∈ s.started, e.2.wait ≠ .portAgain p) :
    portEnableEff id c s = .wait (.portAgain p) s := by
  subst hp
  have hqueued : (s.started.any fun e => e.2.wait == .portAgain (fld (wd c.words 8) 4 0)) = false :=
    List.any_eq_false.2 fun e he => by simpa using hfirst e he
  simp only [portEnableEff, hservice, Bool.not_true, Bool.false_eq_true, if_false, hstate, if_true, hqueued]

theorem portEnableEff_of_not_draining (hstate : (getPort s p).state ≠ .draining) :
    portEnableEff id c s = .wait (.portUp p) (enablePort s p) := by
  subst hp
  simp only [portEnableEff, hservice, Bool.not_true, Bool.false_eq_true, if_false, hstate]

end PortEnable

theorem enablePort_of_disabled {s : State} {p : Nat} (hstate : (getPort s p).state = .disabled) (hserves : portServes s p = true) :
    enablePort s p = setPortState s p (if (getPort s p).linkUp then .unidentified else .noLink) := if_pos ⟨hstate, hserves⟩

theorem enablePort_of_enabled {s : State} {p : Nat} (hstate : (getPort s p).state ≠ .disabled) : enablePort s p = s :=
  if_neg fun h => hstate h.1

section PortDisable

variable {id : Nat} {c : Started} {s : State} {p : Nat} (hp : p = fld (wd c.words 8) 4 0)

include hp

theorem portDisableEff_of_down (hstate : (getPort s p).state = .disabled ∨ (getPort s p).state = .draining) :
    portDisableEff id c s = .wait (.portDown p) s := by
  subst hp
  simp only [portDisableEff, hstate, if_true]

theorem portDisableEff_of_up (hdisabled : (getPort s p).state ≠ .disabled) (hdraining : (getPort s p).state ≠ .draining) :
    portDisableEff id c s = .wait (.portDown p) (drainPort s p) := by
  subst hp
  simp only [portDisableEff, hdisabled, hdraining, or_self, if_false]

end PortDisable

/-! A port that drains takes its OPEN streams along. -/

theorem state_foldl_drainStream_port (p : Nat) (l : List (Nat × Nat)) (s : State) :
    (getPort (l.foldl (fun s pe => drainStream s pe.1 pe.2 false) s) p).state = (getPort s p).state := by
  refine foldl_keeps (g := fun s => (getPort s p).state) (fun s pe => ?_) l s
  unfold drainStream
  split
  · by_cases hp : p = pe.1
    · rw [hp, unqueue, getPort_updPort_self, getPort_updStream_self]
    · rw [unqueue, getPort_updPort_ne _ _ _ _ hp, updStream, getPort_updPort_ne _ _ _ _ hp]
  · rfl

theorem onPort_drainPort (s : State) (p : Nat) : OnPort p s (drainPort s p) := by
  refine (onPort_setPortState s p .draining).trans (.foldl _ _ fun t pe hpe => ?_)
  obtain ⟨x, hx⟩ := of_mem_streamsWhere hpe
  rw [← beq_iff_eq.1 hx]
  exact onPort_drainStream false t pe.1 pe.2

theorem state_drainPort (s : State) (p : Nat) : (getPort (drainPort s p) p).state = .draining := by
  rw [drainPort, state_foldl_drainStream_port, getPort_setPortState_self]

theorem getStream_drainPort_of_opened {s : State} {p e : Nat} (hopened : (getStream s p e).state = .opened) :
    (getStream (drainPort s p) p e).state = .draining := by
  have hopened' : (getStream (setPortState s p .draining) p e).state = .opened := by rw [getStream_setPortState, hopened]
  exact state_foldl_drainStream false _ _ (.inr ⟨hopened', mem_streamsWhere (by rw [hopened']; decide) (beq_self_eq_true p)⟩)

/-- A port whose link goes down with no stream forgets its module. -/
theorem linkDown_of_no_streams {s : State} {p : Nat} (hstate : (getPort s p).state = .up)
    (hnone : (streamsWhere s fun k x => k == p && (x.state == .opened || x.state == .draining)) = []) :
    linkDown s p = setPortState (updPort s p fun x => { x with linkUp := false, moduleId := 0 }) p .noLink := by
  simp only [linkDown, hnone, List.foldl_nil, getPort_updPort_self, hstate, true_or, if_true]

/-- Settles O30: each port command and link event moves its own port alone. -/
theorem portCommands : Obligations.PortCommands := by
  intro s u q p c
  refine ⟨fun hbegin hp => ⟨fun hservice => ?out, fun hservice hserves hstate => ?disabled, fun hservice hstate hfirst => ?draining,
      fun hservice hdisabled hdraining => ?others⟩,
    fun hbegin hp => ⟨fun hstate => ?down, fun hdisabled hdraining => ?drains⟩, fun hup => ?linkUp, fun hstate => ?hour,
    fun hup hstate hnone => ?linkDown⟩
  case out =>
    rw [exec_portEnable, runLink_done hbegin portEnableEff (portEnableEff_of_out hp hservice)]
    rfl
  case disabled =>
    have hwait := portEnableEff_of_not_draining (id := s.nextId) hp hservice (by rw [hstate]; decide)
    rw [enablePort_of_disabled hstate hserves] at hwait
    have honPort := onPort_setPortState u p (if (getPort u p).linkUp then .unidentified else .noLink)
    exact ⟨_, by rw [exec_portEnable, runLink_wait hbegin portEnableEff hwait], getPort_setPortState_self .., honPort.others,
      honPort.frame⟩
  case draining =>
    rw [exec_portEnable, runLink_wait hbegin portEnableEff (portEnableEff_of_draining hp hservice hstate hfirst)]
  case others =>
    rw [exec_portEnable, runLink_wait hbegin portEnableEff (portEnableEff_of_not_draining hp hservice hdraining),
      enablePort_of_enabled hdisabled]
  case down => rw [exec_portDisable, runLink_wait hbegin portDisableEff (portDisableEff_of_down hp hstate)]
  case drains =>
    have honPort := onPort_drainPort u p
    exact ⟨drainPort u p, by rw [exec_portDisable, runLink_wait hbegin portDisableEff (portDisableEff_of_up hp hdisabled hdraining)],
      state_drainPort u p, fun e x _ hopened => getStream_drainPort_of_opened hopened, honPort.others, honPort.frame⟩
  case linkUp =>
    refine ⟨_, exec_linkUp p hup, ?_⟩
    have hup' := OnPort.updPort p s fun x => { x with linkUp := true }
    rw [getPort_updPort_self]
    by_cases hstate : (getPort s p).state = .noLink
    · have honPort := hup'.trans (onPort_setPortState _ p .unidentified)
      rw [if_pos hstate, if_pos hstate]
      exact ⟨by rw [getPort_setPortState_self, getPort_updPort_self], by rw [getPort_setPortState_self], honPort.others,
        honPort.frame⟩
    · rw [if_neg hstate, if_neg hstate]
      exact ⟨by rw [getPort_updPort_self], by rw [getPort_updPort_self], hup'.others, hup'.frame⟩
  case hour =>
    refine ⟨_, exec_portUpHour hstate, ?_, fun k hk => getPort_updPort_ne _ _ _ _ hk, rfl⟩
    rw [getPort_updPort_self]
    rfl
  case linkDown =>
    have honPort := (OnPort.updPort p s fun x => { x with linkUp := false, moduleId := 0 }).trans (onPort_setPortState _ p .noLink)
    refine ⟨_, by rw [exec_linkDown p hup, linkDown_of_no_streams hstate hnone], ?_, ?_, ?_, honPort.others, honPort.frame⟩
    · rw [getPort_setPortState_self, getPort_updPort_self]
    · rw [getPort_setPortState_self, getPort_updPort_self]
    · rw [getPort_setPortState_self]

end Sys2Proof.Machine

namespace Sys2Proof.Machine

/-! ## The block outside its ports and bonds -/

def outsideLinks (s : State) : State := { s with ports := [], bonds := [] }

theorem withLinks_of_outsideLinks {s t : State} (h : outsideLinks t = outsideLinks s) :
    { t with ports := s.ports, bonds := s.bonds } = s :=
  (congrArg (fun u : State => { u with ports := s.ports, bonds := s.bonds }) h :)

@[simp] theorem outsideLinks_updPort (s : State) (p : Nat) (f : Port → Port) : outsideLinks (updPort s p f) = outsideLinks s := rfl

@[simp] theorem outsideLinks_updBond (s : State) (b : Nat) (f : Bond → Bond) : outsideLinks (updBond s b f) = outsideLinks s := rfl

/-! ## Bonds: what each change of one leaves alone -/

theorem getPort_of_ports {s t : State} (h : t.ports = s.ports) (p : Nat) : getPort t p = getPort s p := by
  rw [getPort, h, getPort]

theorem getBond_of_bonds {s t : State} (h : t.bonds = s.bonds) (b : Nat) : getBond t b = getBond s b := by
  rw [getBond, h, getBond]

theorem getStream_of_ports {s t : State} (h : t.ports = s.ports) (p e : Nat) : getStream t p e = getStream s p e := by
  rw [getStream, getPort_of_ports h, getStream]

theorem streamsWhere_of_ports {s t : State} (h : t.ports = s.ports) (f : Nat → Stream → Bool) :
    streamsWhere t f = streamsWhere s f := by
  rw [streamsWhere, h, streamsWhere]

theorem updBond_updBond (s : State) (b : Nat) (f g : Bond → Bond) :
    updBond (updBond s b f) b g = updBond s b fun x => g (f x) := by
  simp only [updBond, getBond, tgetD_tset_self, tset_tset]

theorem getPort_updBond (s : State) (b : Nat) (f : Bond → Bond) (p : Nat) : getPort (updBond s b f) p = getPort s p := rfl

theorem getStream_updBond (s : State) (b : Nat) (f : Bond → Bond) (p e : Nat) :
    getStream (updBond s b f) p e = getStream s p e := rfl

/-- A change of state of a bond is an event of each of its ports. -/
theorem setBondState_eq (s : State) (b : Nat) (st : BondState) :
    ∃ bec, setBondState s b st = { updBond s b (fun x => { x with state := st }) with bec := bec } := by
  unfold setBondState
  dsimp only
  generalize maskPorts _ = l
  generalize updBond s b (fun x => { x with state := st }) = t
  induction l generalizing t with
  | nil => exact ⟨t.bec, rfl⟩
  | cons p l ih =>
    obtain ⟨bec, h⟩ := ih (pulsePort t p)
    exact ⟨bec, h⟩

@[simp] theorem getBond_setBondState_self (s : State) (b : Nat) (st : BondState) :
    getBond (setBondState s b st) b = { getBond s b with state := st } := by
  obtain ⟨bec, h⟩ := setBondState_eq s b st
  rw [h]
  exact getBond_updBond_self s b fun x => { x with state := st }

theorem getBond_setBondState_ne (s : State) {b k : Nat} (st : BondState) (h : k ≠ b) :
    getBond (setBondState s b st) k = getBond s k := by
  obtain ⟨bec, heq⟩ := setBondState_eq s b st
  rw [heq]
  exact getBond_updBond_ne s b k (fun x => { x with state := st }) h

@[simp] theorem ports_setBondState (s : State) (b : Nat) (st : BondState) : (setBondState s b st).ports = s.ports := by
  obtain ⟨bec, h⟩ := setBondState_eq s b st
  rw [h]
  rfl

@[simp] theorem chipId_setBondState (s : State) (b : Nat) (st : BondState) : (setBondState s b st).chipId = s.chipId := by
  obtain ⟨bec, h⟩ := setBondState_eq s b st
  rw [h]
  rfl

/-- Bonds are no part of the ports. -/
theorem getBond_of_outsidePorts {s t : State} (h : outsidePorts t = outsidePorts s) (b : Nat) : getBond t b = getBond s b :=
  getBond_of_bonds (congrArg State.bonds h :) b

@[simp] theorem getBond_drainStream (s : State) (p e : Nat) (handover : Bool) (b : Nat) :
    getBond (drainStream s p e handover) b = getBond s b :=
  getBond_of_outsidePorts (outsidePorts_drainStream handover s p e) b

/-! ## Messages of a handshake -/

theorem sendHandshake_of_port {s : State} {b p : Nat} (hport : controlPort s b = some p) (type : Nat) (d : Bytes) :
    sendHandshake s b type d =
      updPort s p fun x => { x with egress := x.egress ++ ctrlFlits (getBond s b).peer s.chipId type d } := by
  simp only [sendHandshake, hport]

@[simp] theorem getBond_sendHandshake (s : State) (b type : Nat) (d : Bytes) (k : Nat) :
    getBond (sendHandshake s b type d) k = getBond s k := by
  unfold sendHandshake
  split <;> rfl

/-- The control stream of a bond goes by its mask and its ports alone. -/
theorem controlPort_congr {s t : State} {b : Nat} (hports : t.ports = s.ports) (hmask : (getBond t b).mask = (getBond s b).mask) :
    controlPort t b = controlPort s b := by
  simp only [controlPort, hmask, getPort_of_ports hports]

/-- A bond whose mask begins with an UP port has its control stream there. -/
theorem controlPort_of_head {s : State} {b p : Nat} (hhead : (maskPorts (getBond s b).mask).head? = some p)
    (hup : (getPort s p).state = .up) : controlPort s b = some p := by
  unfold controlPort
  cases hmask : maskPorts (getBond s b).mask with
  | nil =>
    rw [hmask] at hhead
    cases hhead
  | cons x l =>
    rw [hmask] at hhead
    cases hhead
    rw [List.find?_cons_of_pos (by simp [hup])]

end Sys2Proof.Machine

namespace Sys2Proof.Machine

/-! ## Bond commands (R243 to R246, R262, R263, Table 9.4) -/

theorem exec_bondOpen (q : Nat) (s : State) : exec (.bondOpen q) s = runLink 0x20 q bondOpenEff s := rfl

theorem exec_bondClose (q : Nat) (s : State) : exec (.bondClose q) s = runLink 0x21 q bondCloseEff s := rfl

theorem exec_bondRekey (q : Nat) (s : State) : exec (.bondRekey q) s = runLink 0x22 q bondRekeyEff s := rfl

/-! ### BOND_OPEN -/

section BondOpen

variable {id b : Nat} {c : Started} {s w : State} (hstate : lcBonds s = true)

include hstate

theorem bondOpenEff_of_no_policy (hpolicy : s.cfg.policy = none) : bondOpenEff id c s = .reject linkNoPolicy s := by
  simp only [bondOpenEff, hstate, Bool.not_true, Bool.false_eq_true, if_false, hpolicy]

/-- A new bond toward an allowed peer begins its handshake. -/
theorem bondOpenEff_of_new {pol : Bytes} (hpolicy : s.cfg.policy = some pol) (hmask : wd c.words 9 ≠ 0)
    (hpeer : fld (wd c.words 8) 15 0 ≠ s.chipId) (hallowed : peerAllowed pol (fld (wd c.words 8) 15 0) = true)
    (hports : ∀ k ∈ maskPorts (wd c.words 9), (getPort s k).gateway = false ∧ (getPort s k).state = .up)
    (hnone : bondWith s (fld (wd c.words 8) 15 0) = none) (hfree : freeIndex s .bond = some b) (hroom : refRoom s c.session = true)
    (hhold : holdRef { s with bonds := tset s.bonds b { owner := c.session, state := .attesting } } c.session ⟨.bond, b⟩ = .ok w) :
    bondOpenEff id c s = .wait (.bondOpen b) (beginHandshake w b (fld (wd c.words 8) 15 0) (wd c.words 9) id) := by
  have hgateway : ((maskPorts (wd c.words 9)).any fun k => (getPort s k).gateway) = false :=
    List.any_eq_false.2 fun k hk => by simp [(hports k hk).1]
  have hup : ((maskPorts (wd c.words 9)).any fun k => (getPort s k).state != .up) = false :=
    List.any_eq_false.2 fun k hk => by simp [(hports k hk).2]
  have hoperands : ¬(wd c.words 9 = 0 ∨ fld (wd c.words 8) 15 0 = s.chipId) := not_or.2 ⟨hmask, hpeer⟩
  simp only [bondOpenEff, hstate, hpolicy, if_neg hoperands, hallowed, hgateway, hup, hnone, hfree, hroom, hhold, Bool.not_true,
    Bool.false_eq_true, if_false]

end BondOpen

/-- The entry of a new bond with the reference of the session that made it: its counts and the session list apart, the entry as it was
made. -/
theorem bond_of_holdRef {s w : State} {i b : Nat} {n : Bond}
    (hhold : holdRef { s with bonds := tset s.bonds b n } i ⟨.bond, b⟩ = .ok w) :
    ∃ h d, getBond w b = { n with href := h, dref := d } ∧ (∀ k, k ≠ b → getBond w k = getBond s k) ∧
      w.ports = s.ports ∧ w.chipId = s.chipId := by
  obtain ⟨x, hx⟩ : ∃ x, tget s.sessions i = some x := by
    cases hx : tget s.sessions i with
    | none =>
      simp only [holdRef, hx] at hhold
      cases hhold
    | some x => exact ⟨x, rfl⟩
  obtain ⟨t, hadd, rfl⟩ := holdRef_ok (s := { s with bonds := tset s.bonds b n }) hx hhold
  rw [eq_setCounts_of_addRef hadd]
  generalize raisedCounts _ _ _ = counts
  refine ⟨counts.1, counts.2, ?_, fun k hk => ?_, rfl, rfl⟩
  · simp only [getBond, listRef, setCounts, tgetD, tget_tupd_self, tget_tset_self, Option.map_some, Option.getD_some]
  · simp only [getBond, listRef, setCounts, tgetD, tget_tupd_ne _ _ _ _ hk, tget_tset_ne _ _ _ _ hk]

/-- The entry of a bond whose handshake has begun with its first request. -/
def handshakeBegun (x : Bond) (peer : Nat) (mask : Word) (id : Nat) : Bond :=
  { x with
    peer := peer, mask := mask, state := .attesting, openCmd := some id
    att := { step := 1, log := Config.spdmMessage 0x84 [] }
    spdm := {}, initiator := false
    transcript := toLE 1 2 ++ Config.spdmMessage 0x84 []
    finishSent := false, nextRoot := none, flipRoot := none, flipDue := false, secret := [] }

section BeginHandshake

variable (s : State) (b peer : Nat) (mask : Word) (id : Nat)

theorem getBond_beginHandshake_self : getBond (beginHandshake s b peer mask id) b = handshakeBegun (getBond s b) peer mask id := by
  simp only [beginHandshake, firstRequest, sendRequest, record, getBond_updBond_self, getBond_sendHandshake,
    getBond_setBondState_self]
  rfl

theorem getBond_beginHandshake_ne {k : Nat} (hk : k ≠ b) : getBond (beginHandshake s b peer mask id) k = getBond s k := by
  simp only [beginHandshake, firstRequest, sendRequest, record, getBond_updBond_ne _ _ _ _ hk, getBond_sendHandshake,
    getBond_setBondState_ne _ _ hk]

/-- GET_VERSION leaves on the lowest port of the mask. -/
theorem egress_beginHandshake {s : State} {b peer p : Nat} {mask : Word} {id : Nat} (hhead : (maskPorts mask).head? = some p)
    (hup : (getPort s p).state = .up) :
    (getPort (beginHandshake s b peer mask id) p).egress =
      (getPort s p).egress ++ ctrlFlits peer s.chipId 1 (Config.spdmMessage 0x84 []) := by
  simp only [beginHandshake, firstRequest, sendRequest, record, getPort_updBond]
  rw [sendHandshake_of_port (p := p)]
  · rw [getPort_updPort_self]
    simp only [getPort_updBond, getPort_of_ports (ports_setBondState ..), getBond_updBond_self, getBond_setBondState_self,
      updBond_chipId, chipId_setBondState]
  · refine controlPort_of_head ?_ ?_
    · simpa only [getBond_updBond_self, getBond_setBondState_self] using hhead
    · simpa only [getPort_updBond, getPort_of_ports (ports_setBondState ..)] using hup

end BeginHandshake

/-! ### BOND_CLOSE -/

section BondClose

variable {id : Nat} {c : Started} {s : State} {r : ObjRef} (htarget : targetOf s c = some r)

include htarget

theorem bondCloseEff_of_open (hopen : (getBond s r.index).state = .live ∨ (getBond s r.index).state = .stale) :
    bondCloseEff id c s = .wait (.bondClose r.index) (closeBond s r.index) := by
  simp only [bondCloseEff, htarget, if_pos hopen]

theorem bondCloseEff_of_other (hlive : (getBond s r.index).state ≠ .live) (hstale : (getBond s r.index).state ≠ .stale) :
    bondCloseEff id c s = .reject linkBondState s := by
  simp only [bondCloseEff, htarget, hlive, hstale, or_self, if_false]

end BondClose

section CloseBond

variable {s : State} {b : Nat} (hopen : (getBond s b).state = .live ∨ (getBond s b).state = .stale)

include hopen

theorem state_closeBond : (getBond (closeBond s b) b).state = .closing := by
  rw [closeBond, if_pos hopen,
    foldl_keeps (g := fun t => (getBond t b).state) fun t pe => by rw [getBond_drainStream], getBond_setBondState_self]

theorem getStream_closeBond_of_opened {p e : Nat} (hmem : (p, e) ∈ bondStreams s b) (hopened : (getStream s p e).state = .opened) :
    (getStream (closeBond s b) p e).state = .draining := by
  rw [closeBond, if_pos hopen]
  refine state_foldl_drainStream false _ _ (.inr ⟨?_, hmem⟩)
  rw [getStream_of_ports (ports_setBondState ..), hopened]

end CloseBond

/-! ### BOND_REKEY -/

section BondRekey

variable {id : Nat} {c : Started} {s : State} {r : ObjRef} (htarget : targetOf s c = some r)

include htarget

theorem bondRekeyEff_of_not_live (hstate : (getBond s r.index).state ≠ .live) : bondRekeyEff id c s = .reject linkBondState s := by
  simp only [bondRekeyEff, htarget, if_pos hstate]

variable (hstate : (getBond s r.index).state = .live)

include hstate

theorem bondRekeyEff_of_queued (hqueued : (getBond s r.index).rekeyQueued.isSome = true) :
    bondRekeyEff id c s = .fail .busy s := by
  simp only [bondRekeyEff, htarget, hstate, ne_eq, not_true, if_false, hqueued, if_true]

variable (hqueued : (getBond s r.index).rekeyQueued = none)

include hqueued

theorem bondRekeyEff_of_running (hrunning : (getBond s r.index).flipping = true ∨ rekeyRunning s r.index = true) :
    bondRekeyEff id c s = .wait (.bondRekey r.index false false) (updBond s r.index fun x => { x with rekeyQueued := some id }) := by
  simp only [bondRekeyEff, htarget, hstate, ne_eq, not_true, if_false, hqueued, Option.isSome_none, Bool.false_eq_true,
    if_pos hrunning]

theorem bondRekeyEff_of_idle (hflipping : (getBond s r.index).flipping = false) (hrunning : rekeyRunning s r.index = false) :
    bondRekeyEff id c s = .wait (.bondRekey r.index false false) (beginRekey s r.index) := by
  simp only [bondRekeyEff, htarget, hstate, ne_eq, not_true, if_false, hqueued, Option.isSome_none, Bool.false_eq_true,
    hflipping, hrunning, or_self]

end BondRekey

/-- Settles O31: BOND_OPEN begins a handshake or is turned away, BOND_CLOSE drains the bond's streams, and BOND_REKEY flips, queues or
is turned away. -/
theorem bondCommands : Obligations.BondCommands := by
  intro s u q b c
  refine ⟨fun hbegin hstate hpolicy => ?noPolicy,
    fun pol w p hbegin hstate hpolicy hmask hpeer hallowed hports hhead hnone hfree hroom hhold => ?opens,
    fun r hbegin htarget => ⟨fun hopen => ?closes, fun hlive hstale => ?closed⟩,
    fun r hbegin htarget => ⟨fun hstate => ?notLive, fun hstate hqueued => ?busy,
      fun hstate hqueued => ⟨fun hrunning => ?queued, fun hflipping hrunning => ?flips⟩⟩⟩
  case noPolicy =>
    rw [exec_bondOpen, runLink_done hbegin bondOpenEff (bondOpenEff_of_no_policy hstate hpolicy)]
    rfl
  case opens =>
    have hwait := bondOpenEff_of_new (id := s.nextId) hstate hpolicy hmask hpeer hallowed hports hnone hfree hroom hhold
    obtain ⟨h, d, hbond, hothers, hwports, hchip⟩ := bond_of_holdRef hhold
    have hup : (getPort w p).state = .up := by
      rw [getPort_of_ports hwports]
      exact (hports p (List.mem_of_head? hhead)).2
    refine ⟨_, by rw [exec_bondOpen, runLink_wait hbegin bondOpenEff hwait], ?_⟩
    rw [getBond_beginHandshake_self]
    refine ⟨rfl, rfl, rfl, rfl, rfl, rfl, rfl, ?_, fun k hk => ?_⟩
    · rw [egress_beginHandshake hhead hup, getPort_of_ports hwports, hchip]
    · rw [getBond_beginHandshake_ne _ _ _ _ _ hk, hothers k hk]
  case closes =>
    exact ⟨closeBond u r.index, by rw [exec_bondClose, runLink_wait hbegin bondCloseEff (bondCloseEff_of_open htarget hopen)],
      state_closeBond hopen, fun p e hmem hopened => getStream_closeBond_of_opened hopen hmem hopened⟩
  case closed =>
    rw [exec_bondClose, runLink_done hbegin bondCloseEff (bondCloseEff_of_other htarget hlive hstale)]
    rfl
  case notLive =>
    rw [exec_bondRekey, runLink_done hbegin bondRekeyEff (bondRekeyEff_of_not_live htarget hstate)]
    rfl
  case busy =>
    rw [exec_bondRekey, runLink_done hbegin bondRekeyEff (bondRekeyEff_of_queued htarget hstate hqueued)]
  case queued =>
    rw [exec_bondRekey, runLink_wait hbegin bondRekeyEff (bondRekeyEff_of_running htarget hstate hqueued hrunning)]
  case flips =>
    rw [exec_bondRekey, runLink_wait hbegin bondRekeyEff (bondRekeyEff_of_idle htarget hstate hqueued hflipping hrunning)]
    rfl

end Sys2Proof.Machine

namespace Sys2Proof.Machine

/-! ## STREAM_OPEN and STREAM_CLOSE (R248 to R252) -/

theorem exec_streamOpen (q : Nat) (s : State) : exec (.streamOpen q) s = runLink 0x23 q streamOpenEff s := rfl

theorem exec_streamClose (q : Nat) (s : State) : exec (.streamClose q) s = runLink 0x24 q streamCloseEff s := rfl

/-- The entry of a stream that is asked for: its bond's next salt, and the generation that its first window goes under. -/
def askedStream (s : State) (b a : Nat) : Stream :=
  { state := .opening, accord := a, bond := b, txSalt := BitVec.ofNat 32 (getBond s b).salt
    txGen := if (getBond s b).flipRoot.isSome then ((getBond s b).txGen + 1) % 65536 else (getBond s b).txGen
    moveDue := (getBond s b).flipping, inst := s.stamp
    rxGen := if (getBond s b).rxFlipping then ((getBond s b).rxGen + 65535) % 65536 else (getBond s b).rxGen }

section NewEntry

variable (s : State) (p e b a : Nat)

theorem getStream_newEntry_self : getStream (newEntry s p e b a .opening) p e = askedStream s b a :=
  getStream_updStream_self { s with stamp := s.stamp + 1 } p e fun _ => askedStream s b a

theorem getStream_newEntry_ne {k : Nat} (hk : k ≠ e) : getStream (newEntry s p e b a .opening) p k = getStream s p k :=
  getStream_updStream_ne (s := { s with stamp := s.stamp + 1 }) (fun _ => askedStream s b a) fun h => hk (congrArg Prod.snd h)

theorem getBond_newEntry_self :
    getBond (newEntry s p e b a .opening) b = { getBond s b with salt := (getBond s b).salt + 1 } :=
  getBond_updBond_self (updStream { s with stamp := s.stamp + 1 } p e fun _ => askedStream s b a) b
    fun x => { x with salt := x.salt + 1 }

theorem getBond_newEntry_ne {k : Nat} (hk : k ≠ b) : getBond (newEntry s p e b a .opening) k = getBond s k :=
  getBond_updBond_ne (updStream { s with stamp := s.stamp + 1 } p e fun _ => askedStream s b a) b k
    (fun x => { x with salt := x.salt + 1 }) hk

end NewEntry

/-- The body of OPEN_REQ for a new stream of accord `a`. -/
def openReqBody (s : State) (p e a salt : Nat) : Bytes :=
  toLE (getAccord s a).gid.toNat 4 ++ toBE (getAccord s a).m.toNat 48 ++ toLE (streamNo p e) 2 ++ toLE p 1 ++ [0] ++ toLE salt 4

/-- A stream asked for in order gets the lowest CLOSED entry, and OPEN_REQ is queued. -/
theorem streamOpenEff_of_free {id a b p e : Nat} {c : Started} {s : State} (hbond : streamBond s c = .ok (some b))
    (ha : a = fld (wd c.words 8) 9 0) (hp : p = fld (wd c.words 9) 4 0)
    (htenant : (sessionOf s c).world = .tenant → a = (sessionOf s c).accord) (hlive : (getBond s b).state = .live)
    (hsalt : (getBond s b).salt < 2 ^ 31) (hup : (getPort s p).state = .up) (hmask : (getBond s b).mask.getLsbD p = true)
    (hgateway : (getPort s p).gateway = false) (hbound : boundTo s .port p a = true)
    (hpeer : (getAccord s a).peers.contains (getBond s b).peer = true) (hmin : 2 ≤ a) (haccord : (getAccord s a).state = .live)
    (hroom : streamCount s b < 16) (hfree : freeEntry s p = some e) :
    streamOpenEff id c s = .wait (.streamOpen (streamNo p e))
      (controlMessage (newEntry s p e b a .opening) b 0x0101 (openReqBody s p e a (getBond s b).salt)) := by
  subst ha hp
  have hown : ¬((sessionOf s c).world = .tenant ∧ fld (wd c.words 8) 9 0 ≠ (sessionOf s c).accord) := fun h => h.2 (htenant h.1)
  simp only [streamOpenEff, hbond, if_neg hown, hlive, Nat.not_le.2 hsalt, hup, hmask, hgateway, hbound, hpeer, Nat.not_lt.2 hmin,
    haccord, Nat.not_le.2 hroom, hfree, ne_eq, not_true, Bool.not_true, Bool.false_eq_true, or_self, if_false]
  rfl

section StreamClose

variable {id b n : Nat} {c : Started} {s : State} (hbond : streamBond s c = .ok (some b)) (hn : n = fld (wd c.words 8) 12 0)
  (hof : (getStream s (n / 256) (n % 256)).bond = b)
  (hown : (sessionOf s c).world = .tenant → (getStream s (n / 256) (n % 256)).accord = (sessionOf s c).accord)

include hbond hn hof hown

/-- A stream of the bond that is not CLOSED drains once it is OPEN. -/
theorem streamCloseEff_of_not_closed (hclosed : (getStream s (n / 256) (n % 256)).state ≠ .closed) :
    streamCloseEff id c s = .wait (.streamClose n)
      (if (getStream s (n / 256) (n % 256)).state = .opened
        then tellClose (drainStream s (n / 256) (n % 256) false) (n / 256) (n % 256) else s) := by
  subst hn
  have hgood : ¬((getStream s (fld (wd c.words 8) 12 0 / 256) (fld (wd c.words 8) 12 0 % 256)).state = .closed ∨
      (getStream s (fld (wd c.words 8) 12 0 / 256) (fld (wd c.words 8) 12 0 % 256)).bond ≠ b ∨
      (sessionOf s c).world = .tenant ∧
        (getStream s (fld (wd c.words 8) 12 0 / 256) (fld (wd c.words 8) 12 0 % 256)).accord ≠ (sessionOf s c).accord) := by
    rintro (h | h | ⟨htenant, h⟩)
    · exact hclosed h
    · exact h hof
    · exact h (hown htenant)
  simp only [streamCloseEff, hbond, if_neg hgood]

end StreamClose

/-- CLOSE_STREAM names both ends of the stream. -/
theorem getBond_tellClose {s : State} {p e b : Nat} (hof : (getStream s p e).bond = b) :
    getBond (tellClose s p e) b = { getBond s b with
      outbox := (getBond s b).outbox ++ [(0x0104, toLE (streamNo p e) 2 ++ toLE (getStream s p e).peerStream 2)] } := by
  subst hof
  exact getBond_updBond_self ..

/-- An OPEN stream that drains and tells the peer touches the ports and the bonds alone. -/
theorem tellClose_drainStream_frame {s : State} {p e : Nat} (hopened : (getStream s p e).state = .opened) :
    { tellClose (drainStream s p e false) p e with ports := s.ports, bonds := s.bonds } = s := by
  refine withLinks_of_outsideLinks ?_
  rw [tellClose, controlMessage, outsideLinks_updBond, drainStream_of_opened false hopened, unqueue, outsideLinks_updPort, updStream,
    outsideLinks_updPort]

/-- Settles O32: STREAM_OPEN takes the lowest free entry to OPENING and asks the peer; STREAM_CLOSE drains an OPEN stream and tells
the peer. -/
theorem streamCommands : Obligations.StreamCommands := by
  intro s u q b a p e n c
  refine ⟨fun hbegin hbond ha hp htenant hlive hsalt hup hmask hgateway hbound hpeer hmin haccord hroom hfree => ?opens,
    fun hbegin hbond hn hof hown => ⟨fun hopened => ?closes, fun hstate => ?waits⟩⟩
  case opens =>
    refine ⟨_, by rw [exec_streamOpen, runLink_wait hbegin streamOpenEff (streamOpenEff_of_free hbond ha hp htenant hlive hsalt hup
      hmask hgateway hbound hpeer hmin haccord hroom hfree)], ?_⟩
    rw [controlMessage, getStream_updBond, getStream_newEntry_self, getBond_updBond_self, getBond_newEntry_self]
    refine ⟨rfl, rfl, rfl, rfl, rfl, rfl, fun k hk => getStream_newEntry_ne u p e b a hk, fun k hk => ?_, rfl⟩
    rw [getBond_updBond_ne _ _ _ _ hk, getBond_newEntry_ne u p e b a hk]
  case closes =>
    have hwait := streamCloseEff_of_not_closed (id := s.nextId) hbond hn hof hown (by rw [hopened]; decide)
    rw [if_pos hopened] at hwait
    have hdrained := getStream_drainStream_of_opened false hopened
    have hnumber : streamNo (n / 256) (n % 256) = n := Nat.div_add_mod n 256
    refine ⟨_, by rw [exec_streamClose, runLink_wait hbegin streamCloseEff hwait], ?_, ?_, ?_⟩
    · rw [tellClose, controlMessage, getStream_updBond, hdrained]
    · rw [getBond_tellClose (b := b) (by rw [hdrained]; exact hof), getBond_drainStream, hdrained, hnumber]
    · exact tellClose_drainStream_frame hopened
  case waits =>
    have hwait := streamCloseEff_of_not_closed (id := s.nextId) hbond hn hof hown (by obtain h | h := hstate <;> rw [h] <;> decide)
    rw [if_neg (by obtain h | h := hstate <;> rw [h] <;> decide)] at hwait
    rw [exec_streamClose, runLink_wait hbegin streamCloseEff hwait]

end Sys2Proof.Machine

namespace Sys2Proof.Machine

/-! ## The corners of a handshake (R244 to R246) -/

/-- A fabric event of a block that serves. -/
theorem onFabric_of_live {s : State} (hlive : live s = true) (f : State → State) : onFabric s f = .next (fabricSettle (f s)) :=
  if_pos hlive

section Exec

variable (b p : Nat) (src : BitVec 16) (m : Bytes) (s : State)

theorem exec_handshakeRepeat : exec (.handshakeRepeat b) s = onFabric s fun s =>
    if (getBond s b).state = .attesting ∧ (getBond s b).att.step = 1 ∧ !(getBond s b).att.decided
      then sendHandshake s b 1 (Config.spdmMessage 0x84 []) else s := rfl

theorem exec_handshakeTimeout : exec (.handshakeTimeout b) s = onFabric s (handshakeTimeout · b) := rfl

theorem exec_abort (code : BitVec 8) : exec (.abort p src code) s = onFabric s (takeAbort · p src code) := rfl

theorem exec_helloI : exec (.helloI p src m) s = onFabric s (helloI · p src m) := rfl

theorem exec_helloR : exec (.helloR p src m) s = onFabric s (helloR · p src m) := rfl

theorem exec_bondFinish : exec (.bondFinish p src m) s = onFabric s (bondFinish · p src m) := rfl

end Exec

section Timeout

variable {s : State} {b : Nat}

theorem handshakeTimeout_of_handshake (hstate : (getBond s b).state = .attesting ∨ (getBond s b).state = .agreeing) :
    handshakeTimeout s b = failHandshake s b linkHandshakeTimeout := if_pos hstate

theorem handshakeTimeout_of_reagreement {id : Nat} (hstate : (getBond s b).state = .live)
    (hreagreeing : (getBond s b).reagreeing = true) (hcommand : (getBond s b).openCmd = some id) :
    handshakeTimeout s b = finish (updBond s b fun x =>
      { x with openCmd := none, reagreeing := false, secret := [], transcript := [] }) id .rejected linkHandshakeTimeout 0 := by
  simp only [handshakeTimeout, hstate, hreagreeing, hcommand, reduceCtorEq, or_self, if_false, Option.isSome_some, and_self, if_true,
    endReagreement, finishOpt]

end Timeout

/-- NOT_EXPECTED is code 8. -/
theorem setWidth_eq_linkNotExpected (code : BitVec 8) : code.setWidth 32 = linkNotExpected ↔ code = 8 := by
  unfold linkNotExpected
  constructor
  · intro h
    bv_omega
  · rintro rfl
    rfl

section TakeAbort

variable {s : State} {b p : Nat} {src : BitVec 16} (hwith : handshakeWith s src = some b)

include hwith

theorem takeAbort_of_handshake {code : BitVec 8} (hhears : portHears s p = true) (hcode : ¬(code = 8 ∧ (getBond s b).state = .attesting ∧ (getBond s b).att.step = 1 ∧
    (getBond s b).att.decided = false)) : takeAbort s p src code = endHandshake s b (code.setWidth 32) := by
  have hcode' : ¬(code.setWidth 32 = linkNotExpected ∧ (getBond s b).state = .attesting ∧ (getBond s b).att.step = 1 ∧
      (!(getBond s b).att.decided) = true) := by
    rwa [setWidth_eq_linkNotExpected, Bool.not_eq_true']
  simp only [takeAbort, hwith, hhears, if_neg hcode', Bool.not_true, Bool.false_eq_true, false_or]

theorem takeAbort_of_unanswered (hstate : (getBond s b).state = .attesting) (hstep : (getBond s b).att.step = 1)
    (hdecided : (getBond s b).att.decided = false) : takeAbort s p src 8 = s := by
  simp only [takeAbort, hwith, hstate, hstep, hdecided, (setWidth_eq_linkNotExpected 8).2, Bool.not_false, and_self, or_true, if_true]

end TakeAbort

/-- A message of a handshake from a chip that none is with is turned away. -/
theorem onHandshake_of_stranger {s : State} {p : Nat} {src : BitVec 16} (hnone : handshakeWith s src = none)
    (hhears : portHears s p = true) (f : Nat → Bond → State) :
    onHandshake s p src f = updPort s p fun x => { x with egress := x.egress ++ ctrlFlits src.toNat s.chipId 5 [8] } := by
  simp only [onHandshake, hhears, Bool.not_true, Bool.false_eq_true, if_false, hnone]
  rfl

/-- What a handshake that ends leaves of the bonds, before its command completes. -/
def bondEnded (s : State) (b : Nat) : State :=
  bumpGen (dropRefs (updBond (setBondState s b .free) b fun _ => {}) ⟨.bond, b⟩) ⟨.bond, b⟩

theorem endHandshake_eq (s : State) (b : Nat) (code : Word) :
    endHandshake s b code = finishOpt (bondEnded s b) (getBond s b).openCmd .rejected code 0 := rfl

theorem getBond_bondEnded_self (s : State) (b : Nat) : getBond (bondEnded s b) b = {} :=
  getBond_updBond_self (setBondState s b .free) b fun _ => {}

theorem getBond_bondEnded_ne (s : State) {b k : Nat} (h : k ≠ b) : getBond (bondEnded s b) k = getBond s k :=
  (getBond_updBond_ne (setBondState s b .free) b k (fun _ => {}) h).trans (getBond_setBondState_ne s .free h)

/-- Settles O33: a handshake repeats its first request, ends by its timer or an ABORT, and turns strangers away. -/
theorem handshakeMessages : Obligations.HandshakeMessages := by
  refine ⟨fun s b p src m code hlive => ⟨fun hstate hstep hdecided => ?repeats,
      fun hstate => ?timeout, fun id hstate hreagreeing hcommand => ?reagreement, fun hwith hhears hcode => ?abort,
      fun hwith hhears hstate hstep hdecided => ?early, fun hnone hhears => ?stranger⟩,
    fun s b code => ⟨bondEnded s b, endHandshake_eq s b code, getBond_bondEnded_self s b, fun k hk => getBond_bondEnded_ne s hk⟩⟩
  case repeats =>
    rw [exec_handshakeRepeat, onFabric_of_live hlive]
    simp only [hstate, hstep, hdecided, Bool.not_false, and_self, if_true]
  case timeout =>
    rw [exec_handshakeTimeout, onFabric_of_live hlive, handshakeTimeout_of_handshake hstate]
    rfl
  case reagreement =>
    refine ⟨updBond s b fun x => { x with openCmd := none, reagreeing := false, secret := [], transcript := [] }, ?_,
      getBond_updBond_self .., rfl⟩
    rw [exec_handshakeTimeout, onFabric_of_live hlive, handshakeTimeout_of_reagreement hstate hreagreeing hcommand]
    rfl
  case abort => rw [exec_abort, onFabric_of_live hlive, takeAbort_of_handshake hwith hhears hcode]
  case early => rw [exec_abort, onFabric_of_live hlive, takeAbort_of_unanswered hwith hstate hstep hdecided]
  case stranger =>
    refine ⟨updPort s p fun x => { x with egress := x.egress ++ ctrlFlits src.toNat s.chipId 5 [8] }, getPort_updPort_self ..,
      fun k hk => getPort_updPort_ne _ _ _ _ hk, rfl, ?_, ?_, ?_⟩
    · rw [exec_helloI, onFabric_of_live hlive, helloI, onHandshake_of_stranger hnone hhears]
    · rw [exec_helloR, onFabric_of_live hlive, helloR, onHandshake_of_stranger hnone hhears]
    · rw [exec_bondFinish, onFabric_of_live hlive, bondFinish, onHandshake_of_stranger hnone hhears]

end Sys2Proof.Machine

namespace Sys2Proof.Machine

/-! ## What the windows of a control stream leave of its bond -/

/-- A bond but for its control stream. -/
def withoutCtl (x : Bond) : Bond := { x with ctl := {} }

theorem withoutCtl_updS (s : State) (n : Nat) (f : Stream → Stream) (b : Nat) :
    withoutCtl (getBond (updS s n f) b) = withoutCtl (getBond s b) := by
  unfold updS
  split
  next =>
    by_cases hb : b = n - 8192
    · rw [hb, getBond_updBond_self]
      rfl
    · rw [getBond_updBond_ne _ _ _ _ hb]
  next => rfl

theorem withoutCtl_sendFlits (s : State) (n : Nat) (part : Bool) (b : Nat) :
    withoutCtl (getBond (sendFlits s n part) b) = withoutCtl (getBond s b) := by
  unfold sendFlits
  split
  next => exact withoutCtl_updS s n _ b
  next => rfl

theorem withoutCtl_closeWindow (s : State) (n b : Nat) :
    withoutCtl (getBond (closeWindow s n) b) = withoutCtl (getBond s b) := by
  refine Eq.trans ?_ (withoutCtl_sendFlits s n true b)
  unfold closeWindow
  dsimp only
  split
  next =>
    rw [getBond_of_bonds (updPort_bonds ..), apply_ite (getBond · b), getBond_of_bonds (raise_bonds _ _), ite_self]
    exact withoutCtl_updS _ n _ b
  next => rfl

theorem withoutCtl_startWindow (s : State) (n b : Nat) :
    withoutCtl (getBond (startWindow s n) b) = withoutCtl (getBond s b) := withoutCtl_updS s n _ b

theorem withoutCtl_sendEmpty (s : State) (n b : Nat) : withoutCtl (getBond (sendEmpty s n) b) = withoutCtl (getBond s b) := by
  unfold sendEmpty moveStream
  dsimp only
  split
  next =>
    split
    next => rfl
    next =>
      split
      next => rw [withoutCtl_closeWindow, withoutCtl_startWindow, withoutCtl_updS]
      next => rfl
  next =>
    split
    next => rfl
    next =>
      split
      next => rw [withoutCtl_closeWindow, withoutCtl_startWindow]
      next => rfl

/-! ## HELLO_I, HELLO_R and FINISH (R245, R246) -/

/-- A message of the peer that the handshake of bond `b` is with is its own. -/
theorem onHandshake_of_peer {s : State} {p b : Nat} {src : BitVec 16} (hwith : handshakeWith s src = some b)
    (hhears : portHears s p = true) (f : Nat → Bond → State) : onHandshake s p src f = f b (getBond s b) := by
  simp only [onHandshake, hhears, Bool.not_true, Bool.false_eq_true, if_false, hwith]

section Hello

variable {s : State} {b p : Nat} {src : BitVec 16} {m : Bytes} (hwith : handshakeWith s src = some b)
  (hhears : portHears s p = true) (hfinish : (getBond s b).finishSent = false)
  (hstate : (getBond s b).state = .agreeing) (hsource : leField m 0 2 = src.toNat)

include hwith hhears hfinish hstate hsource

section Responder

variable (hinitiator : (getBond s b).initiator = false) (hentropy : noEntropy s = false)

include hinitiator hentropy

theorem helloI_of_version {t : State} {v : Nat} {ct ssk sse : Bytes} (hversion : commonVersion m = some v)
    (ht : t = record (drawSecrets s b) b 2 m) (hkem : Config.kemEncaps (helloKem m) (secretBytes (getBond t b) 56 64) = some (ct, ssk))
    (hecdh : Config.ecdhX (secretBytes (getBond t b) 0 56) (helloPk m) = some sse) :
    helloI s p src m =
      sendFinish (agree (record (sendHandshake t b 3 (helloBody t b ct)) b 3 (helloBody t b ct)) b v m ssk sse) b := by
  subst ht
  simp only [helloI, onHandshake_of_peer hwith hhears, hinitiator, hstate, hfinish, hsource, hentropy, hversion, hkem, hecdh,
    ne_eq, not_true, Bool.false_eq_true, or_self, if_false]

theorem helloI_of_no_version (hversion : commonVersion m = none) : helloI s p src m = failHandshake s b linkVersion := by
  simp only [helloI, onHandshake_of_peer hwith hhears, hinitiator, hstate, hfinish, hsource, hentropy, hversion,
    ne_eq, not_true, Bool.false_eq_true, or_self, if_false]

end Responder

section Initiator

variable (hinitiator : (getBond s b).initiator = true)

include hinitiator

theorem helloR_of_version {v : Nat} {sse : Bytes} (hversion : commonVersion m = some v)
    (hecdh : Config.ecdhX (secretBytes (getBond s b) 0 56) (helloPk m) = some sse) :
    helloR s p src m =
      sendFinish (agree (record s b 3 m) b v m (Config.kemDecaps (secretBytes (getBond s b) 56 64) (helloKem m)) sse) b := by
  simp only [helloR, onHandshake_of_peer hwith hhears, hinitiator, hstate, hfinish, hsource, hversion, hecdh,
    ne_eq, not_true, Bool.not_true, Bool.false_eq_true, or_self, if_false]

theorem helloR_of_no_version (hversion : commonVersion m = none) : helloR s p src m = failHandshake s b linkVersion := by
  simp only [helloR, onHandshake_of_peer hwith hhears, hinitiator, hstate, hfinish, hsource, hversion,
    ne_eq, not_true, Bool.not_true, Bool.false_eq_true, or_self, if_false]

end Initiator

end Hello

section Finish

variable {s : State} {b p : Nat} {src : BitVec 16} {m : Bytes} (hwith : handshakeWith s src = some b)
  (hhears : portHears s p = true) (hfinish : (getBond s b).finishSent = true)

include hwith hhears hfinish

theorem bondFinish_of_verified (hentropy : noEntropy s = false) (hverifies : finishVerifies (getBond s b) m = true) :
    bondFinish s p src m = goLiveBond s b := by
  simp only [bondFinish, onHandshake_of_peer hwith hhears, hfinish, hentropy, hverifies, Bool.not_true, Bool.false_eq_true, if_false]

theorem bondFinish_of_not_verified (hverifies : finishVerifies (getBond s b) m = false) :
    bondFinish s p src m = failHandshake s b linkAgreementFailed := by
  simp only [bondFinish, onHandshake_of_peer hwith hhears, hfinish, hverifies, Bool.not_true, Bool.not_false, Bool.false_eq_true,
    if_false, if_true]

end Finish

/-! ## A bond that goes LIVE -/

/-- The entry of a bond that goes LIVE with `seed` as its hash seed. -/
def liveBond (x : Bond) (b : Nat) (seed : Word) : Bond :=
  { x with
    state := .live, root := x.nextRoot.getD [], rxRoot := x.nextRoot.getD [], nextRoot := none, oldRx := none, oldTx := none
    flipRoot := none, flipDue := false, rootGens := 1, txGen := 0, rxGen := 0, flipping := false, rxFlipping := false
    reagreeing := false, salt := 0, newSalts := [], secret := [], transcript := [], att := {}, spdm := {}, finishSent := false
    hashSeed := seed, inbox := [], outbox := [], partialMsg := []
    ctl := { state := .opened, bond := b, txSalt := 0xFFFFFFFF, rxSalt := 0xFFFFFFFF } }

theorem getBond_drawFresh (s : State) (n b : Nat) : getBond (drawFresh s n).1 b = getBond s b := by
  unfold drawFresh
  split <;> rfl

theorem getBond_withPorts (s : State) (ports : Tab Port) (b : Nat) : getBond { s with ports := ports } b = getBond s b := rfl

/-- A bond that goes LIVE has a new entry, its control stream's first windows apart. -/
theorem withoutCtl_goLiveBond (s : State) (b : Nat) :
    ∃ seed, withoutCtl (getBond (goLiveBond s b) b) = withoutCtl (liveBond (getBond s b) b seed) := by
  rcases hdraw : drawFresh s 4 with ⟨t, d⟩
  have hbond : getBond t b = getBond s b := by
    have h := getBond_drawFresh s 4 b
    rwa [hdraw] at h
  refine ⟨BitVec.ofNat 32 (leNat d), ?_⟩
  simp only [goLiveBond, hdraw]
  rw [withoutCtl_sendEmpty, ← hbond, getBond_withPorts, getBond_updBond_self, getBond_setBondState_self]
  rfl

/-- Settles O34: the two HELLOs and FINISH agree on a root and a version, take the bond to LIVE, or end the handshake. -/
theorem agreementMessages : Obligations.AgreementMessages := by
  refine ⟨fun s b p v src m hlive hwith hhears => ⟨
      fun t y ct ssk sse hinitiator hfinish hstate hsource hentropy hversion ht hy hkem hecdh => ?helloI,
      fun hinitiator hfinish hstate hsource hentropy hversion => ?noVersionI,
      fun sse hinitiator hfinish hstate hsource hversion hecdh => ?helloR,
      fun hinitiator hfinish hstate hsource hversion => ?noVersionR,
      fun hfinish hentropy hverifies => ?finish, fun hfinish hverifies => ?badFinish⟩,
    fun s b v m ssk sse => ?agree, fun s b => ?goLive⟩
  case helloI =>
    subst hy
    rw [exec_helloI, onFabric_of_live hlive, helloI_of_version hwith hhears hfinish hstate hsource hinitiator hentropy hversion ht hkem
      hecdh]
  case noVersionI =>
    rw [exec_helloI, onFabric_of_live hlive,
      helloI_of_no_version hwith hhears hfinish hstate hsource hinitiator hentropy hversion]
    rfl
  case helloR =>
    rw [exec_helloR, onFabric_of_live hlive, helloR_of_version hwith hhears hfinish hstate hsource hinitiator hversion hecdh]
  case noVersionR =>
    rw [exec_helloR, onFabric_of_live hlive, helloR_of_no_version hwith hhears hfinish hstate hsource hinitiator hversion]
    rfl
  case finish => rw [exec_bondFinish, onFabric_of_live hlive, bondFinish_of_verified hwith hhears hfinish hentropy hverifies]
  case badFinish =>
    rw [exec_bondFinish, onFabric_of_live hlive, bondFinish_of_not_verified hwith hhears hfinish hverifies]
    rfl
  case agree =>
    simp only [agree, getBond_updBond_self]
    exact ⟨trivial, trivial, trivial, trivial, rfl⟩
  case goLive =>
    obtain ⟨seed, h⟩ := withoutCtl_goLiveBond s b
    have hfield {α : Type} (f : Bond → α) (hf : ∀ x, f (withoutCtl x) = f x) :
        f (getBond (goLiveBond s b) b) = f (liveBond (getBond s b) b seed) := by rw [← hf, h, hf]
    exact ⟨hfield (·.state) fun _ => rfl, hfield (·.root) fun _ => rfl, hfield (·.rxRoot) fun _ => rfl,
      hfield (·.txGen) fun _ => rfl, hfield (·.rxGen) fun _ => rfl, hfield (·.salt) fun _ => rfl, hfield (·.secret) fun _ => rfl,
      hfield (·.nextRoot) fun _ => rfl⟩

end Sys2Proof.Machine

namespace Sys2Proof.Machine

/-! ## The control message at the head of an inbox (R250, Table 9.5) -/

section OnMessage

variable {s : State} {b : Nat} (hlive : live s = true)

include hlive

/-- A message of its type at the head is taken and handled. -/
theorem onMessage_of_head {t : Nat} {ty : BitVec 16} {m : Bytes} {rest : List (BitVec 16 × Bytes)}
    (hinbox : (getBond s b).inbox = (ty, m) :: rest) (hty : ty.toNat = t) (f : State → Bytes → State) :
    onMessage s b t f = .next (fabricSettle (f (updBond s b fun x => { x with inbox := rest }) m)) := by
  rw [onMessage, onFabric_of_live hlive]
  simp only [hinbox, hty, if_true]

/-- A row whose type is not at the head takes nothing. -/
theorem onMessage_of_other {t : Nat} {ty : BitVec 16} (hother : (getBond s b).inbox.head?.map (·.1) ≠ some ty) (hty : ty.toNat = t)
    (f : State → Bytes → State) : onMessage s b t f = .next (fabricSettle s) := by
  rw [onMessage, onFabric_of_live hlive]
  cases hinbox : (getBond s b).inbox with
  | nil => rfl
  | cons m rest =>
    have hne : m.1.toNat ≠ t := fun h =>
      hother (by rw [hinbox, List.head?_cons, Option.map_some, BitVec.eq_of_toNat_eq (h.trans hty.symm)])
    simp only [hne, if_false]

end OnMessage

section Exec

variable (b : Nat) (s : State)

theorem exec_openReq : exec (.openReq b) s = onMessage s b 0x0101 fun s m => openReq s b m := rfl

theorem exec_openAck : exec (.openAck b) s = onMessage s b 0x0102 fun s m => openAck s b m := rfl

theorem exec_openRefuse : exec (.openRefuse b) s = onMessage s b 0x0103 fun s m =>
    if (getStream s (leField m 0 2 / 256) (leField m 0 2 % 256)).bond = b
    then refuseOpen s (leField m 0 2) (BitVec.ofNat 32 (leField m 2 1)) else s := rfl

theorem exec_closeStream : exec (.closeStream b) s = onMessage s b 0x0104 fun s m =>
    if (getStream s (leField m 2 2 / 256) (leField m 2 2 % 256)).bond = b ∧
      (getStream s (leField m 2 2 / 256) (leField m 2 2 % 256)).peerStream = leField m 0 2
    then drainStream s (leField m 2 2 / 256) (leField m 2 2 % 256) false else s := rfl

theorem exec_phasePrepare : exec (.phasePrepare b) s = onMessage s b 0x0105 fun s m => phasePrepare s b m := rfl

theorem exec_phaseReady : exec (.phaseReady b) s = onMessage s b 0x0106 fun s m => readyFlip s b (leField m 0 2) := rfl

theorem exec_phaseDone : exec (.phaseDone b) s = onMessage s b 0x0107 fun s m => doneFlip s b (leField m 0 2) := rfl

theorem exec_reagreeOffer : exec (.reagreeOffer b) s = onMessage s b 0x0108 fun s m => reagreeOffer s b m := rfl

theorem exec_reagreeAnswer : exec (.reagreeAnswer b) s = onMessage s b 0x0109 fun s m => reagreeAnswer s b m := rfl

theorem exec_bondStaleMsg : exec (.bondStaleMsg b) s = onMessage s b 0x010A fun s _ => staleBond s b := rfl

theorem exec_bondCloseMsg : exec (.bondCloseMsg b) s = onMessage s b 0x010B fun s _ => closeBond s b := rfl

theorem exec_rekeyRequest : exec (.rekeyRequest b) s = onMessage s b 0x010C fun s _ => startFlip s b := rfl

end Exec

/-- Settles O35: the message at the head is handled by the row of its type, and any other row takes nothing. -/
theorem controlMessages : Obligations.ControlMessages := by
  refine ⟨fun s v b t m rest hlive hinbox hv => ?taken, fun s b i hlive hi hother => ?left⟩
  case taken =>
    subst hv
    refine ⟨?_, ?_, ?_, ?_, ?_, ?_, ?_, ?_, ?_, ?_, ?_, ?_⟩
    · rintro rfl
      rw [exec_openReq, onMessage_of_head hlive (t := 0x0101) hinbox rfl]
    · rintro rfl
      rw [exec_openAck, onMessage_of_head hlive (t := 0x0102) hinbox rfl]
    · rintro rfl hof
      rw [exec_openRefuse, onMessage_of_head hlive (t := 0x0103) hinbox rfl, if_pos hof]
    · rintro rfl hof hpeer
      rw [exec_closeStream, onMessage_of_head hlive (t := 0x0104) hinbox rfl, if_pos ⟨hof, hpeer⟩]
    · rintro rfl
      rw [exec_phasePrepare, onMessage_of_head hlive (t := 0x0105) hinbox rfl]
    · rintro rfl
      rw [exec_phaseReady, onMessage_of_head hlive (t := 0x0106) hinbox rfl]
    · rintro rfl
      rw [exec_phaseDone, onMessage_of_head hlive (t := 0x0107) hinbox rfl]
    · rintro rfl
      rw [exec_reagreeOffer, onMessage_of_head hlive (t := 0x0108) hinbox rfl]
    · rintro rfl
      rw [exec_reagreeAnswer, onMessage_of_head hlive (t := 0x0109) hinbox rfl]
    · rintro rfl
      rw [exec_bondStaleMsg, onMessage_of_head hlive (t := 0x010A) hinbox rfl]
    · rintro rfl
      rw [exec_bondCloseMsg, onMessage_of_head hlive (t := 0x010B) hinbox rfl]
    · rintro rfl
      rw [exec_rekeyRequest, onMessage_of_head hlive (t := 0x010C) hinbox rfl]
  case left =>
    simp only [List.mem_cons, List.not_mem_nil, or_false] at hi
    obtain rfl | rfl | rfl | rfl | rfl | rfl | rfl | rfl | rfl | rfl | rfl | rfl := hi
    · exact (exec_openReq b s).trans (onMessage_of_other hlive (t := 0x0101) hother rfl _)
    · exact (exec_openAck b s).trans (onMessage_of_other hlive (t := 0x0102) hother rfl _)
    · exact (exec_openRefuse b s).trans (onMessage_of_other hlive (t := 0x0103) hother rfl _)
    · exact (exec_closeStream b s).trans (onMessage_of_other hlive (t := 0x0104) hother rfl _)
    · exact (exec_phasePrepare b s).trans (onMessage_of_other hlive (t := 0x0105) hother rfl _)
    · exact (exec_phaseReady b s).trans (onMessage_of_other hlive (t := 0x0106) hother rfl _)
    · exact (exec_phaseDone b s).trans (onMessage_of_other hlive (t := 0x0107) hother rfl _)
    · exact (exec_reagreeOffer b s).trans (onMessage_of_other hlive (t := 0x0108) hother rfl _)
    · exact (exec_reagreeAnswer b s).trans (onMessage_of_other hlive (t := 0x0109) hother rfl _)
    · exact (exec_bondStaleMsg b s).trans (onMessage_of_other hlive (t := 0x010A) hother rfl _)
    · exact (exec_bondCloseMsg b s).trans (onMessage_of_other hlive (t := 0x010B) hother rfl _)
    · exact (exec_rekeyRequest b s).trans (onMessage_of_other hlive (t := 0x010C) hother rfl _)

end Sys2Proof.Machine

namespace Sys2Proof.Machine

/-! ## Streams by their number: entries of ports and control streams of bonds -/

theorem getS_of_ctl {s : State} {n : Nat} (h : isCtl n = true) : getS s n = (getBond s (n - 8192)).ctl := if_pos h

theorem getS_of_entry {s : State} {n : Nat} (h : isCtl n = false) : getS s n = getStream s (n / 256) (n % 256) := by
  rw [getS, h]
  rfl

theorem updS_of_ctl {s : State} {n : Nat} (h : isCtl n = true) (f : Stream → Stream) :
    updS s n f = updBond s (n - 8192) fun b => { b with ctl := f b.ctl } := if_pos h

theorem updS_of_entry {s : State} {n : Nat} (h : isCtl n = false) (f : Stream → Stream) :
    updS s n f = updStream s (n / 256) (n % 256) f := by
  rw [updS, h]
  rfl

@[simp] theorem getS_updS_self (s : State) (n : Nat) (f : Stream → Stream) : getS (updS s n f) n = f (getS s n) := by
  cases h : isCtl n with
  | true => rw [updS_of_ctl h, getS_of_ctl h, getBond_updBond_self, getS_of_ctl h]
  | false => rw [updS_of_entry h, getS_of_entry h, getStream_updStream_self, getS_of_entry h]

/-- What reads of streams and their ports goes by the ports and the bonds alone. -/
theorem getS_congr {s t : State} (hports : t.ports = s.ports) (hbonds : t.bonds = s.bonds) (n : Nat) : getS t n = getS s n := by
  rw [getS, getS, getBond_of_bonds hbonds, getStream_of_ports hports]

theorem portOf_congr {s t : State} (hports : t.ports = s.ports) (hbonds : t.bonds = s.bonds) (n : Nat) :
    portOf t n = portOf s n := by
  rw [portOf, portOf, controlPort_congr hports (congrArg Bond.mask (getBond_of_bonds hbonds _))]

/-- A change of a port that leaves its streams leaves them by number too. -/
theorem getS_updPort_of_streams {s : State} {p : Nat} {f : Port → Port} (hf : ∀ x, (f x).streams = x.streams) (n : Nat) :
    getS (updPort s p f) n = getS s n := by
  rw [getS, getS, getStream_updPort_of_streams hf]
  rfl

/-- The port of a stream goes by the states of the ports and the masks of the bonds. -/
theorem portOf_of_states {s t : State} (hports : ∀ p, (getPort t p).state = (getPort s p).state)
    (hbonds : ∀ b, (getBond t b).mask = (getBond s b).mask) (n : Nat) : portOf t n = portOf s n := by
  simp only [portOf, controlPort, hports, hbonds]

theorem state_updPort {s : State} {p : Nat} {f : Port → Port} (hf : ∀ x, (f x).state = x.state) (k : Nat) :
    (getPort (updPort s p f) k).state = (getPort s k).state := by
  by_cases hk : k = p
  · rw [hk, getPort_updPort_self, hf]
  · rw [getPort_updPort_ne _ _ _ _ hk]

theorem portOf_updPort {s : State} {p : Nat} {f : Port → Port} (hf : ∀ x, (f x).state = x.state) (n : Nat) :
    portOf (updPort s p f) n = portOf s n := portOf_of_states (state_updPort hf) (fun _ => rfl) n

theorem portOf_updBond {s : State} {b : Nat} {f : Bond → Bond} (hf : ∀ x, (f x).mask = x.mask) (n : Nat) :
    portOf (updBond s b f) n = portOf s n := by
  refine portOf_of_states (s := s) (t := updBond s b f) (fun _ => rfl) (fun k => ?_) n
  by_cases hk : k = b
  · rw [hk, getBond_updBond_self, hf]
  · rw [getBond_updBond_ne _ _ _ _ hk]

theorem egress_updS (s : State) (n : Nat) (f : Stream → Stream) (p : Nat) :
    (getPort (updS s n f) p).egress = (getPort s p).egress := by
  cases h : isCtl n with
  | true => rw [updS_of_ctl h]; rfl
  | false =>
    rw [updS_of_entry h]
    by_cases hp : p = n / 256
    · rw [hp, getPort_updStream_self]
    · rw [updStream, getPort_updPort_ne _ _ _ _ hp]

@[simp] theorem portOf_updS (s : State) (n : Nat) (f : Stream → Stream) (k : Nat) : portOf (updS s n f) k = portOf s k := by
  cases h : isCtl n with
  | true =>
    rw [updS_of_ctl h]
    exact portOf_updBond (s := s) (b := n - 8192) (f := fun b => { b with ctl := f b.ctl }) (fun _ => rfl) k
  | false =>
    rw [updS_of_entry h]
    exact portOf_updPort (s := s) (p := n / 256)
      (f := fun x => { x with streams := tset x.streams (n % 256) (f (tgetD x.streams (n % 256) {})) }) (fun _ => rfl) k

/-! ## Flits that leave (R256) -/

/-- Flits put into the egress of port `p`. -/
def putEgress (s : State) (p : Nat) (flits : List Bytes) : State := updPort s p fun y => { y with egress := y.egress ++ flits }

theorem getS_putEgress (s : State) (p : Nat) (flits : List Bytes) (n : Nat) : getS (putEgress s p flits) n = getS s n :=
  getS_updPort_of_streams (s := s) (p := p) (f := fun y => { y with egress := y.egress ++ flits }) (fun _ => rfl) n

theorem portOf_putEgress (s : State) (p : Nat) (flits : List Bytes) (n : Nat) : portOf (putEgress s p flits) n = portOf s n :=
  portOf_updPort (s := s) (p := p) (f := fun y => { y with egress := y.egress ++ flits }) (fun _ => rfl) n

theorem egress_putEgress (s : State) (p : Nat) (flits : List Bytes) :
    (getPort (putEgress s p flits) p).egress = (getPort s p).egress ++ flits := by
  rw [putEgress, getPort_updPort_self]

section SendFlits

variable {s : State} {n k : Nat} {w : OpenWindow} (hwin : (getS s n).win = some w) (hport : portOf s n = some k) (part : Bool)

include hwin hport

/-- The DATA flits of the open window that are due join its port's egress and the window's own list. -/
theorem sendFlits_of_open : ∃ new ended, sendFlits s n part =
    putEgress (updS s n fun x => { x with win := some { w with flits := w.flits ++ new, ended := ended } }) k new := by
  simp only [sendFlits, hwin, hport]
  exact ⟨_, _, rfl⟩

end SendFlits

end Sys2Proof.Machine

namespace Sys2Proof.Machine

/-! ## Windows going out (R256 to R261) -/

section Exec

variable {s : State} (hlive : live s = true) (n : Nat)

include hlive

theorem exec_portTransmit (lanes : List Nat) : exec (.portTransmit n lanes) s = .next (fabricSettle (portTransmit s n lanes)) :=
  if_pos hlive

theorem exec_windowIdleClose : exec (.windowIdleClose n) s = .next (fabricSettle (closeWindow s n)) := if_pos hlive

theorem exec_ackOwedTimeout (howed : (getS s n).ackOwed = true ∨ (getS s n).nakOwed = true) :
    exec (.ackOwedTimeout n) s = .next (fabricSettle (sendEmpty s n)) := if_pos ⟨hlive, howed⟩

theorem exec_retransmitTimeout : exec (.retransmitTimeout n) s = .next (fabricSettle (resendOrFail s n 0)) := if_pos hlive

end Exec

/-! ### A request packed -/

/-- A port that has nothing else to send packs its oldest request. -/
theorem portTransmit_of_requests {s : State} {p : Nat} (hstate : (getPort s p).state = .up ∨ (getPort s p).state = .draining)
    (hserves : portServes s p = true) (hcontrol : controlWaits s p = []) (htx : (getPort s p).tx ≠ []) :
    portTransmit s p [] = transmitRequest s p := by
  have hopen : ¬((getPort s p).state ≠ .up ∧ (getPort s p).state ≠ .draining) := fun h => hstate.elim h.1 h.2
  have hsends : portSends s p = true := by
    simp only [portSends, List.isEmpty_eq_false_iff.2 htx, Bool.not_false, Bool.true_or]
  have hseen : seenLanes s p 0 [] = [] := ite_self _
  have hmismatch : portMismatch s p 0 [] = s := rfl
  simp only [portTransmit, hopen, hserves, hsends, Bool.not_true, Bool.false_eq_true, or_self, if_false, hseen, List.take_nil,
    List.length_nil, hmismatch, hcontrol, List.foldl_nil]
  rfl

theorem transmitRequest_of_packed {s v : State} {p e : Nat} {r : Req} {rest : List (Nat × Req)}
    (htx : (getPort s p).tx = (e, r) :: rest) (hroom : outstandingRoom s p e = true)
    (hpack : packEntry s (streamNo p e) (requestEntry r (getStream s p e).oseq.toNat) = some v) :
    transmitRequest s p = endFlit (updStream (updPort v p fun y => { y with tx := y.tx.erase (e, r) }) p e fun x =>
      { x with oseq := x.oseq + 1, outstanding := x.outstanding ++ [(x.oseq, r)] }) (streamNo p e) := by
  have hsendable : sendable s p ((e, r) :: rest) [] = some (v, e, r) := by
    simp only [sendable, List.contains_nil, Bool.false_eq_true, if_false, hroom, Bool.not_true, hpack]
  simp only [transmitRequest, htx, hsendable]

/-! ### Acknowledgements and windows sent again -/

theorem sendEmpty_of_room {s : State} {n k : Nat} (hmove : (getS s n).moveDue = false) (hport : portOf s n = some k)
    (hwin : (getS s n).win = none) (hopen : mayOpenWindow s k n = true) : sendEmpty s n = closeWindow (startWindow s n) n := by
  simp only [sendEmpty, hmove, Bool.false_eq_true, if_false, hport, hwin, Option.isNone_none, hopen, and_self, if_true]

section Resend

variable {s : State} {n : Nat} {w : SentWindow} (hsent : (getS s n).sent.head? = some w)

include hsent

theorem resendOrFail_of_again (hresends : (getS s n).resends < 8) :
    resendOrFail s n 0 = resendWindows (updS s n fun x => { x with resends := x.resends + 1 }) n 0 := by
  simp only [resendOrFail, hsent, Nat.zero_le, decide_true, true_and, if_true, ge_iff_le, if_neg (Nat.not_le.2 hresends)]

theorem resendOrFail_of_last (hresends : 8 ≤ (getS s n).resends) : resendOrFail s n 0 = failWith s n 0x30 := by
  simp only [resendOrFail, hsent, Nat.zero_le, decide_true, true_and, ge_iff_le, if_pos hresends]

end Resend

/-- Every window held goes out again, flit for flit. -/
theorem resendWindows_of_port {s : State} {n k : Nat} (hport : portOf s n = some k) :
    resendWindows s n 0 = updPort s k fun y =>
      { y with egress := y.egress ++ (getS s n).sent.flatMap (·.flits), retx := satAdd 16 y.retx (getS s n).sent.length } := by
  have hall : ((getS s n).sent.filter fun w => decide (w.seq ≥ 0)) = (getS s n).sent :=
    List.filter_eq_self.2 fun w _ => decide_eq_true (Nat.zero_le w.seq)
  simp only [resendWindows, hport, hall]

/-! ### An open window closed -/

/-- The window that is held once its TAG flit is out. -/
def heldWindow (w : OpenWindow) (new : List Bytes) (tag : Bytes) : SentWindow :=
  { seq := w.seq, gen := w.gen, flits := w.flits ++ new ++ [tag] }

/-- A stream whose open window closes. -/
def windowHeld (x : Stream) (d : SentWindow) : Stream :=
  { x with win := none, ackOwed := false, nakOwed := false, sent := x.sent ++ [d] }

theorem closeWindow_of_open {s : State} {n k : Nat} {w : OpenWindow} (hwin : (getS s n).win = some w)
    (hport : portOf s n = some k) :
    ∃ new tag, getS (closeWindow s n) n = windowHeld (getS s n) (heldWindow w new tag) ∧
      (getPort (closeWindow s n) k).egress = (getPort s k).egress ++ new ++ [tag] := by
  obtain ⟨new, ended, hsent⟩ := sendFlits_of_open hwin hport true
  have hstream : getS (sendFlits s n true) n =
      { getS s n with win := some { w with flits := w.flits ++ new, ended := ended } } := by
    rw [hsent, getS_putEgress, getS_updS_self]
  have hport' : portOf (sendFlits s n true) n = some k := by rw [hsent, portOf_putEgress, portOf_updS, hport]
  have hegress : (getPort (sendFlits s n true) k).egress = (getPort s k).egress ++ new := by
    rw [hsent, egress_putEgress, egress_updS]
  have hwin' : (getS (sendFlits s n true) n).win = some { w with flits := w.flits ++ new, ended := ended } := by rw [hstream]
  refine ⟨new, windowTag (sendFlits s n true) n { w with flits := w.flits ++ new, ended := ended }, ?_, ?_⟩
  · simp only [closeWindow, hwin', hport']
    rw [getS_updPort_of_streams, apply_ite (getS · n), getS_congr (raise_ports _ _) (raise_bonds _ _), ite_self, getS_updS_self, hstream]
    · rfl
    · exact fun _ => rfl
  · simp only [closeWindow, hwin', hport']
    rw [getPort_updPort_self, apply_ite (getPort · k), getPort_of_ports (raise_ports _ _), ite_self]
    change (getPort _ k).egress ++ _ = _
    rw [egress_updS, hegress]

/-- Settles O37: requests are packed, windows close, are acknowledged and go out again, and a stream gives up after the eighth time. -/
theorem windowsOut : Obligations.WindowsOut := by
  refine ⟨fun s p n hlive => ⟨fun e r rest v hstate hserves hcontrol htx hroom hpack => ?packed, exec_windowIdleClose hlive n,
      fun k howed hmove hport hwin hopen => ?acknowledged, fun w k hsent hport hresends => ?again, fun w hsent hresends => ?last⟩,
    fun s n k w hwin hport => ?closed⟩
  case packed =>
    rw [exec_portTransmit hlive, portTransmit_of_requests hstate hserves hcontrol (by rw [htx]; exact List.cons_ne_nil _ _),
      transmitRequest_of_packed htx hroom hpack]
  case acknowledged => rw [exec_ackOwedTimeout hlive n howed, sendEmpty_of_room hmove hport hwin hopen]
  case again =>
    have hport' : portOf (updS s n fun x => { x with resends := x.resends + 1 }) n = some k := by rw [portOf_updS, hport]
    refine ⟨_, by rw [exec_retransmitTimeout hlive, resendOrFail_of_again hsent hresends, resendWindows_of_port hport'], ?_, ?_, ?_⟩
    · rw [getS_updPort_of_streams, getS_updS_self]
      exact fun _ => rfl
    · rw [getS_updPort_of_streams, getS_updS_self]
      exact fun _ => rfl
    · rw [getPort_updPort_self, getS_updS_self]
      exact congrArg (· ++ _) (egress_updS s n _ k)
  case last => rw [exec_retransmitTimeout hlive, resendOrFail_of_last hsent hresends]
  case closed =>
    obtain ⟨new, tag, hstream, hegress⟩ := closeWindow_of_open hwin hport
    rw [hstream, hegress]
    exact ⟨heldWindow w new tag, rfl, rfl, rfl, rfl, rfl, rfl, tag, new, rfl, rfl⟩

end Sys2Proof.Machine

namespace Sys2Proof.Machine

/-! ## Windows coming in (R257 to R263) -/

@[simp] theorem outsideLinks_updS (s : State) (n : Nat) (f : Stream → Stream) : outsideLinks (updS s n f) = outsideLinks s := by
  unfold updS
  split <;> rfl

section DataFlit

variable {s : State} {p n : Nat} {f : Bytes} {rxErr : Bool} {lanes : List Nat} (hlive : live s = true)
  (hcarries : portCarries s p = true)

include hlive hcarries

theorem exec_dataFlitReceive :
    exec (.dataFlitReceive p f rxErr lanes) s = .next (settle (dataFlit s p f rxErr lanes)) := if_pos ⟨hlive, hcarries⟩

variable (hstream : flitStream s f = some n)

include hstream

theorem exec_tagFlitReceive : exec (.tagFlitReceive p f rxErr lanes) s =
    .next (fabricSettle (tagFlit (portMismatch s p 1 (seenLanes s p 1 lanes)) p n f (flawedFlit s p rxErr lanes))) := by
  change execTagFlitReceive p f rxErr lanes s = _
  simp only [execTagFlitReceive, hlive, hcarries, and_self, if_true, hstream]

omit hlive hcarries in
/-- A DATA flit of a window that has room is held at its position. -/
theorem dataFlit_of_room (hroom : (getS s n).held ≠ [] ∨ (assembling s p).length < 64) :
    dataFlit s p f rxErr lanes = updS (portMismatch s p 1 (seenLanes s p 1 lanes)) n fun x =>
      { x with flawed := x.flawed || flawedFlit s p rxErr lanes || leField f 5 1 % 16 != x.held.length || leField f 4 1 != 1
               held := tset x.held (leField f 5 1 % 16) f } := by
  have hroom' : (!(getS s n).held.isEmpty || decide ((assembling s p).length < 64)) = true := by
    rw [Bool.or_eq_true, Bool.not_eq_true', List.isEmpty_eq_false_iff, decide_eq_true_iff]
    exact hroom
  simp only [dataFlit, hstream, hroom', Bool.not_true, Bool.or_false, if_true]

end DataFlit

/-- A stream whose assembly buffer is given up. -/
def assemblyCleared (x : Stream) : Stream := { x with held := [], flawed := false }

/-- What a TAG flit that takes no window leaves: its window is dropped, a counter of the port moves, and an answer is owed. -/
def windowDropped (s : State) (p n : Nat) (count : Port → Port) (owe : Stream → Stream) : State :=
  updS (updPort (updS s n assemblyCleared) p count) n owe

section WindowDropped

variable (s : State) (p n : Nat) {count : Port → Port} (owe : Stream → Stream)

theorem outsideLinks_windowDropped : outsideLinks (windowDropped s p n count owe) = outsideLinks s := by
  rw [windowDropped, outsideLinks_updS, outsideLinks_updPort, outsideLinks_updS]

theorem getS_windowDropped (hcount : ∀ x, (count x).streams = x.streams) :
    getS (windowDropped s p n count owe) n = owe (assemblyCleared (getS s n)) := by
  rw [windowDropped, getS_updS_self, getS_updPort_of_streams hcount, getS_updS_self]

end WindowDropped

/-- The counters of a port that a dropped window moves (Table 9.15). -/
def countDup (y : Port) : Port := { y with dup := satAdd 16 y.dup 1 }

def countGap (y : Port) : Port := { y with gap := satAdd 16 y.gap 1 }

def countTagFailed (y : Port) : Port := { y with tagFail := satAdd 16 y.tagFail 1 }

theorem streams_countDup (y : Port) : (countDup y).streams = y.streams := rfl

theorem streams_countGap (y : Port) : (countGap y).streams = y.streams := rfl

theorem streams_countTagFailed (y : Port) : (countTagFailed y).streams = y.streams := rfl

/-- An acknowledgement owed, and a NAK. -/
def owingAck (x : Stream) : Stream := { x with ackOwed := true }

def owingNak (x : Stream) : Stream := { x with nakOwed := true }

section TagFlit

variable {s : State} {p n : Nat} {f : Bytes}

theorem tagFlit_of_old (hold : leField f 28 8 < (getS s n).rxSeq) :
    tagFlit s p n f false = windowDropped s p n countDup owingAck := by
  simp only [tagFlit, Bool.not_false, Bool.true_and, hold, decide_true, if_true]
  rfl

theorem tagFlit_of_later (hlater : (getS s n).rxSeq < leField f 28 8) :
    tagFlit s p n f false = windowDropped s p n countGap owingNak := by
  simp only [tagFlit, Bool.not_false, Bool.true_and, Nat.not_lt.2 (Nat.le_of_lt hlater), hlater, decide_true, decide_false,
    Bool.false_eq_true, if_false, if_true]
  rfl

/-- A TAG flit whose window is neither old nor later goes by whether the window verifies. -/
theorem tagFlit_of_not_verified {bad : Bool} (hseq : bad = true ∨ leField f 28 8 = (getS s n).rxSeq)
    (hwindow : openWindow s n f bad = none) : tagFlit s p n f bad = windowDropped s p n countTagFailed owingNak := by
  have hold : (!bad && decide (leField f 28 8 < (getS s n).rxSeq)) = false := by
    obtain rfl | h := hseq
    · rfl
    · rw [h, decide_eq_false (Nat.lt_irrefl _), Bool.and_false]
  have hlater : (!bad && decide ((getS s n).rxSeq < leField f 28 8)) = false := by
    obtain rfl | h := hseq
    · rfl
    · rw [h, decide_eq_false (Nat.lt_irrefl _), Bool.and_false]
  simp only [tagFlit, hold, gt_iff_lt, hlater, Bool.false_eq_true, if_false, hwindow]
  rfl

/-- A stream that has taken its next window, under generation `gen`. -/
def windowTaken (gen : Nat) (x : Stream) : Stream :=
  { x with
    rxSeq := x.rxSeq + 1, ackOwed := true
    rxSalt := if gen = x.rxGen then x.rxSalt else x.rxSaltNext.getD x.rxSalt
    rxSaltNext := if gen = x.rxGen then x.rxSaltNext else none, rxGen := gen }

/-- The state in which a verified window stands taken. -/
def withWindowTaken (s : State) (p n gen : Nat) : State :=
  updPort (updS (updS s n assemblyCleared) n (windowTaken gen)) p fun y => { y with rxWin := y.rxWin + 1 }

theorem outsideLinks_withWindowTaken (gen : Nat) : outsideLinks (withWindowTaken s p n gen) = outsideLinks s := by
  rw [withWindowTaken, outsideLinks_updPort, outsideLinks_updS, outsideLinks_updS]

theorem getS_withWindowTaken (gen : Nat) :
    getS (withWindowTaken s p n gen) n = windowTaken gen (assemblyCleared (getS s n)) := by
  rw [withWindowTaken, getS_updPort_of_streams, getS_updS_self, getS_updS_self]
  exact fun _ => rfl

/-- The state after the acknowledgement that a taken window carries, and the end of a flip that it may bring. -/
def acknowledged (s : State) (n : Nat) (f : Bytes) : State :=
  finishRxFlip (takeAck s n (leField f 44 8) (leField f 52 1 / 2 % 2 == 1))
    (bondOf (takeAck s n (leField f 44 8) (leField f 52 1 / 2 % 2 == 1)) n)

theorem tagFlit_of_verified {pt : Bytes} {gen : Nat} (hentry : isCtl n = false) (hseq : leField f 28 8 = (getS s n).rxSeq)
    (hwindow : openWindow s n f false = some (pt, gen)) (hmember : memberOk s (leField f 40 4) (getS s n).accord = true) :
    tagFlit s p n f false =
      if (getS (acknowledged (withWindowTaken s p n gen) n f) n).state = .closed
      then acknowledged (withWindowTaken s p n gen) n f
      else releaseEntries (acknowledged (withWindowTaken s p n gen) n f) p n pt := by
  simp only [tagFlit, hseq, gt_iff_lt, Nat.lt_irrefl, decide_false, Bool.and_false, Bool.false_eq_true, if_false, hwindow, hentry,
    hmember, false_and, Bool.not_true, and_false]
  rfl

end TagFlit

/-- Settles O38: a DATA flit is held, and a TAG flit drops or takes its window. -/
theorem windowsIn : Obligations.WindowsIn := by
  intro s t p n f rxErr bad lanes hlive hcarries hstream ht hbad
  subst ht hbad
  rw [exec_tagFlitReceive hlive hcarries hstream]
  refine ⟨fun hroom => ?data, fun hgood hold => ?old, fun hgood hlater => ?later, fun hseq hwindow => ?notVerified,
    fun pt gen hgood hentry hseq hwindow hmember => ?verified⟩
  case data => rw [exec_dataFlitReceive hlive hcarries, dataFlit_of_room hstream hroom]
  case old =>
    refine ⟨_, by rw [hgood, tagFlit_of_old hold], withLinks_of_outsideLinks (outsideLinks_windowDropped ..), ?_⟩
    rw [getS_windowDropped _ _ _ _ streams_countDup]
    exact ⟨rfl, rfl, rfl⟩
  case later =>
    refine ⟨_, by rw [hgood, tagFlit_of_later hlater], withLinks_of_outsideLinks (outsideLinks_windowDropped ..), ?_⟩
    rw [getS_windowDropped _ _ _ _ streams_countGap]
    exact ⟨rfl, rfl, rfl⟩
  case notVerified =>
    refine ⟨_, by rw [tagFlit_of_not_verified hseq hwindow], withLinks_of_outsideLinks (outsideLinks_windowDropped ..), ?_⟩
    rw [getS_windowDropped _ _ _ _ streams_countTagFailed]
    exact ⟨rfl, rfl, rfl⟩
  case verified =>
    rw [hgood] at hwindow
    refine ⟨_, withWindowTaken _ p n gen, by rw [hgood, tagFlit_of_verified hentry hseq hwindow hmember], ?_, ?_, ?_, ?_,
      withLinks_of_outsideLinks (outsideLinks_withWindowTaken gen), ?_⟩
    · rw [getS_withWindowTaken]
      rfl
    · rw [getS_withWindowTaken]
      rfl
    · rw [getS_withWindowTaken]
      rfl
    · rw [getS_withWindowTaken]
      rfl
    · split
      · exact .inl rfl
      · exact .inr rfl

end Sys2Proof.Machine

namespace Sys2Proof.Machine

/-! ## Remote answers (R275, R276) -/

section RemoteResponse

variable {s : State} {n : Nat}

theorem exec_remoteResponse (hlive : live s = true) (hentry : isCtl n = false) :
    exec (.remoteResponse n) s = .next (fabricSettle (remoteResponse s n)) := if_pos ⟨hlive, by rw [hentry]; rfl⟩

theorem remoteResponse_of_none (hnone : (getS s n).responses = []) : remoteResponse s n = s := by
  rw [remoteResponse, hnone]

variable {x : Answered} {rest : List Answered} (hfirst : (getS s n).responses = x :: rest)

include hfirst

theorem remoteResponse_of_packed {v : State} (hpack : packEntry (arriveOnce s n x) n (responseEntry x) = some v) :
    remoteResponse s n = endFlit (updS v n fun y => { y with responses := y.responses.drop 1, arrived := false }) n := by
  simp only [remoteResponse, hfirst, hpack]

theorem remoteResponse_of_not_packed (hpack : packEntry (arriveOnce s n x) n (responseEntry x) = none) :
    remoteResponse s n = arriveOnce s n x := by
  simp only [remoteResponse, hfirst, hpack]

end RemoteResponse

/-! ## Records sent (R286, R287) -/

section Gateway

variable {s : State} (hlive : live s = true) (p a : Nat) (chip : BitVec 16)

include hlive

theorem exec_gatewayRequest : exec (.gatewayRequest p) s = .next (fabricSettle (gatewayRequest s p)) := if_pos hlive

theorem exec_gatewayRecordIdleClose :
    exec (.gatewayRecordIdleClose p a chip) s = .next (fabricSettle (closeOpen s p a chip.toNat)) := if_pos hlive

theorem exec_gatewayResendTimeout (rseq : Nat) :
    exec (.gatewayResendTimeout p a chip rseq) s = .next (fabricSettle (resendRecord s p a chip.toNat rseq)) := if_pos hlive

theorem exec_landingWaitTimeout {slot : Nat} {e : BitVec 16 × Record} (hslot : (getPort s p).landing[slot]? = some e) :
    exec (.landingWaitTimeout p slot) s =
      .next (fabricSettle (countStale (updPort s p fun x => { x with landing := x.landing.erase e }) p)) := by
  change execLandingWaitTimeout p slot s = _
  simp only [execLandingWaitTimeout, hslot, hlive, if_true]

theorem exec_gatewayFlitReceive {f : Bytes} {rxErr : Bool} {lanes : List Nat} (hgateway : (getPort s p).gateway = true)
    (hstate : (getPort s p).state = .up) (hserves : portServes s p = true) (hkind : leField f 4 1 = 5) :
    exec (.gatewayFlitReceive p f rxErr lanes) s =
      .next (fabricSettle (gatewayFlit (portMismatch s p 1 (seenLanes s p 1 lanes)) p f (flawedFlit s p rxErr lanes))) :=
  if_pos ⟨hlive, hgateway, hstate, hserves, hkind⟩

end Gateway

theorem gatewayRequest_of_none {s : State} {p : Nat} (hnone : (getPort s p).gwIn = []) : gatewayRequest s p = s := by
  rw [gatewayRequest, hnone]

/-- The oldest request goes by its mark and its operation. -/
theorem gatewayRequest_of_first {s : State} {p : Nat} {r : Req} {rest : List Req} (hfirst : (getPort s p).gwIn = r :: rest) :
    gatewayRequest s p =
      if underMark (updPort s p fun x => { x with gwIn := rest }) r
      then remoteRefuse (updPort s p fun x => { x with gwIn := rest }) r 0x42 0x04 none
      else if r.op = .readLine ∨ r.op = .readStretcher
      then closeRecord (closeOpen (updPort s p fun x => { x with gwIn := rest }) p r.accord r.chip) p (newRecord r true)
      else gatherStore (updPort s p fun x => { x with gwIn := rest }) p r := by
  simp only [gatewayRequest, hfirst]
  cases hop : r.op <;> simp only [reduceCtorEq, or_self, or_true, true_or, if_true, if_false]

section Resend

variable {s : State} {p a d rseq : Nat} {r : Record}
  (hfound : (getPort s p).gwSent.find? (fun x => x.accord == a && x.chip.toNat == d && x.rseq == rseq && x.sent) = some r)

include hfound

theorem resendRecord_of_last (hresends : 8 ≤ r.resends) : resendRecord s p a d rseq = loseRecords s p r := by
  simp only [resendRecord, hfound, ge_iff_le, if_pos hresends]

theorem resendRecord_of_key {key : Bytes} (hresends : r.resends < 8) (hkey : farKey (makeResident s a).1 a = some key) :
    resendRecord s p a d rseq =
      updPort (sendRecord (makeResident s a).1 p key (requestHeader (makeResident s a).1 r) (if r.read then [] else r.data)) p
        fun x => { x with
          gwSent := x.gwSent.map fun q => if sameRecord r q then { q with resends := q.resends + 1 } else q
          gwResent := satAdd 16 x.gwResent 1 } := by
  simp only [resendRecord, hfound, ge_iff_le, if_neg (Nat.not_le.2 hresends), hkey]

end Resend

/-! ## Records received (R289, Table 10.6) -/

section Verdict

variable {s : State} {src : BitVec 16} {r : Record} {top : Nat} {map : BitVec 64}
  (hseen : tgetD (getAccord s r.accord).farRx src.toNat (0, 0) = (top, map))

include hseen

theorem verdict_eq : verdict s src r =
    if r.rseq ≤ top then (if top - r.rseq < 64 ∧ map.getLsbD (top - r.rseq) then .duplicate else .stale)
    else if r.prev ≤ top then .apply else .wait := by
  simp only [verdict, hseen]

theorem verdict_of_old (hold : r.rseq ≤ top) : verdict s src r =
    if top - r.rseq < 64 ∧ map.getLsbD (top - r.rseq) then .duplicate else .stale := by
  rw [verdict_eq hseen, if_pos hold]

theorem verdict_of_new (hnew : ¬ r.rseq ≤ top) : verdict s src r = if r.prev ≤ top then .apply else .wait := by
  rw [verdict_eq hseen, if_neg hnew]

theorem verdict_eq_duplicate :
    verdict s src r = .duplicate ↔ r.rseq ≤ top ∧ top - r.rseq < 64 ∧ map.getLsbD (top - r.rseq) = true := by
  by_cases hold : r.rseq ≤ top
  · rw [verdict_of_old hseen hold]
    split
    case isTrue hin => exact ⟨fun _ => ⟨hold, hin⟩, fun _ => rfl⟩
    case isFalse hout => exact ⟨nofun, fun hin => absurd hin.2 hout⟩
  · rw [verdict_of_new hseen hold]
    split <;> exact ⟨nofun, fun hin => absurd hin.1 hold⟩

theorem verdict_eq_apply : verdict s src r = .apply ↔ top < r.rseq ∧ r.prev ≤ top := by
  by_cases hold : r.rseq ≤ top
  · rw [verdict_of_old hseen hold]
    split <;> exact ⟨nofun, fun hnew => absurd hold (Nat.not_le_of_lt hnew.1)⟩
  · rw [verdict_of_new hseen hold]
    split
    case isTrue hprev => exact ⟨fun _ => ⟨Nat.lt_of_not_le hold, hprev⟩, fun _ => rfl⟩
    case isFalse hprev => exact ⟨nofun, fun hnew => absurd hnew.2 hprev⟩

theorem verdict_eq_wait : verdict s src r = .wait ↔ top < r.rseq ∧ top < r.prev := by
  by_cases hold : r.rseq ≤ top
  · rw [verdict_of_old hseen hold]
    split <;> exact ⟨nofun, fun hnew => absurd hold (Nat.not_le_of_lt hnew.1)⟩
  · rw [verdict_of_new hseen hold]
    split
    case isTrue hprev => exact ⟨nofun, fun hnew => absurd hprev (Nat.not_le_of_lt hnew.2)⟩
    case isFalse hprev => exact ⟨fun _ => ⟨Nat.lt_of_not_le hold, Nat.lt_of_not_le hprev⟩, fun _ => rfl⟩

end Verdict

/-- The record applied stands at bit 0 of the map. -/
theorem getLsbD_advanceMap_zero (top n : Nat) (map : BitVec 64) :
    (advanceMap (top, map) n).2.getLsbD 0 = true := by
  simp [advanceMap]

/-- The records applied before keep their place behind the new one. -/
theorem getLsbD_advanceMap_of_shifted {top n k : Nat} (map : BitVec 64) (hlater : top < n) (hk : k + (n - top) < 64) :
    (advanceMap (top, map) n).2.getLsbD (k + (n - top)) = map.getLsbD k := by
  have hone : (1#64).getLsbD (k + (n - top)) = false := by
    rw [BitVec.getLsbD_one]
    simp only [decide_eq_false (show ¬(k + (n - top) = 0) by omega), Bool.and_false]
  change ((map <<< (n - top)) ||| 1#64).getLsbD (k + (n - top)) = _
  rw [BitVec.getLsbD_or, hone, Bool.or_false, BitVec.getLsbD_shiftLeft]
  simp [hk]

/-- With every landing slot full only a record that can be applied changes anything. -/
theorem takeRequest_of_full {s : State} {p : Nat} {src : BitVec 16} {r : Record} (hfull : 64 ≤ (getPort s p).landing.length)
    (hnot : verdict s src r ≠ .apply) : takeRequest s p src r = s := by
  unfold takeRequest
  cases hverdict : verdict s src r with
  | apply => exact absurd hverdict hnot
  | wait => simp only [ge_iff_le, hfull, decide_true, if_true]
  | duplicate => simp only [ge_iff_le, hfull, decide_true, if_true]
  | stale => simp only [ge_iff_le, hfull, decide_true, if_true]

/-- Settles O39: remote answers are packed, gateway records gathered, sent again, lost and received by Table 10.6. -/
theorem gatewaySteps : Obligations.GatewaySteps := by
  refine ⟨fun s p a chip hlive => ⟨fun n hentry hnone => ?none, fun n x rest v hentry hfirst hpack => ?packed,
      fun n x rest hentry hfirst hpack => ?notPacked, fun hnone => ?noRequest, fun r rest v hfirst hv => ?request,
      exec_gatewayRecordIdleClose hlive p a chip, fun r hfound hresends => ?lost, fun r key hfound hresends hkey => ?again,
      fun slot e hslot => ?landing,
      fun f rxErr lanes hgateway hstate hserves hkind => exec_gatewayFlitReceive hlive p hgateway hstate hserves hkind⟩,
    fun s p src r top map => ⟨fun hseen => ⟨verdict_eq_duplicate hseen, verdict_eq_apply hseen, verdict_eq_wait hseen⟩,
      fun hlater => ⟨rfl, getLsbD_advanceMap_zero top r.rseq map, fun k hk => getLsbD_advanceMap_of_shifted map hlater hk⟩,
      takeRequest_of_full⟩⟩
  case none => rw [exec_remoteResponse hlive hentry, remoteResponse_of_none hnone]
  case packed => rw [exec_remoteResponse hlive hentry, remoteResponse_of_packed hfirst hpack]
  case notPacked => rw [exec_remoteResponse hlive hentry, remoteResponse_of_not_packed hfirst hpack]
  case noRequest => rw [exec_gatewayRequest hlive, gatewayRequest_of_none hnone]
  case request =>
    subst hv
    rw [exec_gatewayRequest hlive, gatewayRequest_of_first hfirst]
  case lost => rw [exec_gatewayResendTimeout hlive, resendRecord_of_last hfound hresends]
  case again =>
    refine ⟨_, ?_, rfl⟩
    rw [exec_gatewayResendTimeout hlive, resendRecord_of_key hfound hresends hkey]
    rfl
  case landing =>
    refine ⟨_, exec_landingWaitTimeout hlive p hslot, ?_, ?_, rfl⟩
    · rw [countStale, getPort_updPort_self, getPort_updPort_self]
    · rw [countStale, getPort_updPort_self, getPort_updPort_self]
      rfl

end Sys2Proof.Machine

namespace Sys2Proof.Machine

/-! ## KEY_STAGE, KEY_CHECK, KEY_COMMIT and KEY_RETIRE (R130 to R133) -/

theorem exec_keyStage (q : Nat) (s : State) : exec (.keyStage q) s = runCommand 0x28 q keyStageEff s := rfl

theorem exec_keyCheck (q : Nat) (s : State) : exec (.keyCheck q) s = runCommand 0x29 q keyCheckEff s := rfl

theorem exec_keyCommit (q : Nat) (s : State) : exec (.keyCommit q) s = runCommand 0x2A q keyCommitEff s := rfl

theorem exec_keyRetire (q : Nat) (s : State) : exec (.keyRetire q) s = runCommand 0x2B q keyRetireEff s := rfl

theorem exec_keyDerive (q : Nat) (s : State) : exec (.keyDerive q) s = runCommand 0x2C q keyDeriveEff s := rfl

/-- A key goes into an empty shadow once its command is let on. -/
theorem stageInto_of_empty {c : Started} {s t : State} {i : Nat} {blk key : Bytes} (hstate : (getSlot s i).state ≠ .retiring)
    (hshadow : (getSlot s i).shadow = .empty) (hroom : keyObjRoom s c.session i = true)
    (hclear : clearKey s (sessionOf s c) blk = (t, .ok key)) :
    stageInto c s i blk = .wait (.keyStage i (bslice blk 0 32 ++ key)) t := by
  have hretiring : ((getSlot s i).state == .retiring) = false := beq_eq_false_iff_ne.2 hstate
  simp only [stageInto, hretiring, hshadow, hroom, hclear, ne_eq, not_true, and_false, Bool.not_true,
    Bool.false_eq_true, if_false, Bool.false_or, reduceCtorEq, beq_iff_eq, false_and]

theorem keyStageEff_of_readable {id i : Nat} {c : Started} {s t : State} {k : Slot} {sp : Space} {blk : Bytes}
    (hi : i = fld (wd c.words 8) 7 0) (hne : i ≠ 0) (hnamed : namedSlot s (sessionOf s c) i = .ok k)
    (hspace : spaceOf (fld (wd c.words 8) 17 16) = some sp)
    (hblock : readBlock s (sessionOf s c) sp (wd2 c.words 9) = (t, .ok blk)) (hattr : attrDenied (sessionOf s c) i sp blk = false) :
    keyStageEff id c s = stageInto c t i blk := by
  subst hi
  simp only [keyStageEff, hne, if_false, hnamed, hspace, hblock, false_and, hattr, Bool.false_eq_true, ne_eq, not_false_iff, if_true,
    Except.map]

section Named

variable {id i : Nat} {c : Started} {s : State} {k : Slot} (hi : i = fld (wd c.words 8) 7 0)
  (hnamed : namedSlot s (sessionOf s c) i = .ok k)

include hi hnamed

theorem keyCheckEff_of_equal (hshadow : k.shadow = .staged) (hequal : kcv k.shadowKey = wd c.words 9) :
    keyCheckEff id c s = .good (updSlot s i fun x => { x with shadow := .checked }) := by
  subst hi
  simp only [keyCheckEff, hnamed, hshadow, ne_eq, not_true, if_false, hequal, if_true]

theorem keyCheckEff_of_differ (hshadow : k.shadow = .staged) (hdiffer : kcv k.shadowKey ≠ wd c.words 9) :
    keyCheckEff id c s = .reject keyKcvMismatch (updSlot s i dropShadow) := by
  subst hi
  simp only [keyCheckEff, hnamed, hshadow, ne_eq, not_true, if_false, hdiffer]

theorem keyCommitEff_of_checked (hshadow : k.shadow = .checked) : keyCommitEff id c s = .good (updSlot s i commitSlot) := by
  subst hi
  simp only [keyCommitEff, hnamed, hshadow, ne_eq, not_true, if_false]

theorem keyCommitEff_of_other (hshadow : k.shadow ≠ .checked) : keyCommitEff id c s = .reject keySlotState s := by
  subst hi
  simp only [keyCommitEff, hnamed, ne_eq, hshadow, not_false_iff, if_true]

theorem keyRetireEff_of_in_use (hstate : k.state = .live ∨ k.state = .staged) :
    keyRetireEff id c s = .wait (.keyRetire i) (updSlot s i retireSlot) := by
  subst hi
  simp only [keyRetireEff, hnamed, if_pos hstate]

end Named

/-! ### What each leaves of its slot -/

/-- The slot after its shadow was written: an EMPTY one is STAGED under the block's attributes, with the session's owner. -/
theorem getSlot_writeShadow_of_used {s : State} {i : Nat} (hstate : (getSlot s i).state ≠ .empty) (owner : Nat) (blk : Bytes) :
    (getSlot (writeShadow s i owner blk) i).state = (getSlot s i).state ∧
      (getSlot (writeShadow s i owner blk) i).owner = (getSlot s i).owner := by
  simp only [writeShadow, getSlot_updSlot_self, if_neg hstate, and_self]

theorem shadow_writeShadow (s : State) (i owner : Nat) (blk : Bytes) :
    (getSlot (writeShadow s i owner blk) i).shadow = .staged ∧ (getSlot (writeShadow s i owner blk) i).shadowKey = blk.drop 32 ∧
      (getSlot (writeShadow s i owner blk) i).key = (getSlot s i).key ∧
      (getSlot (writeShadow s i owner blk) i).users = (getSlot s i).users := by
  simp only [writeShadow, getSlot_updSlot_self, true_and]
  split <;> exact ⟨rfl, rfl⟩

section CommitSlot

variable (k : Slot)

/-- The slot whose shadow has become its active half, before the old key is looked at. -/
def committedSlot : Slot :=
  { k with key := k.shadowKey, masters := k.shadowAttr.1, worlds := k.shadowAttr.2.1, use := k.shadowAttr.2.2.1
           lcmask := k.shadowAttr.2.2.2.1, owner := k.shadowAttr.2.2.2.2, state := .live, users := [] }

variable {k}

theorem commitSlot_of_users (hstate : k.state = .live) (husers : k.users ≠ []) :
    commitSlot k = { committedSlot k with shadow := .draining, shadowKey := k.key, shadowUsers := k.users } := by
  simp only [commitSlot, hstate, if_true, settleSlot, reduceCtorEq, if_false, husers, and_false, committedSlot]

theorem commitSlot_of_no_users (hstate : k.state = .live) (husers : k.users = []) :
    commitSlot k = { committedSlot k with shadow := .empty, shadowKey := [], shadowUsers := k.users } := by
  simp only [commitSlot, hstate, if_true, settleSlot, reduceCtorEq, false_and, if_false, husers, and_self, committedSlot]

theorem commitSlot_of_not_live (hstate : k.state ≠ .live) :
    commitSlot k = { committedSlot k with shadow := .empty, shadowKey := [] } := by
  simp only [commitSlot, hstate, if_false, committedSlot]

theorem commitSlot_live (k : Slot) : (commitSlot k).state = .live ∧ (commitSlot k).key = k.shadowKey ∧ (commitSlot k).users = [] := by
  by_cases hstate : k.state = .live
  · by_cases husers : k.users = []
    · rw [commitSlot_of_no_users hstate husers]
      exact ⟨rfl, rfl, rfl⟩
    · rw [commitSlot_of_users hstate husers]
      exact ⟨rfl, rfl, rfl⟩
  · rw [commitSlot_of_not_live hstate]
    exact ⟨rfl, rfl, rfl⟩

end CommitSlot

theorem dropShadow_empty (k : Slot) : (dropShadow k).shadow = .empty ∧ (dropShadow k).shadowKey = [] := by
  unfold dropShadow
  split <;> exact ⟨rfl, rfl⟩

section RetireSlot

variable {k : Slot} (hstate : k.state = .live ∨ k.state = .staged)

include hstate

theorem retireSlot_of_users (husers : k.users ≠ []) : (retireSlot k).state = .retiring ∧ (retireSlot k).key = k.key := by
  simp only [retireSlot, if_pos hstate]
  split <;> simp only [settleSlot, husers, false_and, and_false, if_false, reduceCtorEq, and_self]

theorem retireSlot_of_no_users (husers : k.users = []) (hshadow : k.shadowUsers = []) : retireSlot k = {} := by
  simp only [retireSlot, if_pos hstate]
  split <;> simp only [settleSlot, husers, hshadow, and_self, if_true]

end RetireSlot

/-! ## KEY_DERIVE (R136) -/

/-- A key object made where there is none touches the key objects and the reference lists alone. -/
theorem ensureKeyObj_frame (s : State) (i session : Nat) :
    { ensureKeyObj s i session with keyObjs := s.keyObjs, sessions := s.sessions } = s := by
  unfold ensureKeyObj
  split
  · rfl
  · dsimp only
    split
    next v hhold =>
      obtain ⟨x, hx⟩ : ∃ x, tget s.sessions session = some x := by
        cases hx : tget s.sessions session with
        | none =>
          simp only [holdRef, hx] at hhold
          cases hhold
        | some x => exact ⟨x, rfl⟩
      obtain ⟨t, hadd, rfl⟩ := holdRef_ok (s := { s with keyObjs := tset s.keyObjs i { owner := session } }) hx hhold
      rw [eq_setCounts_of_addRef hadd]
      rfl
    next => rfl

theorem slots_ensureKeyObj (s : State) (i session : Nat) : (ensureKeyObj s i session).slots = s.slots :=
  (congrArg State.slots (ensureKeyObj_frame s i session) :)

/-- The slot that a derivation fills: the source's attributes, the USE asked for without the bit that would let it derive. -/
def derivedKey (src : DeriveSource) (l : Bytes) (w : Word) : Slot :=
  { state := .live, key := kdf src.key l [] 256, masters := src.masters, worlds := src.worlds
    use := BitVec.ofNat 7 (fld w 14 8) &&& 0x7B, lcmask := src.lcmask, owner := src.owner }

/-- The state with the derived key in its slot and its key object made. -/
def withDerivedKey (s : State) (j : Nat) (k : Slot) (session : Nat) : State := ensureKeyObj (updSlot s j fun _ => k) j session

theorem keyDeriveEff_of_good {id j : Nat} {c : Started} {s s1 s2 : State} {src : DeriveSource} {l : Bytes}
    (htier : fld (wd c.words 8) 9 8 ≠ 3) (hsource : deriveSource s (sessionOf s c) (wd c.words 8) = (s1, .ok src))
    (hspace : spaceCheck (sessionOf s c) (some (defaultSpace (sessionOf s c))) (wd2 c.words 10).toNat 32 = none)
    (hread : readSpace s1 (sessionOf s c) (defaultSpace (sessionOf s c)) (wd2 c.words 10) 32 = (s2, some l))
    (hlabel : labelOk s2 src.owner l = true) (hdest : deriveDest s2 (fld (wd c.words 9) 7 0) = .ok j)
    (hroom : keyObjRoom s2 c.session j = true) :
    keyDeriveEff id c s =
      .result (handle (withDerivedKey s2 j (derivedKey src l (wd c.words 9)) c.session) ⟨.key, j⟩)
        (withDerivedKey s2 j (derivedKey src l (wd c.words 9)) c.session) := by
  simp only [keyDeriveEff, if_neg htier, hsource, hspace, hread, hlabel, Bool.not_true, Bool.false_eq_true, if_false, hdest, hroom]
  rfl

section WithDerivedKey

variable (s : State) (j : Nat) (k : Slot) (session : Nat)

theorem getSlot_withDerivedKey_self : getSlot (withDerivedKey s j k session) j = k := by
  rw [getSlot, withDerivedKey, slots_ensureKeyObj]
  exact getSlot_updSlot_self s j fun _ => k

theorem getSlot_withDerivedKey_ne {i : Nat} (hi : i ≠ j) : getSlot (withDerivedKey s j k session) i = getSlot s i := by
  rw [getSlot, withDerivedKey, slots_ensureKeyObj]
  exact getSlot_updSlot_ne s j i (fun _ => k) hi

theorem withDerivedKey_frame :
    { withDerivedKey s j k session with slots := s.slots, keyObjs := s.keyObjs, sessions := s.sessions } = s := by
  have h := congrArg (fun t : State => { t with slots := s.slots, keyObjs := s.keyObjs, sessions := s.sessions })
    (ensureKeyObj_frame (updSlot s j fun _ => k) j session)
  exact h

end WithDerivedKey

/-- Settles O40: the key commands stage, check, commit, retire and derive into their slot. -/
theorem keyCommands : Obligations.KeyCommands := by
  refine ⟨⟨fun s u u1 u2 q i c k sp blk key hbegin hi hne hnamed hspace hblock hattr hstate hshadow hroom hclear => ?stage,
      fun s i owner blk => ?shadow, fun s u q i c k hi hnamed => ⟨fun hbegin hshadow hequal => ?equal,
        fun hbegin hshadow hdiffer => ?differ, fun hbegin hshadow => ?commit, fun hbegin hshadow => ?notChecked,
        fun hbegin hstate => ?retire⟩, fun k => ?slots⟩,
    fun s u u1 u2 q j c src l hbegin htier hsource hspace hread hlabel hdest hroom => ?derive⟩
  case stage =>
    exact runCommand_wait hbegin keyStageEff ((keyStageEff_of_readable hi hne hnamed hspace hblock hattr).trans
      (stageInto_of_empty hstate hshadow hroom hclear))
  case shadow =>
    obtain ⟨hshadow, hkey, hactive, husers⟩ := shadow_writeShadow s i owner blk
    exact ⟨hshadow, hkey, hactive, husers, fun hstate => getSlot_writeShadow_of_used hstate owner blk,
      fun j hj => getSlot_updSlot_ne _ _ _ _ hj, rfl⟩
  case equal => exact runCommand_done hbegin keyCheckEff (keyCheckEff_of_equal hi hnamed hshadow hequal)
  case differ => exact runCommand_done hbegin keyCheckEff (keyCheckEff_of_differ hi hnamed hshadow hdiffer)
  case commit => exact runCommand_done hbegin keyCommitEff (keyCommitEff_of_checked hi hnamed hshadow)
  case notChecked => exact runCommand_done hbegin keyCommitEff (keyCommitEff_of_other hi hnamed hshadow)
  case retire => exact runCommand_wait hbegin keyRetireEff (keyRetireEff_of_in_use hi hnamed hstate)
  case slots =>
    obtain ⟨hlive, hkey, husers⟩ := commitSlot_live k
    obtain ⟨hempty, hnoKey⟩ := dropShadow_empty k
    refine ⟨hlive, hkey, husers, hempty, hnoKey, fun hstate hused => ?_, fun hstate => ?_,
      fun hstate hused => retireSlot_of_users hstate hused, fun hstate hunused hshadow => retireSlot_of_no_users hstate hunused hshadow⟩
    · rw [commitSlot_of_users hstate hused]
      exact ⟨rfl, rfl, rfl⟩
    · by_cases hl : k.state = .live
      · rw [commitSlot_of_no_users hl (hstate.resolve_left (Classical.not_not.2 hl))]
        exact ⟨rfl, rfl⟩
      · rw [commitSlot_of_not_live hl]
        exact ⟨rfl, rfl⟩
  case derive =>
    refine ⟨withDerivedKey u2 j (derivedKey src l (wd c.words 9)) c.session,
      runCommand_done hbegin keyDeriveEff (keyDeriveEff_of_good htier hsource hspace hread hlabel hdest hroom), ?_⟩
    rw [getSlot_withDerivedKey_self]
    exact ⟨rfl, rfl, rfl, rfl, rfl, rfl, rfl, fun i hi => getSlot_withDerivedKey_ne _ _ _ _ hi, withDerivedKey_frame ..⟩

end Sys2Proof.Machine

namespace Sys2Proof.Machine

/-! ## GCE jobs (chapter 13) -/

theorem exec_gceRun (q : Nat) (s : State) : exec (.gceRun q) s = runCommand 0x30 q gceRunEff s := rfl

theorem exec_gceJobStart {s : State} (hlive : live s = true) : exec .gceJobStart s = .next (settleAll (startJob s)) := if_pos hlive

theorem startJob_of_idle {s : State} (hidle : s.gce.running = none) : startJob s = beginJob s := by rw [startJob, endJob, hidle]

section BeginJob

variable {s v : State} {id : Nat} {rest : List Nat} {c : Started} (hjobs : s.gce.jobs = id :: rest)
  (hstarted : tget s.started id = some c)

include hjobs hstarted

theorem beginJob_of_prepared {r : GceRun} (hprepared : prepareJob { s with gce := { s.gce with jobs := rest } } id c = (v, .ok r)) :
    beginJob s = bindSlot { v with gce := { v.gce with running := some r } } r.slot id := by
  simp only [beginJob, hjobs, hstarted, hprepared]

theorem beginJob_of_failed {e : JobEnd} (hfailed : prepareJob { s with gce := { s.gce with jobs := rest } } id c = (v, .error e)) :
    beginJob s = endsWith v id e := by
  simp only [beginJob, hjobs, hstarted, hfailed]

end BeginJob

/-- A running job ends with what its key makes of its data, and lets go of its slot. -/
theorem endJob_of_running {s v : State} {c : Started} {r : GceRun} {m : GceMode} {e : JobEnd} (hrunning : s.gce.running = some r)
    (hstarted : tget s.started r.job = some c) (hmode : gceMode (gceDesc r.desc).mode = some m)
    (hdata : runData s (sessionOf s c) r.job m (gceDesc r.desc) r.key = (v, e)) (hstill : v.gce.running = some r) :
    endJob s = endsWith (releaseSlot { v with gce := { v.gce with running := none } } r.slot r.job) r.job e := by
  simp only [endJob, hrunning, hstarted, hmode, hdata, dropRunning, hstill]

/-! ## DRBG_READ and the entropy source (R140 to R143) -/

theorem exec_drbgRead (q : Nat) (s : State) : exec (.drbgRead q) s = runCommand 0x31 q drbgReadEff s := rfl

section DrbgRead

variable {id : Nat} {c : Started} {s : State}

theorem drbgReadEff_of_long (hlong : 4096 < (wd c.words 10).toNat) : drbgReadEff id c s = .fail .badOperand s := by
  simp only [drbgReadEff, gt_iff_lt, if_pos hlong]

variable (hlength : (wd c.words 10).toNat ≤ 4096)
  (hspace : spaceCheck (sessionOf s c) (some (defaultSpace (sessionOf s c))) (wd2 c.words 8).toNat (wd c.words 10).toNat = none)

include hlength hspace

theorem drbgReadEff_of_stopped (hstopped : s.entropyFail = true) : drbgReadEff id c s = .reject keyEntropyFail s := by
  have hnone : noEntropy s = true := by rw [noEntropy, hstopped, Bool.true_or]
  simp only [drbgReadEff, gt_iff_lt, if_neg (Nat.not_lt.2 hlength), hspace, hnone, if_true]

theorem drbgReadEff_of_drawn {v w : State} {b : Bytes} (hentropy : noEntropy s = false) (hfresh : reseedDue s = false)
    (hdrawn : drawBytes s (wd c.words 10).toNat = (v, b))
    (hwritten : writeSpace v (sessionOf s c) (defaultSpace (sessionOf s c)) (wd2 c.words 8) b (.command id) = (w, true)) :
    drbgReadEff id c s = .good w := by
  simp only [drbgReadEff, gt_iff_lt, if_neg (Nat.not_lt.2 hlength), hspace, hentropy, hfresh, Bool.false_eq_true, if_false, hdrawn,
    hwritten]

end DrbgRead

section Entropy

variable {s : State} (hrunning : running s = true)

theorem exec_entropyFail_of_pass {bits : BitVec 1024} (hpass : noiseFails (proportionLimit s) bits = false) :
    exec (.entropyFail bits) s = .next s :=
  if_neg fun h => Bool.false_ne_true (hpass.symm.trans h.2.2)

include hrunning

theorem exec_entropyFail {bits : BitVec 1024} (hserving : s.entropyFail = false)
    (hfails : noiseFails (proportionLimit s) bits = true) : exec (.entropyFail bits) s = .next (settleAll (entropyStop s)) :=
  if_pos ⟨hrunning, by rw [hserving]; rfl, hfails⟩

theorem exec_drbgReseed (hready : s.drbgReady = true) : exec .drbgReseed s = .next (settleAll (reseedDrbg s)) :=
  if_pos ⟨hrunning, hready⟩

theorem exec_entropySourceRestart {bits : BitVec 1024} (hstopped : s.entropyFail = true)
    (hpass : noiseFails (proportionLimit s) bits = false) :
    exec (.entropySourceRestart bits) s = .next (settleAll (startDrbg s)) :=
  if_pos ⟨hrunning, hstopped, by rw [hpass]; rfl⟩

end Entropy

/-- Settles O41: GCE jobs are taken and ended one at a time, and the DRBG serves, stops, is reseeded and restarts. -/
theorem gceAndDrbg : Obligations.GceAndDrbg := by
  refine ⟨fun s u q id rest c bits => ⟨fun hbegin => ?queued, fun v r hlive hidle hjobs hstarted hprepared => ?begins,
      fun v st d res hlive hidle hjobs hstarted hfailed => ?refused,
      fun r v m st d res hrunning hstarted hmode hdata hstill => endJob_of_running hrunning hstarted hmode hdata hstill,
      fun w v b hbegin hlength hspace hentropy hfresh hdrawn hwritten => ?drawn, fun hbegin hlong => ?long,
      fun hbegin hlength hspace hstopped => ?stopped, fun hrunning hserving hfails => ⟨_, exec_entropyFail hrunning hserving hfails, rfl⟩,
      exec_entropyFail_of_pass, fun hrunning hready => ⟨_, exec_drbgReseed hrunning hready, rfl, rfl⟩,
      fun hrunning hstopped hpass => ⟨_, exec_entropySourceRestart hrunning hstopped hpass, rfl, rfl, rfl⟩⟩,
    fun s n => ⟨List.length_take_le _ _, rfl⟩⟩
  case queued => exact runCommand_wait hbegin gceRunEff rfl
  case begins =>
    rw [exec_gceJobStart hlive, startJob_of_idle hidle, beginJob_of_prepared hjobs hstarted hprepared]
  case refused =>
    rw [exec_gceJobStart hlive, startJob_of_idle hidle, beginJob_of_failed hjobs hstarted hfailed, endsWith]
  case drawn =>
    exact runCommand_done hbegin drbgReadEff (drbgReadEff_of_drawn hlength hspace hentropy hfresh hdrawn hwritten)
  case long => exact runCommand_done hbegin drbgReadEff (drbgReadEff_of_long hlong)
  case stopped => exact runCommand_done hbegin drbgReadEff (drbgReadEff_of_stopped hlength hspace hstopped)

end Sys2Proof.Machine

/-! ## O44: the stage-2 mailbox, the move engine and host pages -/

namespace Sys2Proof.Machine
open Sys2Proof

theorem exec_map (w : World) (s : State) : exec (.map w) s = execMap w s := rfl
theorem exec_unmap (w : World) (s : State) : exec (.unmap w) s = execUnmap w s := rfl
theorem exec_move (w : World) (value : BitVec 32) (s : State) : exec (.move w value) s = execMove w value s := rfl
theorem exec_hostPageRequest (s : State) : exec .hostPageRequest s = execHostPageRequest s := rfl

/-- A GO of HOST leaves what its descriptor did, and the code in HOST's mailbox. -/
theorem mailboxGo_host {s t : State} {m : Mailbox} {k : BoxCode} (hm : mailbox s .host = some m)
    (h : applyDescriptor s .host (readDescriptor s .host) = (t, k)) :
    mailboxGo s .host = { t with mailboxHost := { m with code := boxCode k } } := by
  simp only [mailboxGo, hm, h, setMailbox]

/-- A descriptor without a reserved field set goes the way of its OP. -/
theorem applyDescriptor_map {s : State} {w : World} {d : Bytes} (hop : leField d 0 1 = 1) (htype : leField d 1 1 ≤ 1)
    (hflags : fld ((d[2]?).getD 0) 7 2 = 0) (hres : leField d 3 1 = 0) : applyDescriptor s w d = applyMap s d := by
  simp only [applyDescriptor]
  rw [if_neg (by omega), if_pos hop]

theorem applyDescriptor_unmap {s : State} {w : World} {d : Bytes} (hop : leField d 0 1 = 2) (htype : leField d 1 1 ≤ 1)
    (hflags : fld ((d[2]?).getD 0) 7 2 = 0) (hres : leField d 3 1 = 0) : applyDescriptor s w d = applyUnmap s w d := by
  simp only [applyDescriptor]
  rw [if_neg (by omega), if_neg (by omega)]

/-- A MAP of bricks without counters that breaks no rule adds its extent. -/
theorem applyMap_brick {s : State} {d : Bytes} {x : Extent} (hx : x = descExtent d) (hcount : bit ((d[2]?).getD 0) 1 = false)
    (hres : leField d 20 4 = 0) (hhost : x.host = false) (hoff : fld x.target 20 0 = 0) (hbase : x.base % 4096 = 0)
    (hpages : x.pages ≠ 0) (hlast : x.base + 4096 * x.pages ≤ 2 ^ 52) (hstack : fld x.target 44 21 + x.pages - 1 ≤ 16178175)
    (hfree : ∀ y ∈ s.extents, y.gid = x.gid → y.base + 4096 * y.pages ≤ x.base ∨ x.base + 4096 * x.pages ≤ y.base)
    (hmine : (s.extents.filter fun y => y.gid == x.gid).length < 128) (hall : s.extents.length < 16384) :
    applyMap s d = ({ s with extents := s.extents ++ [x] }, .ok) := by
  have hover : ((s.extents.filter fun y => y.gid == x.gid).any fun y =>
      y.base < x.base + 4096 * x.pages && x.base < y.base + 4096 * y.pages) = false := by
    simp only [List.any_eq_false, List.mem_filter, beq_iff_eq, Bool.and_eq_true, decide_eq_true_eq]
    rintro y ⟨hy, hgid⟩ ⟨hlo, hhi⟩
    have := hfree y hy hgid
    omega
  subst hx
  simp only [applyMap, hcount, hres, hhost, hbase]
  rw [if_neg (by simp [hoff]), if_neg (by simp [hpages]; exact hlast),
    if_neg (by simp; omega), if_neg (by simp [hover]), if_neg (by omega), if_pos (by simp)]

section Unmap
variable {s : State} {d : Bytes} {x : Extent} {f : ObjRef} {z : Fence}
  (hx : x = descExtent d) (hf : parseHandle s (BitVec.ofNat 32 (leField d 20 4)) [.fence] = .ok f)
  (hz : tget s.fences f.index = some z) (hsig : maySignal 2 z = true) (hbase : x.base % 4096 = 0)
include hx hf hz hsig hbase

/-- HOST's UNMAP of a mapped extent whose accord is not composed. -/
theorem applyUnmap_mapped {y : Extent}
    (hfind : s.extents.find? (fun y => y.gid == x.gid && y.base == x.base && y.pages == x.pages) = some y)
    (hacc : ∀ e ∈ s.accords, e.1 < 2 ∨ e.2.state = .free ∨ e.2.gid ≠ x.gid) :
    applyUnmap s .host d =
      ({ s with extents := s.extents.erase y
                hpe := { s.hpe with counters := s.hpe.counters.filter fun c => !y.counters.contains c.1 }
                fenceReady := s.fenceReady ++ [{ fence := f.index, value := 1, add := true }] }, .ok) := by
  have hnone : (s.accords.find? fun e => e.1 ≥ 2 && e.2.state != .free && e.2.gid == x.gid) = none := by
    refine List.find?_eq_none.mpr fun e he => ?_
    rcases hacc e he with h | h | h
    · simp; omega
    · simp [h]
    · simp [h]
  subst hx
  simp [applyUnmap, hf, hz, hsig, hbase, hfind, hnone]
  rfl

/-- HOST's UNMAP of an extent that is not mapped. -/
theorem applyUnmap_unmapped
    (hfind : s.extents.find? (fun y => y.gid == x.gid && y.base == x.base && y.pages == x.pages) = none) :
    applyUnmap s .host d = (s, .notFound) := by
  subst hx
  simp [applyUnmap, hf, hz, hsig, hbase, hfind]

end Unmap

/-- The first host page request, where the accord can be made resident and where it cannot. -/
theorem hostPageRequest_of_head {s v : State} {r : Req} {rest : List Req} (hdry : inDry s = false) (hp : s.hpe.pages = r :: rest) :
    (makeResident { s with hpe := { s.hpe with pages := rest } } r.accord = (v, true) → hostPageRequest s = servePage v r) ∧
    (makeResident { s with hpe := { s.hpe with pages := rest } } r.accord = (v, false) →
      hostPageRequest s = { v with hpe := { v.hpe with pages := r :: v.hpe.pages } }) := by
  constructor <;> intro h <;> simp [hostPageRequest, hp, hdry, h]

/-- Settles O44: each descriptor's way through the mailbox, the start of a move, and the head of the host page queue. -/
theorem mapAndMove : Obligations.MapAndMove := by
  intro s
  refine ⟨fun m d x hrun hm hd hx hop htype hflags hcount hres3 hres hhost hoff hbase hpages hlast hstack hfree hmine hall => ?map,
    fun m d x f y z hrun hm hd hx hop htype hflags hres3 hf hz hsig hbase => ⟨fun hfind hacc => ?mapped, fun hfind => ?unmapped⟩,
    fun value a v i hrun hgo hbusy hmem hext hdest hinv => ?move, fun value hrun hgo hbusy => ?busy,
    fun r rest v hrun hhpe hdry hp => ⟨fun h => ?served, fun h => ?waits⟩⟩
  case map =>
    have happ := (applyDescriptor_map (w := .host) hop htype hflags hres3).trans
      (applyMap_brick hx hcount hres hhost hoff hbase hpages hlast hstack hfree hmine hall)
    rw [hd] at happ
    rw [exec_map, execMap, if_pos ⟨hrun, by rw [← hd, hop]; decide⟩, mailboxGo_host hm happ]
    rfl
  case mapped =>
    have happ := (applyDescriptor_unmap (w := .host) hop htype hflags hres3).trans
      (applyUnmap_mapped hx hf hz hsig hbase hfind hacc)
    rw [hd] at happ
    rw [exec_unmap, execUnmap, if_pos ⟨hrun, by rw [← hd, hop]⟩, mailboxGo_host hm happ]
    rfl
  case unmapped =>
    have happ := (applyDescriptor_unmap (w := .host) hop htype hflags hres3).trans
      (applyUnmap_unmapped hx hf hz hsig hbase hfind)
    rw [hd] at happ
    rw [exec_unmap, execUnmap, if_pos ⟨hrun, by rw [← hd, hop]⟩, mailboxGo_host hm happ]
    rfl
  case move =>
    have hgone : moveGo s = { v with hpe := { v.hpe with moveBusy := true, moveInv := some i } } := by
      simp [moveGo, hbusy, hmem, hdest, hinv, Option.isSome_iff_ne_none.mp hext]
    rw [exec_move, execMove, if_pos ⟨hrun, hgo, .inr rfl⟩, hgone]
  case busy =>
    rw [exec_move, execMove, if_pos ⟨hrun, hgo, .inr rfl⟩, moveGo, if_pos hbusy]
  case served =>
    rw [exec_hostPageRequest, execHostPageRequest, if_pos ⟨hrun, .inr hhpe⟩, (hostPageRequest_of_head hdry hp).1 h]
  case waits =>
    rw [exec_hostPageRequest, execHostPageRequest, if_pos ⟨hrun, .inr hhpe⟩, (hostPageRequest_of_head hdry hp).2 h]

end Sys2Proof.Machine

/-! ## O45: virtual functions, their doorbells and command slots, and the PF queue -/

namespace Sys2Proof.Machine
open Sys2Proof

theorem exec_vfQuiesce (q : Nat) (s : State) : exec (.vfQuiesce q) s = runCommand 0x3C q vfQuiesceEff s := rfl
theorem exec_vfResume (q : Nat) (s : State) : exec (.vfResume q) s = runCommand 0x3D q vfResumeEff s := rfl
theorem exec_vfBind (w : World) (value : BitVec 32) (s : State) : exec (.vfBind w value) s = execVfBind w value s := rfl
theorem exec_hostDoorbell (fn : Nat) (word : BitVec 32) (s : State) :
    exec (.hostDoorbell fn word) s = execHostDoorbell fn word s := rfl
theorem exec_vfCommandSlotWrite (v slot : Nat) (ws : List Word) (s : State) :
    exec (.vfCommandSlotWrite v slot ws) s = execVfCommandSlotWrite v slot ws s := rfl
theorem exec_pfqEnable (w : World) (value : BitVec 32) (s : State) : exec (.pfqEnable w value) s = execPfqEnable w value s := rfl

theorem getVf_updVf_self (s : State) (v : Nat) (f : Vf → Vf) : getVf (updVf s v f) v = f (getVf s v) := by
  simp [getVf, updVf]

theorem getVf_updVf_ne {v k : Nat} (h : k ≠ v) (s : State) (f : Vf → Vf) : getVf (updVf s v f) k = getVf s k := by
  simp [getVf, updVf, tgetD_tset_ne _ _ _ _ _ h]

/-- What keeps the host port engine's record keeps every VF. -/
theorem getVf_of_hpe {s t : State} (h : t.hpe = s.hpe) (k : Nat) : getVf t k = getVf s k := by
  unfold getVf; rw [h]

theorem vfQuiesceEff_of_vf {id v : Nat} {c : Started} {s : State} (hv : v = fld (wd c.words 8) 5 0) (h : v ≠ 0) :
    vfQuiesceEff id c s = .wait (.vfQuiesce v) (updVf s v fun x => { x with state := .quiescing }) := by
  subst hv; simp only [vfQuiesceEff]; exact if_neg h

theorem vfResumeEff_of_vf {id v : Nat} {c : Started} {s : State} (hv : v = fld (wd c.words 8) 5 0) (h : v ≠ 0) :
    vfResumeEff id c s = .done .ok 0 0 (releaseMsix (updVf s v fun x => { x with state := .running }) v) := by
  subst hv; simp only [vfResumeEff]; exact if_neg h

/-- HOST's write of HPE_VF_BIND, where it takes effect and where it does not. -/
theorem vfBind_of_live {s : State} {v : Nat} {w : BitVec 32} (hv : selectedVf s .host = v) (h : v ≠ 0)
    (ha : (getAccord s (fld w 9 0)).state = .live) : vfBind s .host w =
      updVf s v fun x => { x with bound := if bit w 31 then some (fld w 9 0) else none, accord := fld w 9 0 } := by
  subst hv; simp only [vfBind]; exact if_neg (by simp [h, ha])

theorem vfBind_of_not_live {s : State} {w : BitVec 32} (ha : (getAccord s (fld w 9 0)).state ≠ .live) : vfBind s .host w = s := by
  simp only [vfBind]; exact if_pos (.inr ha)

/-- A running block has no rail on its way up, so a doorbell wakes nothing. -/
theorem execHostDoorbell_of_running {s : State} {fn : Nat} {w : BitVec 32} (hrun : running s = true) (hentry : s.pwr.entry = none)
    (hfn : fn < 64) : execHostDoorbell fn w s = .next (settle (hostDoorbell s fn w)) := by
  rw [execHostDoorbell, if_neg (by omega), if_pos hrun, takeWake_of_running hrun hentry]

section Doorbell
variable {s : State} {fn : Nat} (hdry : inDry s = false) (hhpe : hpeOk s = true)
include hdry hhpe

/-- A doorbell of a function that runs, at a queue that it may ring and at any other. -/
theorem hostDoorbell_of_own (hfn : fn = 0 ∨ (getVf s fn).state = .running) {w : Word} (hown : hostDoorbellOk s fn (fld w 9 0) = true) :
    hostDoorbell s fn w = { s with queues := tupd s.queues (fld w 9 0) fun x => { x with tail := fld w 31 16 % 2 ^ x.log2 } } := by
  have hopen : ¬ (inDry s ∨ !hpeOk s ∨ (fn ≠ 0 ∧ (getVf s fn).state ≠ .running)) := by
    simp only [hdry, hhpe]; rcases hfn with h | h <;> simp [h]
  simp only [hostDoorbell]
  rw [if_neg hopen, if_pos hown]

theorem hostDoorbell_of_foreign (hfn : fn = 0 ∨ (getVf s fn).state = .running) {w : Word}
    (hown : hostDoorbellOk s fn (fld w 9 0) = false) :
    hostDoorbell s fn w = { s with foreignDb := satAdd 8 s.foreignDb 1 } := by
  have hopen : ¬ (inDry s ∨ !hpeOk s ∨ (fn ≠ 0 ∧ (getVf s fn).state ≠ .running)) := by
    simp only [hdry, hhpe]; rcases hfn with h | h <;> simp [h]
  simp only [hostDoorbell]
  rw [if_neg hopen, if_neg (by simp [hown])]

omit hdry hhpe in
theorem hostDoorbell_of_stopped (hfn : fn ≠ 0) (hvf : (getVf s fn).state ≠ .running) (w : Word) : hostDoorbell s fn w = s := by
  simp only [hostDoorbell]
  exact if_pos (.inr (.inr ⟨hfn, hvf⟩))

end Doorbell

/-- A slot of a bound VF lands in the primary queue of its accord. -/
theorem vfSlotWrite_of_bound {s : State} {v a q : Nat} (hbound : (getVf s v).bound = some a) (hq : primaryQueue s a = some q)
    (slot : Nat) (ws : List Word) : vfSlotWrite s v slot ws =
      { s with queues := tupd s.queues q fun x => { x with slots := tset x.slots slot ((List.range 16).map (wd ws)) } } := by
  simp [vfSlotWrite, hbound, hq]

theorem pfqWrite_of_start {s : State} {w : BitVec 32} (hoff : s.hpe.pfqEnable = false) (hon : bit w 31 = true)
    (hlo : 4 ≤ fld w 4 0) (hhi : fld w 4 0 ≤ 16) : pfqWrite s w =
      { s with hpe := { s.hpe with pfqLog2 := fld w 4 0, pfqEnable := true }
               queues := tupd s.queues 2 fun q => { q with head := 0, tail := 0, ring := s.hpe.pfqRing, cpl := s.hpe.pfqCpl
                                                           log2 := fld w 4 0, cplIndex := 0, cplPhase := true } } := by
  simp [pfqWrite, hoff, hon, hlo, hhi]

/-- Settles O45: each row's guard holds, and the row's own lemma says what it does. -/
theorem hostFunctions : Obligations.HostFunctions := by
  intro s u q v fn c w
  refine ⟨fun hbegin hv hne => ?quiesce, fun hbegin hv hne => ?resume, fun hrun hsel hne => ⟨fun ha => ?bind, fun ha => ?unbound⟩,
    fun hrun hhpe hdry hentry hfn => ⟨fun hvf => ⟨fun hown => ?own, fun hown => ?foreign⟩, fun hne hvf => ?stopped⟩,
    fun slot a ws hrun hlo hhi hslot hbound hq => ?slot, fun hrun hoff hon hlo hhi => ?pfq⟩
  case quiesce => exact runCommand_wait hbegin vfQuiesceEff (vfQuiesceEff_of_vf hv hne)
  case resume =>
    exact ⟨_, runCommand_done hbegin vfResumeEff (vfResumeEff_of_vf hv hne),
      congrArg Vf.state (getVf_updVf_self u v fun x => { x with state := .running }),
      fun k hk => getVf_updVf_ne hk u fun x => { x with state := .running }, rfl, rfl⟩
  case bind => rw [exec_vfBind, execVfBind, if_pos ⟨hrun, .inr rfl⟩, vfBind_of_live hsel hne ha]
  case unbound => rw [exec_vfBind, execVfBind, if_pos ⟨hrun, .inr rfl⟩, vfBind_of_not_live ha]
  case own =>
    rw [exec_hostDoorbell, execHostDoorbell_of_running hrun hentry hfn, hostDoorbell_of_own hdry hhpe hvf hown]
  case foreign =>
    rw [exec_hostDoorbell, execHostDoorbell_of_running hrun hentry hfn, hostDoorbell_of_foreign hdry hhpe hvf hown]
  case stopped =>
    rw [exec_hostDoorbell, execHostDoorbell_of_running hrun hentry hfn, hostDoorbell_of_stopped hne hvf]
  case slot =>
    obtain ⟨hup, hstop⟩ : s.up = true ∧ s.dbg.stop = .running := by
      simp only [running, Bool.and_eq_true, beq_iff_eq] at hrun; exact ⟨hrun.1.1.1, hrun.2⟩
    have hcurrent : s.pwr.current ≤ 1 := by rw [(rail_of_running hrun).1]; decide
    rw [exec_vfCommandSlotWrite, execVfCommandSlotWrite, if_pos ⟨hup, hstop, hcurrent, hlo, hhi, hslot⟩,
      vfSlotWrite_of_bound hbound hq]
  case pfq => rw [exec_pfqEnable, execPfqEnable, if_pos ⟨hrun, .inr rfl⟩, pfqWrite_of_start hoff hon hlo hhi]

end Sys2Proof.Machine

/-! ## O46: function resets, and what the host returns to bounce records -/

namespace Sys2Proof.Machine
open Sys2Proof

theorem exec_flr (fn : Nat) (s : State) : exec (.flr fn) s = execFlr fn s := rfl
theorem exec_vfDisable (n : Nat) (s : State) : exec (.vfDisable n) s = execVfDisable n s := rfl
theorem exec_bounceIn (q : Nat) (s : State) :
    exec (.bounceIn q) s = .next (settleAll (fillLanes (startCommand 0x3A q (bounceEff false) s))) := rfl
theorem exec_bounceOut (q : Nat) (s : State) :
    exec (.bounceOut q) s = .next (settleAll (fillLanes (startCommand 0x3B q (bounceEff true) s))) := rfl
theorem exec_pcieCompletion (fn : Nat) (addr : BitVec 64) (d : Bytes) (s : State) :
    exec (.pcieCompletion fn addr d) s = execPcieCompletion fn addr d s := rfl
theorem exec_recordLaneStall (out : Bool) (lane : Nat) (s : State) :
    exec (.recordLaneStall out lane) s = execRecordLaneStall out lane s := rfl
theorem exec_hostDma (id : Option Nat) (s : State) : exec (.hostDma id) s = execHostDma id s := rfl

/-- A command whose effect waits leaves just its wait, before what its row ends in. -/
theorem startCommand_wait {s u v : State} {q op : Nat} {c : Started} (h : beginOf s q op = some (c, u))
    (eff : Nat → Started → State → Eff) {w : Wait} (he : eff s.nextId c u = .wait w v) :
    startCommand op q eff s = drainFailed (setWait v s.nextId w) q := by
  simp only [startCommand, h, he, applyEff]

/-- A VF that is reset is RUNNING. -/
theorem state_resetFunction {fn : Nat} (h : fn ≠ 0) (s : State) : (getVf (resetFunction s fn) fn).state = .running := by
  simp only [resetFunction]
  rw [if_neg h, getVf_updVf_self]

/-- The reset of one VF, silent where the VF is QUIESCED. -/
theorem flr_of_quiesced {s : State} {fn : Nat} (hfn : fn ≠ 0) (hq : (getVf s fn).state = .quiesced) :
    flr s fn = resetFunction (abortFunction s fn) fn := by
  simp [flr, flrFault, flrOne, hfn, hq]

theorem flr_of_not_quiesced {s : State} {fn : Nat} (hfn : fn ≠ 0) (hq : (getVf s fn).state ≠ .quiesced) :
    flr s fn = raise (resetFunction (keepHostOf s (abortFunction (abortRecords s fn) fn) fn) fn) { code := 0x81, unit := unitHpe } := by
  simp [flr, flrFault, flrOne, hfn, hq]

/-- NumVfs written: no VF goes where it is no lower, and the one above goes where it is one lower. -/
theorem vfDisable_of_no_lower {s : State} {n : Nat} (hle : s.hpe.numVfs ≤ n) (hn : n ≤ 63) :
    vfDisable s n = { s with hpe := { s.hpe with numVfs := n } } := by
  have hnone : ((List.range 64).filter fun v => decide (n < v) && decide (v ≤ s.hpe.numVfs)) = [] := by
    refine List.filter_eq_nil_iff.mpr fun v _ h => ?_
    simp only [Bool.and_eq_true, decide_eq_true_eq] at h
    omega
  simp only [vfDisable, hnone, List.foldl_nil, flrFault, List.any_nil, Bool.false_eq_true, if_false, Nat.min_eq_left hn]

theorem filter_range_beq (k m : Nat) : ((List.range m).filter (· == k)) = if k < m then [k] else [] := by
  induction m with
  | zero => rfl
  | succ m ih =>
    rw [List.range_succ, List.filter_append, ih]
    by_cases hm : m = k
    · subst hm; simp
    · have hlt : k < m + 1 ↔ k < m := by omega
      simp [hm, hlt]

theorem filter_range_succ_only {n : Nat} (hn : n + 1 ≤ 63) :
    ((List.range 64).filter fun v => decide (n < v) && decide (v ≤ n + 1)) = [n + 1] := by
  have hone : ∀ v, (decide (n < v) && decide (v ≤ n + 1)) = (v == n + 1) := fun v => by
    rw [Bool.eq_iff_iff]; simp only [Bool.and_eq_true, decide_eq_true_eq, beq_iff_eq]; omega
  simp only [hone]
  rw [filter_range_beq, if_pos (by omega)]

theorem vfDisable_of_one_lower {s : State} {n : Nat} (hnum : s.hpe.numVfs = n + 1) (hn : n + 1 ≤ 63)
    (hq : (getVf s (n + 1)).state = .quiesced) :
    vfDisable s n = { resetFunction (abortFunction s (n + 1)) (n + 1) with
      hpe := { (resetFunction (abortFunction s (n + 1)) (n + 1)).hpe with numVfs := n } } := by
  simp only [vfDisable, hnum, filter_range_succ_only hn]
  simp [flrFault, flrOne, hq, Nat.min_eq_left (by omega : n ≤ 63)]

/-- A record of a function that takes them, at an aligned address, waits for a lane. -/
theorem bounceEff_of_open {u : State} {c : Started} {v : Nat} (hfn : recordFn u (sessionOf u c) = some v)
    (hvf : v = 0 ∨ (getVf u v).state = .running) (haddr : (wd2 c.words 8).toNat % 64 = 0) (out : Bool) (id : Nat) :
    bounceEff out id c u = .wait (.bounce out false [] none) u := by
  have hruns : ¬ (v ≠ 0 ∧ (getVf u v).state ≠ .running) := fun ⟨h0, hr⟩ => hvf.elim h0 hr
  simp only [bounceEff, hfn]
  rw [if_neg hruns, if_neg (by simp [haddr])]

/-- Bytes of the host that no record waits for. -/
theorem pcieCompletion_of_no_record {s : State} (h : bounceCmds s = []) (fn : Nat) (addr : BitVec 64) (d : Bytes) :
    pcieCompletion s fn addr d = runRecords (hostWrite s fn addr d) := by
  have hsame : bounceCmds (hostWrite s fn addr d) = [] := h
  simp only [pcieCompletion, hsame, List.foldl_nil]

/-- A header that comes back for a record that has none yet is kept with it. -/
theorem recordCame_of_header {s : State} {fn id lo len : Nat} {c : Started} {out : Bool} (hlane : (activeIds s).contains id = true)
    (hfn : recordFn s (sessionOf s c) = some fn) (hhead : recordHead c = []) (hlo : lo ≤ (wd2 c.words 8).toNat + 63)
    (hhi : (wd2 c.words 8).toNat + 63 < lo + len) :
    ∃ ready, recordCame s fn (id, c, out, false) lo len
      = setWait s id (.bounce out ready (hostRead s fn (wd2 c.words 8) 64) (acceptedAccord c)) := by
  simp only [recordCame, hhead]
  rw [if_neg (by rw [hlane, hfn]; simp), if_pos ⟨rfl, by rw [decide_eq_true hlo, decide_eq_true hhi]; rfl⟩]
  exact ⟨_, rfl⟩

/-- Settles O46: each row's guard holds, and the row's own lemma says what it does. -/
theorem hostRecords : Obligations.HostRecords := by
  intro s u q fn n c
  refine ⟨fun hrun hlo hhi hq => ⟨?quiesced, state_resetFunction (by omega) _⟩, fun hrun hlo hhi hq => ?running,
    fun hrun hle hn => ?noLower, fun t hrun hnum hn hq ht => ?lower, fun v hfn hvf haddr => ⟨fun hbegin => ?bounceIn, fun hbegin => ?bounceOut⟩,
    fun addr d hlive hhpe hnone => ?bytes, fun id out lo len hlane hfn hhead hlo hhi => recordCame_of_header hlane hfn hhead hlo hhi,
    fun out lane hlive hlane => ?stall, fun hrun => ?dma⟩
  case quiesced => rw [exec_flr, execFlr, if_pos ⟨hrun, hhi⟩, flr_of_quiesced (by omega) hq]
  case running => rw [exec_flr, execFlr, if_pos ⟨hrun, hhi⟩, flr_of_not_quiesced (by omega) hq]
  case noLower => rw [exec_vfDisable, execVfDisable, if_pos hrun, vfDisable_of_no_lower hle hn]
  case lower =>
    subst ht
    rw [exec_vfDisable, execVfDisable, if_pos hrun, vfDisable_of_one_lower hnum hn hq]
  case bounceIn =>
    rw [exec_bounceIn, startCommand_wait hbegin _ (bounceEff_of_open hfn hvf haddr false _)]; rfl
  case bounceOut =>
    rw [exec_bounceOut, startCommand_wait hbegin _ (bounceEff_of_open hfn hvf haddr true _)]; rfl
  case bytes => rw [exec_pcieCompletion, execPcieCompletion, if_pos ⟨hlive, hhpe⟩, pcieCompletion_of_no_record hnone]
  case stall => rw [exec_recordLaneStall, execRecordLaneStall, if_pos ⟨hlive, hlane⟩]
  case dma => rw [exec_hostDma, execHostDma, if_pos hrun]

end Sys2Proof.Machine

/-! ## O47: fetching a command, its timeout, and the completion entry -/

namespace Sys2Proof.Machine
open Sys2Proof

theorem exec_commandFetch (q : Nat) (s : State) : exec (.commandFetch q) s = .next (settleAll (fetch s q)) := rfl
theorem exec_commandTimeout (q ring : Nat) (s : State) : exec (.commandTimeout q ring) s = execCommandTimeout q ring s := rfl

theorem fetch_of_none {s : State} {qi : Nat} (h : mayFetch s qi = none) : fetch s qi = s := by
  simp only [fetch, h]

section Fetch
variable {s u v : State} {qi : Nat} {q : Queue} {x : Session} {words : List Word} {failed : Option Status} {refs : List ObjRef}
  {ok : Bool} (hmay : mayFetch s qi = some (q, x)) (hslot : slotWords s q = (u, words))
  (hchecks : fetchChecks u q.session x ((List.range 16).map fun i => wd words i) = (failed, refs, ok))
  (htake : takeRefs u refs = some v)
include hmay hslot hchecks htake

/-- A queue that may fetch keeps the command at its head; a STOPPED one ends it. -/
theorem fetch_of_open (hstopped : q.stopped = false) : fetch s qi = drainFailed
    { v with queues := tupd (tupd v.queues qi fun y => { y with head := (y.head + 1) % 2 ^ y.log2 }) qi fun y =>
        { y with fetched := y.fetched ++ [{ ring := q.head, words := (List.range 16).map fun i => wd words i
                                            failed := failed, signalOk := ok, refs := refs }] } } qi := by
  simp only [fetch, hmay, hslot, hchecks, htake, hstopped, Bool.false_eq_true, if_false]

theorem fetch_of_stopped (hstopped : q.stopped = true) : fetch s qi = endCommand
    { v with queues := tupd v.queues qi fun y => { y with head := (y.head + 1) % 2 ^ y.log2 } } qi q.head
      ((List.range 16).map fun i => wd words i) refs ok .aborted 0 0 none := by
  simp only [fetch, hmay, hslot, hchecks, htake, hstopped, if_true]

end Fetch

/-- A started command that is no job, and no watch before its step, ends by its timeout. -/
theorem expire_of_started {s : State} {qi ring id : Nat} {c : Started}
    (hfind : (s.started.find? fun e => e.2.queue == qi && e.2.ring == ring && !e.2.timedOut) = some (id, c))
    (hwatch : c.wait ≠ .watch ∨ s.dbg.holding ≠ none) (hjob : (allJobs s).contains id = false) :
    expire s qi ring = timeoutCommand s id c := by
  have hcounts : ¬ (c.wait = .watch ∧ s.dbg.holding = none) := fun ⟨hw, hh⟩ => hwatch.elim (· hw) (· hh)
  simp only [expire, hfind]
  rw [if_neg hcounts]
  simp only [hjob, Bool.false_eq_true, if_false]

/-- The fault that a timeout raises. -/
theorem timeoutCommand_raises (s : State) (id : Nat) (c : Started) :
    ∃ y f, timeoutCommand s id c = raise y f ∧ f.code = 0x01 ∧ f.rung = some (worldRung (sessionOf s c)) := by
  refine ⟨_, _, rfl, ?_, rfl⟩
  simp only [commandFault]
  split <;> rfl

/-- The queue after a completion entry of it: the index has gone on, and PHASE flips where it went round. -/
def advanceEntry (x : Queue) : Queue :=
  { x with cplIndex := if x.cplIndex + 1 == 2 ^ x.log2 then 0 else x.cplIndex + 1
           cplPhase := if x.cplIndex + 1 == 2 ^ x.log2 then !x.cplPhase else x.cplPhase }

/-- A queue in HUB space other than queue 1 has its entry written in its own slots. -/
theorem writeEntry_of_hub {s : State} {q : Nat} {x : Queue} (h1 : q ≠ 1) (hx : tget s.queues q = some x) (hub : x.space = .hub)
    (ring : Nat) (words : List Word) (st : Status) (detail result : Word) :
    writeEntry s q words ring st detail result =
      { s with queues := tset s.queues q { advanceEntry x with
          entries := tset x.entries x.cplIndex (completionEntry (wd words 0) st detail result x.cplPhase ring) } } := by
  simp only [writeEntry, hx, hub]
  rw [if_neg h1, tupd_of_tget _ (tget_tset_self _ _ _), tset_tset]
  simp only [advanceEntry, hub]

/-- Settles O47: the fetch, the timeout and the entry, each by its own lemma. -/
theorem fetchTimeoutEntry : Obligations.FetchTimeoutEntry := by
  refine ⟨fun s u v qi id q x words failed refs ok => ⟨fun hnone => ?left, fun hmay hslot hchecks htake =>
    ⟨fun hstopped => ?kept, fun hstopped => ?stopped⟩, fun c ring hrun hfind hwatch hjob => ⟨?timeout, timeoutCommand_raises s id c⟩⟩,
    fun s q ring words st detail result x h1 hx hub => ?entry⟩
  case left => rw [exec_commandFetch, fetch_of_none hnone]
  case kept => rw [exec_commandFetch, fetch_of_open hmay hslot hchecks htake hstopped]
  case stopped => rw [exec_commandFetch, fetch_of_stopped hmay hslot hchecks htake hstopped]
  case timeout => rw [exec_commandTimeout, execCommandTimeout, if_pos hrun, expire_of_started hfind hwatch hjob]
  case entry =>
    rw [writeEntry_of_hub h1 hx hub]
    refine ⟨_, tget_tset_self _ _ _, tget_tset_self _ _ _, ?_, ?_, fun k hk => tget_tset_ne _ _ _ _ hk, rfl⟩
    · simp [advanceEntry]
    · simp [advanceEntry]

end Sys2Proof.Machine

/-! ## O48: register accesses -/

namespace Sys2Proof.Machine
open Sys2Proof

theorem exec_registerWrite (w : World) (off : BitVec 24) (n : Nat) (v : BitVec 32) (s : State) :
    exec (.registerWrite w off n v) s = execRegisterWrite w off n v s := rfl
theorem exec_loCaptureRead (w : World) (off : BitVec 24) (n : Nat) (s : State) :
    exec (.loCaptureRead w off n) s = execLoCaptureRead w off n s := rfl
theorem exec_hotFifoPop (w : World) (n : Nat) (s : State) : exec (.hotFifoPop w n) s = execHotFifoPop w n s := rfl
theorem exec_becAck_row (w : World) (n : Nat) (s : State) : exec (.becAck w n) s = execBecAck w n s := rfl
theorem exec_apertureAccess (w : World) (n : Nat) (x : Option (BitVec 32)) (s : State) :
    exec (.apertureAccess w n x) s = execApertureAccess w n x s := rfl
theorem exec_kick (w : World) (s : State) : exec (.kick w) s = execKick w s := rfl
theorem exec_watchdogArm (w : World) (v : BitVec 32) (s : State) : exec (.watchdogArm w v) s = execWatchdogArm w v s := rfl
theorem exec_testEngineCommand (w : World) (v : BitVec 32) (s : State) :
    exec (.testEngineCommand w v) s = execTestEngineCommand w v s := rfl

/-- An access that is not of 4 bytes has no effect, and reads zero. -/
theorem exec_width_ne_four {n : Nat} (hn : n ≠ 4) (s : State) (w : World) (off : BitVec 24) (v : Word) :
    exec (.registerWrite w off n v) s = .next s ∧ exec (.loCaptureRead w off n) s = .next s ∧
      exec (.hotFifoPop w n) s = .next s ∧ exec (.becAck w n) s = .next s ∧ (∀ x, exec (.apertureAccess w n x) s = .next s) ∧
      readReg s w off.toNat n = (s, 0) := by
  refine ⟨?_, ?_, ?_, ?_, fun x => ?_, if_pos hn⟩
  · rw [exec_registerWrite, execRegisterWrite, if_neg fun h => hn h.1]
  · rw [exec_loCaptureRead, execLoCaptureRead, if_neg fun h => hn h.2]
  · rw [exec_hotFifoPop, execHotFifoPop, if_neg fun h => hn h.2]
  · rw [exec_becAck_row, execBecAck, if_neg fun h => hn h.2.2]
  · exact if_pos (.inr hn)

theorem mayWriteReg_of_running {s : State} {w : World} (hrun : running s = true) (hw : w = .root ∨ w = .host) (off : Nat) :
    mayWriteReg s w off = true := by
  simp only [running, Bool.and_eq_true, beq_iff_eq] at hrun
  obtain ⟨⟨⟨hup, hcurrent⟩, hentering⟩, hstop⟩ := hrun
  rcases hw with rfl | rfl <;> simp [mayWriteReg, hup, hcurrent, hentering, hstop]

theorem mayReadReg_of_running {s : State} {w : World} (hrun : running s = true) (hw : w = .root ∨ w = .host ∨ w = .debug) :
    mayReadReg s w = true := by
  rcases hw with rfl | rfl | rfl <;> simp [mayReadReg, hrun]

theorem writeReg_of_unaligned {off : Nat} (h : off % 4 ≠ 0) (s : State) (w : World) (v : Word) : writeReg s w off v = s := if_pos h

theorem writeReg_scrubRate (s : State) (v : Word) : writeReg s .root 0x118 v = { s with scrubRate := v.setWidth 8 } := rfl

theorem loCapture_of_hi {off hi : Nat} (h : hiOf off = some hi) (s : State) (w : World) :
    loCapture s w off = { s with caps := tset s.caps (worldKey w hi) (hiValue s w off) } := by
  simp only [loCapture, h]

/-- A first arming with a period in range. -/
theorem armWatchdog_of_off {s : State} {v : Word} (hoff : s.frs.wdogEnable = false) (hon : bit v 31 = true)
    (hlo : 1 ≤ fld v 13 0) (hhi : fld v 13 0 ≤ 10000) : armWatchdog s v =
      { s with frs := { s.frs with wdogEnable := true, kicked := false, wdogPeriod := BitVec.ofNat 14 (fld v 13 0) } } := by
  simp only [armWatchdog]
  rw [if_neg (by simp [hoff]), if_pos ⟨hlo, hhi⟩, hon]

theorem armWatchdog_of_on {s : State} (hon : s.frs.wdogEnable = true) (v : Word) : armWatchdog s v = s := if_pos hon

section Aperture
variable {s : State} {w : World} (hmay : mayAperture s w = true)
include hmay

theorem exec_aperture_write (v : Word) : exec (.apertureAccess w 4 (some v)) s = .next (settleAll (apertureWrite s v)) := by
  rw [exec_apertureAccess, execApertureAccess, if_neg (by simp [hmay])]

theorem exec_aperture_read : exec (.apertureAccess w 4 none) s = .next (settleAll (apertureRead s).1) := by
  rw [exec_apertureAccess, execApertureAccess, if_neg (by simp [hmay])]

end Aperture

theorem apertureWrite_of_covered {s : State} (hrun : running s = true) (hlevel : levelCovers s s.dbg.winAddr.toNat = true) (v : Word) :
    apertureWrite s v = writeReg s .debug s.dbg.winAddr.toNat v := by
  have hstop : s.dbg.stop = .running := by
    simp only [running, Bool.and_eq_true, beq_iff_eq] at hrun; exact hrun.2
  simp only [apertureWrite]
  rw [if_neg (by simp [hlevel]), if_pos (.inl hstop)]

theorem apertureWrite_of_not_covered {s : State} (hlevel : levelCovers s s.dbg.winAddr.toNat = false) (v : Word) :
    apertureWrite s v = s := if_pos (by simp [hlevel])

theorem apertureRead_of_covered {s : State} (hlevel : levelCovers s s.dbg.winAddr.toNat = true) : (apertureRead s).1 =
    { (readReg s .debug s.dbg.winAddr.toNat 4).1 with
      dbg := { (readReg s .debug s.dbg.winAddr.toNat 4).1.dbg with winData := (readReg s .debug s.dbg.winAddr.toNat 4).2 } } := by
  simp only [apertureRead]
  rw [if_neg (by simp [hlevel])]

theorem apertureRead_of_not_covered {s : State} (hlevel : levelCovers s s.dbg.winAddr.toNat = false) : (apertureRead s).1 =
    { s with dbg := { s.dbg with winData := 0 } } := by
  simp only [apertureRead]
  rw [if_pos (by simp [hlevel])]

/-- Settles O48: each access passes its guard, and its function's lemma says what it does. -/
theorem registerRows : Obligations.RegisterRows := by
  intro s w off v n hrun
  have hwrite : ∀ u, u = .root ∨ u = .host → ∀ (o : BitVec 24),
      exec (.registerWrite u o 4 v) s = .next (settleAll (writeReg s u o.toNat v)) := fun u hu o => by
    rw [exec_registerWrite, execRegisterWrite, if_pos ⟨rfl, mayWriteReg_of_running hrun hu _⟩]
  refine ⟨fun hw => ⟨hwrite w hw off, fun hodd => ?unaligned⟩, ?scrub, fun hn => exec_width_ne_four hn s w off v,
    fun hi hw hhi => ?capture, fun hw => ?pop, ?kick, fun hoff hon hlo hhi => ?arm, fun hon => ?armed, fun hopen => ?engine,
    fun hmay hlevel => ⟨?apWrite, ?apRead⟩, fun hmay hlevel => ⟨?closedWrite, ?closedRead⟩, fun hmay => ?shut⟩
  case unaligned => rw [hwrite w hw off, writeReg_of_unaligned hodd]
  case scrub => exact hwrite .root (.inl rfl) 0x118
  case capture =>
    rw [exec_loCaptureRead, execLoCaptureRead, if_pos ⟨mayReadReg_of_running hrun hw, rfl⟩, loCapture_of_hi hhi]
  case pop => rw [exec_hotFifoPop, execHotFifoPop, if_pos ⟨mayReadReg_of_running hrun hw, rfl⟩, hotPop]
  case kick => rw [exec_kick, execKick, if_pos ⟨hrun, rfl⟩]
  case arm => rw [exec_watchdogArm, execWatchdogArm, if_pos ⟨hrun, rfl⟩, armWatchdog_of_off hoff hon hlo hhi]
  case armed => rw [exec_watchdogArm, execWatchdogArm, if_pos ⟨hrun, rfl⟩, armWatchdog_of_on hon]
  case engine =>
    exact ⟨engineCommand s v, by rw [exec_testEngineCommand, execTestEngineCommand, if_pos ⟨hrun, hopen⟩], rfl⟩
  case apWrite => rw [exec_aperture_write hmay, apertureWrite_of_covered hrun hlevel]
  case apRead => rw [exec_aperture_read hmay, apertureRead_of_covered hlevel]
  case closedWrite => rw [exec_aperture_write hmay, apertureWrite_of_not_covered hlevel]
  case closedRead => rw [exec_aperture_read hmay, apertureRead_of_not_covered hlevel]
  case shut => rw [exec_apertureAccess, execApertureAccess, if_pos (.inl (by simp [hmay]))]

end Sys2Proof.Machine

/-! ## O51: faults accepted and acknowledged, and the rungs -/

namespace Sys2Proof.Machine
open Sys2Proof

theorem exec_faultAccept (s : State) : exec .faultAccept s = execFaultAccept s := rfl
theorem exec_faultAck (q : Nat) (s : State) : exec (.faultAck q) s = runCommand 0x49 q faultAckEff s := rfl
theorem exec_rung0 (s : State) : exec .rung0 s = execRung0 s := rfl
theorem exec_rung1 (s : State) : exec .rung1 s = execRung1 s := rfl
theorem exec_rung2 (s : State) : exec .rung2 s = execRung2 s := rfl
theorem exec_rung3 (s : State) : exec .rung3 s = execRung3 s := rfl
theorem exec_rung4 (s : State) : exec .rung4 s = execRung4 s := rfl
theorem exec_rung5 (s : State) : exec .rung5 s = execRung5 s := rfl
theorem exec_rungTimeout (s : State) : exec .rungTimeout s = execRungTimeout s := rfl

/-! ### A fault's way in (R417) -/

/-- The nearer of two faults, the first where their sources stand alike. -/
def nearerFault (s : State) : Option Raised → Raised → Option Raised
  | none, f => some f
  | some g, f => if faultDist s f < faultDist s g then some f else some g

theorem nextFault_eq_foldl (s : State) : nextFault s = s.frs.raised.foldl (nearerFault s) none := by
  unfold nextFault
  congr 1
  funext x f
  cases x <;> rfl

/-- What a search for the nearest fault finds stood at the start or in the list, and nothing there is nearer. -/
theorem foldl_nearerFault {s : State} {l : List Raised} {o : Option Raised} {f : Raised} (h : l.foldl (nearerFault s) o = some f) :
    (o = some f ∨ f ∈ l) ∧ (∀ g, o = some g → faultDist s f ≤ faultDist s g) ∧ ∀ g ∈ l, faultDist s f ≤ faultDist s g := by
  induction l generalizing o with
  | nil =>
    have hsame (g : Raised) (hg : o = some g) : f = g := Option.some.inj (h.symm.trans hg)
    exact ⟨.inl h, fun g hg => Nat.le_of_eq (congrArg (faultDist s) (hsame g hg)), fun g hg => nomatch hg⟩
  | cons x r ih =>
    obtain ⟨hwhere, hstart, hlist⟩ := ih h
    have hx : faultDist s f ≤ faultDist s x ∧ ∀ g, o = some g → faultDist s f ≤ faultDist s g := by
      cases o with
      | none => exact ⟨hstart x rfl, fun g hg => nomatch hg⟩
      | some y =>
        by_cases hnear : faultDist s x < faultDist s y
        · have hle := hstart x (if_pos hnear)
          exact ⟨hle, fun g hg => Option.some.inj hg ▸ Nat.le_trans hle (Nat.le_of_lt hnear)⟩
        · have hle := hstart y (if_neg hnear)
          exact ⟨Nat.le_trans hle (Nat.le_of_not_lt hnear), fun g hg => Option.some.inj hg ▸ hle⟩
    have hfrom : o = some f ∨ f ∈ x :: r := by
      rcases hwhere with hnear | hmem
      · cases o with
        | none => exact .inr (Option.some.inj hnear ▸ List.mem_cons_self)
        | some y =>
          by_cases hlt : faultDist s x < faultDist s y
          · exact .inr (Option.some.inj ((if_pos hlt).symm.trans hnear) ▸ List.mem_cons_self)
          · exact .inl ((if_neg hlt).symm.trans hnear)
      · exact .inr (List.mem_cons_of_mem x hmem)
    exact ⟨hfrom, hx.2, fun g hg => (List.mem_cons.mp hg).elim (fun hgx => hgx ▸ hx.1) (hlist g)⟩

theorem mem_of_nextFault {s : State} {f : Raised} (h : nextFault s = some f) : f ∈ s.frs.raised := by
  rw [nextFault_eq_foldl] at h
  exact (foldl_nearerFault h).1.resolve_left fun hnone => nomatch hnone

theorem faultDist_nextFault_le {s : State} {f g : Raised} (h : nextFault s = some f) (hg : g ∈ s.frs.raised) :
    faultDist s f ≤ faultDist s g := by
  rw [nextFault_eq_foldl] at h
  exact (foldl_nearerFault h).2.2 g hg

theorem attachFault_of_no_fence {f : Raised} (h : f.fence = none) (s : State) : attachFault s f = s := by
  simp only [attachFault, h]

theorem chooseRung_of_three {f : Raised} (h : f.rung = some 3) (s : State) :
    chooseRung s f = (some 3, [.rung3 (faultEntry s f (some 3) false)]) := by
  simp only [chooseRung, h]

theorem mirrorEntry_of_off {s : State} (h : s.frs.ringEnable = false) (i : Nat) (e : List Word) : mirrorEntry s i e = s :=
  if_pos (by simp [h])

theorem noteCapstone_of_other {f : Raised} (h : f.code ≠ 0x1B) (s : State) : noteCapstone s f = s := if_neg fun hc => h hc.1

/-- A fault recorded where the queue has room and no ring is kept. -/
theorem recordFault_of_room {s : State} (hroom : s.frs.entries.length < 255) (hring : s.frs.ringEnable = false) (f : Raised)
    (rung : Option Nat) : recordFault s f rung =
      { s with frs := { s.frs with entries := tset s.frs.entries s.frs.tail (faultEntry s f rung s.frs.phase)
                                   tail := if s.frs.tail + 1 = 255 then 0 else s.frs.tail + 1
                                   phase := if s.frs.tail + 1 = 255 then !s.frs.phase else s.frs.phase } } := by
  simp only [recordFault]
  rw [if_neg (by omega)]
  exact mirrorEntry_of_off (by exact hring) _ _

/-- A fault of rung 3, accepted. -/
theorem acceptFault_of_three {s : State} {f : Raised} (hfence : f.fence = none) (hrung : f.rung = some 3) (hcode : f.code ≠ 0x1B)
    (hroom : s.frs.entries.length < 255) (hring : s.frs.ringEnable = false) :
    (acceptFault s f).frs.due = s.frs.due ++ [.rung3 (faultEntry s f (some 3) false)] ∧
      tget (acceptFault s f).frs.entries s.frs.tail = some (faultEntry s f (some 3) s.frs.phase) := by
  simp only [acceptFault, attachFault_of_no_fence hfence, chooseRung_of_three hrung, recordFault_of_room hroom hring,
    noteCapstone_of_other hcode]
  exact ⟨rfl, tget_tset_self _ _ _⟩

/-! ### FAULT_ACK (R419) -/

theorem faultAckEff_of_entry {u : State} {c : Started} {i id : Nat} (hi : i = (wd c.words 8).toNat) (hne : i ≠ 255)
    (hentry : (tget u.frs.entries i).isSome = true) (hlost : u.frs.lostTotal = 0) :
    faultAckEff id c u = .done .ok 0 0 { u with frs :=
      { u.frs with entries := u.frs.entries.filter fun x => ringDist u i < ringDist u x.1
                   head := if i + 1 = 255 then 0 else i + 1 } } := by
  subst hi
  simp only [faultAckEff, Eff.good, moveLost]
  rw [if_neg hne, if_neg (by simp [Option.isSome_iff_ne_none.mp hentry]), if_pos hlost]

/-! ### Rungs due (R410, R417) -/

/-- The first rung of its kind is found behind the others, and taken away from among them. -/
theorem find?_due {f : Due → Bool} {pre ds : List Due} {d : Due} (hpre : ∀ x ∈ pre, f x = false) (hd : f d = true) :
    (pre ++ d :: ds).find? f = some d := by
  rw [List.find?_append, List.find?_eq_none.mpr fun x hx => by simp [hpre x hx], Option.none_or, List.find?_cons, hd]

theorem erase_due {f : Due → Bool} {pre ds : List Due} {d : Due} (hpre : ∀ x ∈ pre, f x = false) (hd : f d = true) :
    (pre ++ d :: ds).erase d = pre ++ ds := by
  have hnot : d ∉ pre := fun hmem => by rw [hpre d hmem] at hd; cases hd
  rw [List.erase_append_right _ hnot, List.erase_cons_head]

theorem runDue_of_first {s : State} {f : Due → Bool} {run : State → Due → State} {pre ds : List Due} {d : Due}
    (hrun : running s = true) (hpre : ∀ x ∈ pre, f x = false) (hd : f d = true) (hdue : s.frs.due = pre ++ d :: ds) :
    runDue f run s = .next (fabricSettle (run { s with frs := { s.frs with due := pre ++ ds } } d)) := by
  unfold runDue
  rw [hdue, find?_due hpre hd]
  simp only [erase_due hpre hd]
  rw [if_pos hrun]

theorem runRung0_of_plain {s : State} {i : Nat} {x : Session} (hx : tget s.sessions i = some x) (hi : 3 ≤ i)
    (hplain : x.primary = false) :
    runRung0 s i = haltSession { s with frs := { s.frs with active := s.frs.active ++ [.rung0 i] } } i := by
  simp only [runRung0, hx]
  exact if_neg (by simp [hplain]; omega)

theorem runRung2_of_leaving {s : State} {i : Nat} (h : i < 2 ∨ (getAccord s i).state = .free ∨ (getAccord s i).state = .retiring) :
    runRung2 s i = s := if_pos h

theorem runRung2_of_tenant {s : State} {i : Nat} (hi : 2 ≤ i) (hfree : (getAccord s i).state ≠ .free)
    (hretiring : (getAccord s i).state ≠ .retiring) :
    runRung2 s i = retireAccord { s with frs := { s.frs with active := s.frs.active ++ [.rung2 i], lastRung2 := i } } i none :=
  if_neg (by simp [hfree, hretiring]; omega)

theorem mem_resetGroups_resetLaneGroup (s : State) (m g : Nat) : g ∈ (getMpe (resetLaneGroup s m g) m).resetGroups := by
  simp only [resetLaneGroup, getMpe_updMpe_self]
  split
  case isTrue h => exact List.contains_iff_mem.mp h
  case isFalse => exact List.mem_append_right _ (List.mem_singleton_self g)

theorem findSome?_due {β : Type} {f : Due → Option β} {pre ds : List Due} {d : Due} {e : β} (hpre : ∀ x ∈ pre, f x = none)
    (hd : f d = some e) : (pre ++ d :: ds).findSome? f = some e := by
  rw [List.findSome?_append, List.findSome?_eq_none_iff.mpr hpre, Option.none_or, List.findSome?_cons, hd]

theorem execRung3_of_first {s : State} {pre ds : List Due} {e : List Word} (hpre : ∀ d ∈ pre, ∀ k, d ≠ .rung3 k)
    (hdue : s.frs.due = pre ++ .rung3 e :: ds) :
    execRung3 s = .next (settle (blockReset s e)) := by
  unfold execRung3
  rw [hdue, findSome?_due (e := e)]
  · intro d hd
    cases d with | rung3 k => exact absurd rfl (hpre _ hd k) | _ => rfl
  · rfl

theorem execRung4_of_first {s : State} {pre ds : List Due} {e : List Word} (hpre : ∀ d ∈ pre, ∀ k, d ≠ .rung4 k)
    (hdue : s.frs.due = pre ++ .rung4 e :: ds) :
    execRung4 s = .next (settle (runRung4 { s with frs := { s.frs with due := pre ++ ds } } e)) := by
  have hnot : .rung4 e ∉ pre := fun hmem => hpre _ hmem e rfl
  unfold execRung4
  rw [hdue, findSome?_due (e := e)]
  · simp only [List.erase_append_right _ hnot, List.erase_cons_head]
  · intro d hd
    cases d with | rung4 k => exact absurd rfl (hpre _ hd k) | _ => rfl
  · rfl

theorem execRung5_of_first {s : State} {pre ds : List Due} {e : List Word} (hpre : ∀ d ∈ pre, ∀ k, d ≠ .rung5 k)
    (hdue : s.frs.due = pre ++ .rung5 e :: ds) :
    execRung5 s = .next (settle (runRung5 { s with frs := { s.frs with due := pre ++ ds } } e)) := by
  have hnot : .rung5 e ∉ pre := fun hmem => hpre _ hmem e rfl
  unfold execRung5
  rw [hdue, findSome?_due (e := e)]
  · simp only [List.erase_append_right _ hnot, List.erase_cons_head]
  · intro d hd
    cases d with | rung5 k => exact absurd rfl (hpre _ hd k) | _ => rfl
  · rfl

/-! ### A reset of the block (R413, R414) -/

theorem writeRecord_eq (s : State) (k : Nat) (e : List Word) :
    ∃ r, writeRecord s k e = { s with frs := { s.frs with record := r } } := by
  unfold writeRecord
  split
  · exact ⟨s.frs.record, rfl⟩
  · exact ⟨_, rfl⟩

theorem abortPending_of_none {s : State} {k : ResKind} {i : Nat} (h : (getRes s k i).pending = none) : abortPending s k i = s := by
  simp only [abortPending, h]

theorem abortBinds_of_none {s : State} (h : ∀ k i, (getRes s k i).pending = none) : abortBinds s = s := by
  have hkind : ∀ k, ∀ es : List (Nat × Res), es.foldl (fun s e => abortPending s k e.1) s = s := fun k es => by
    induction es with
    | nil => rfl
    | cons e es ih => rw [List.foldl_cons, abortPending_of_none (h k e.1), ih]
  simp only [abortBinds, List.foldl_cons, List.foldl_nil, hkind]

theorem applyFences_of_none {s : State} (h : s.fenceReady = []) : applyFences s = s := by
  simp only [applyFences, h, List.length_nil, List.range_zero, List.foldl_nil]

theorem failAllFences_of_none {s : State} {f : Fence → Bool} (hready : s.fenceReady = []) (hnone : ∀ e ∈ s.fences, f e.2 = false) :
    failAllFences s f = s := by
  have hsel : (s.fences.filter fun e => f e.2) = [] := List.filter_eq_nil_iff.mpr fun e he => by simp [hnone e he]
  simp only [failAllFences, applyFences_of_none hready, hsel, List.foldl_nil]

/-- What a block without mirrored fences, updates and binds is reset from. -/
theorem blockReset_of_plain {s : State} (h : ResetsPlainly s) (e : List Word) :
    ∃ r, blockReset s e = downState { s with frs := { s.frs with record := r, resetCount := (s.frs.resetCount + 1) % 2 ^ 32 } }
      [.rung3 e] := by
  obtain ⟨hmirror, hready, hpend⟩ := h
  obtain ⟨r, hr⟩ := writeRecord_eq s 1 e
  refine ⟨r, ?_⟩
  simp only [blockReset, hr]
  rw [abortBinds_of_none (s := { s with frs := { s.frs with record := r } }) hpend,
    failAllFences_of_none (s := { s with frs := { s.frs with record := r } }) hready fun e he => by rw [hmirror e he]; rfl,
    ite_self]

/-- What every reset of the block leaves. -/
theorem blockReset_down (s : State) (e : List Word) : (blockReset s e).up = false ∧ (blockReset s e).sessions = State.reset.sessions ∧
    (blockReset s e).hubMem = State.reset.hubMem ∧ (blockReset s e).frs.active = [.rung3 e] ∧ (blockReset s e).frs.due = [] :=
  ⟨rfl, rfl, rfl, rfl, rfl⟩

theorem runRung4_eq (s : State) (e : List Word) : (runRung4 s e).aon = { s.aon with chipResetReq := true } ∧
    (runRung4 s e).frs.due = s.frs.due ∧ (runRung4 s e).frs.active = [.rung4 e] ∧ (runRung4 s e).sessions = s.sessions := by
  obtain ⟨r, hr⟩ := writeRecord_eq s 2 e
  simp only [runRung4, hr, and_self]

theorem runRung5_eq (s : State) (e : List Word) : (runRung5 s e).aon = { s.aon with pwrCycleReq := true } ∧
    (runRung5 s e).frs.due = s.frs.due ∧ (runRung5 s e).frs.active = [.rung5 e] ∧ (runRung5 s e).sessions = s.sessions := by
  obtain ⟨r, hr⟩ := writeRecord_eq s 3 e
  simp only [runRung5, hr, and_self]

/-! ### Rungs that do not complete (R421) -/

theorem execRungTimeout_of_first {s : State} {d : Due} {as : List Due} (hup : s.aon.up = true) (hactive : s.frs.active = d :: as) :
    execRungTimeout s = .next (settle (climb s d)) := by
  simp only [execRungTimeout, hactive]
  exact if_pos hup

theorem climb_rung1 {s : State} {r : UnitRef} {as : List Due} (hactive : s.frs.active = .rung1 r :: as) : climb s (.rung1 r) =
    raise { s with frs := { s.frs with active := as } } { code := 0x73, unit := unitHub, rung := some 3 } := by
  simp only [climb, hactive, List.erase_cons_head]

theorem climb_rung5 {s : State} {e : List Word} {as : List Due} (hactive : s.frs.active = .rung5 e :: as) : climb s (.rung5 e) =
    { s with frs := { s.frs with active := as } } := by
  simp only [climb, hactive, List.erase_cons_head]

/-- Settles O51: the rotation is a search for the nearest, a rung due is found and taken away, and each rung's function does the rest. -/
theorem faultsAndRungs : Obligations.FaultsAndRungs := by
  intro s u q i c f e pre ds
  refine ⟨fun hup hnext => ⟨?accept, mem_of_nextFault hnext, fun g hg => faultDist_nextFault_le hnext hg, rfl⟩,
    fun k hfence hrung hcode hroom hring hk => hk ▸ acceptFault_of_three hfence hrung hcode hroom hring,
    fun hbegin hi hne hentry hlost => runCommand_done hbegin faultAckEff (faultAckEff_of_entry hi hne hentry hlost),
    fun x hrun hpre hdue hfree hx hi hplain => ?rung0, fun m g hrun hpre hdue => ?rung1,
    fun t hrun hpre hdue ht => ?rung2, fun hpre hdue => ?rung3, fun hpre hdue => ?rung4, fun hpre hdue => ?rung5,
    fun r as hup hactive => ?timeout1, fun as hup hactive => ?timeout5⟩
  case accept => rw [exec_faultAccept, execFaultAccept, hnext]; exact if_pos hup
  case rung0 =>
    rw [exec_rung0, execRung0, runDue_of_first hrun (fun d hd => ?_) rfl hdue]
    · simp only [hfree, Bool.false_eq_true, if_false]
      rw [runRung0_of_plain (by exact hx) hi hplain]
    · cases d with | rung0 k => exact absurd rfl (hpre _ hd k) | _ => rfl
  case rung1 =>
    refine ⟨_, ?_, rfl, mem_resetGroups_resetLaneGroup _ m g⟩
    rw [exec_rung1, execRung1, runDue_of_first hrun (fun d hd => ?_) rfl hdue]
    cases d with | rung1 k => exact absurd rfl (hpre _ hd k) | _ => rfl
  case rung2 =>
    subst ht
    have hexec : exec .rung2 s = .next (fabricSettle (runRung2 { s with frs := { s.frs with due := pre ++ ds } } i)) := by
      rw [exec_rung2, execRung2, runDue_of_first hrun (fun d hd => ?_) rfl hdue]
      cases d with | rung2 k => exact absurd rfl (hpre _ hd k) | _ => rfl
    refine ⟨fun hstay => ?_, fun hlo hfree hretiring => ?_⟩
    · rw [hexec, runRung2_of_leaving (by exact hstay)]
    · rw [hexec, runRung2_of_tenant hlo (by exact hfree) (by exact hretiring)]
  case rung3 =>
    obtain ⟨hup, hsessions, hhub, hactive, hnodue⟩ := blockReset_down s e
    refine ⟨blockReset s e, ?_, rfl, hup, hsessions, hhub, hactive, hnodue, fun hplain => ?_⟩
    · rw [exec_rung3, execRung3_of_first hpre hdue]
    · obtain ⟨r, hr⟩ := blockReset_of_plain hplain e
      rw [hr]
      exact ⟨rfl, rfl, rfl, rfl⟩
  case rung4 =>
    obtain ⟨haon, hdue4, hactive, hsessions⟩ := runRung4_eq { s with frs := { s.frs with due := pre ++ ds } } e
    exact ⟨_, (exec_rung4 s).trans (execRung4_of_first hpre hdue), haon, hdue4, hactive, hsessions⟩
  case rung5 =>
    obtain ⟨haon, hdue5, hactive, hsessions⟩ := runRung5_eq { s with frs := { s.frs with due := pre ++ ds } } e
    exact ⟨_, (exec_rung5 s).trans (execRung5_of_first hpre hdue), haon, hdue5, hactive, hsessions⟩
  case timeout1 => rw [exec_rungTimeout, execRungTimeout_of_first hup hactive, climb_rung1 hactive]
  case timeout5 => rw [exec_rungTimeout, execRungTimeout_of_first hup hactive, climb_rung5 hactive]

end Sys2Proof.Machine

/-! ## O52: events of the block itself -/

namespace Sys2Proof.Machine
open Sys2Proof

theorem exec_watchdog (s : State) : exec .watchdog s = execWatchdog s := rfl
theorem exec_lockstep (s : State) : exec .lockstep s = execLockstep s := rfl
theorem exec_mortarCrcError (link attempt : Nat) (s : State) :
    exec (.mortarCrcError link attempt) s = execMortarCrcError link attempt s := rfl
theorem exec_tamper (die : Nat) (s : State) : exec (.tamper die) s = execTamper die s := rfl
theorem exec_fwSelfcheck (d : BitVec 384) (s : State) : exec (.fwSelfcheck d) s = execFwSelfcheck d s := rfl

/-- A fault recorded without a ring in memory is recorded in the FRS alone, and counts no reset. -/
theorem recordFault_frs {s : State} (hring : s.frs.ringEnable = false) (f : Raised) (rung : Option Nat) :
    ∃ r, recordFault s f rung = { s with frs := r } ∧ r.resetCount = s.frs.resetCount := by
  by_cases hroom : s.frs.entries.length < 255
  · exact ⟨_, recordFault_of_room hroom hring f rung, rfl⟩
  · exact ⟨_, if_pos (by omega), rfl⟩

theorem islandReset_down (s : State) (f : Raised) :
    (islandReset s f).up = false ∧ (islandReset s f).sessions = State.reset.sessions := ⟨rfl, rfl⟩

theorem resetCount_islandReset {s : State} (h : ResetsPlainly s) (hring : s.frs.ringEnable = false) (f : Raised) :
    (islandReset s f).frs.resetCount = (s.frs.resetCount + 1) % 2 ^ 32 := by
  obtain ⟨r, hr, hcount⟩ := recordFault_frs hring f (some 3)
  have hplain : ResetsPlainly { s with frs := r } := h
  obtain ⟨k, hk⟩ := blockReset_of_plain hplain (faultEntry s f (some 3) false)
  simp only [islandReset, hr, hk]
  exact congrArg (fun n => (n + 1) % 2 ^ 32) hcount

section Link
variable {s : State} {link attempt : Nat} (hrun : running s = true) (hdie : dieLink link = true)
  (hup : s.linksDown.contains link = false) (hnext : attempt = 1 ∨ attempt = tgetD s.linkTries link 0 + 1)
include hup hnext

/-- A failed attempt of a transfer is noted, and the fifth takes the link down. -/
theorem mortarError_of_few (hfew : attempt < 5) : mortarError s link attempt = { s with linkTries := tset s.linkTries link attempt } := by
  simp only [mortarError, hup]
  rw [if_neg (by simp; omega), if_pos hfew]

theorem mortarError_of_fifth (hfive : 5 ≤ attempt) : mortarError s link attempt =
    raise (linkLost { s with linkTries := tdel s.linkTries link } link)
      { code := 0x70, unit := unitMortar, inst := link, rung := some 3 } := by
  simp only [mortarError, hup]
  rw [if_neg (by simp; omega), if_neg (by omega)]

end Link

/-- What a link lost in the end leaves. -/
theorem raise_linkLost_frame (s : State) (tries : Tab Nat) (link : Nat) (f : Raised) :
    (raise (linkLost { s with linkTries := tries } link) f).linksDown = s.linksDown ++ [link] ∧
    (raise (linkLost { s with linkTries := tries } link) f).frs.raised =
      (if inDry s then s.frs.raised else s.frs.raised ++ [f]) ∧
    { raise (linkLost { s with linkTries := tries } link) f with
      linksDown := s.linksDown, linkTries := s.linkTries, unitOk0 := s.unitOk0, unitOk1 := s.unitOk1, frs := s.frs } = s := by
  have hdry : inDry (linkLost { s with linkTries := tries } link) = inDry s := rfl
  unfold raise
  rw [hdry]
  split <;> exact ⟨rfl, rfl, rfl⟩

/-- Settles O52: each event passes its guard, and its function's lemma says what it does. -/
theorem blockEvents : Obligations.BlockEvents := by
  intro s u q link attempt die c d
  refine ⟨fun hrun henable hkick => ?kicked, fun hrun henable hkick => ?unkicked, fun hrun => ?lockstep,
    fun hrun hdie hup hnext => ?link, fun hdie => ?other, fun hup hdie hglitch => ?glitch, fun hrun hd => ?digest, fun hd => ?same,
    fun hbegin => runCommand_done hbegin zeroizeAllEff rfl, fun hbegin => runCommand_done hbegin powerCycleEff rfl⟩
  case kicked => rw [exec_watchdog, execWatchdog, if_neg (by simp [hrun, henable]), if_pos hkick]
  case unkicked =>
    obtain ⟨hdown, hsessions⟩ := islandReset_down s { code := 0x72, unit := unitAon }
    refine ⟨_, ?_, hdown, hsessions, fun hplain hring => resetCount_islandReset hplain hring _⟩
    rw [exec_watchdog, execWatchdog, if_neg (by simp [hrun, henable]), if_neg (by simp [hkick])]
  case lockstep =>
    obtain ⟨hdown, hsessions⟩ := islandReset_down s { code := 0x71, unit := unitHub }
    refine ⟨_, ?_, hdown, hsessions, fun hplain hring => resetCount_islandReset hplain hring _⟩
    rw [exec_lockstep, execLockstep, if_pos hrun]
  case link =>
    have hexec : exec (.mortarCrcError link attempt) s = .next (settle (mortarError s link attempt)) := by
      rw [exec_mortarCrcError, execMortarCrcError, if_pos ⟨hrun, hdie⟩]
    refine ⟨fun hfew => by rw [hexec, mortarError_of_few hup hnext hfew], fun hfive => ⟨_, hexec, ?_⟩⟩
    rw [mortarError_of_fifth hup hnext hfive]
    exact raise_linkLost_frame s (tdel s.linkTries link) link _
  case other => rw [exec_mortarCrcError, execMortarCrcError, if_neg (by simp [hdie])]
  case glitch =>
    rw [exec_tamper, execTamper, if_pos ⟨hup, hdie⟩]
    simp only [hglitch, Bool.false_eq_true, if_false]
  case digest => rw [exec_fwSelfcheck, execFwSelfcheck, if_pos ⟨hrun, hd⟩]
  case same => rw [exec_fwSelfcheck, execFwSelfcheck, if_neg fun h => h.2 hd]

end Sys2Proof.Machine

/-! ## O53: the always-on island, power states and power loss -/

namespace Sys2Proof.Machine
open Sys2Proof

theorem exec_aonStart (s : State) : exec .aonStart s = execAonStart s := rfl
theorem exec_blockStart (fails : List (BitVec 64)) (s : State) : exec (.blockStart fails) s = execBlockStart fails s := rfl
theorem exec_aonStatus (s : State) : exec .aonStatus s = execAonStatus s := rfl
theorem exec_aonFaultRecord (nonce : BitVec 256) (s : State) : exec (.aonFaultRecord nonce) s = execAonFaultRecord nonce s := rfl
theorem exec_aonZeroize (s : State) : exec .aonZeroize s = execAonZeroize s := rfl
theorem exec_aonPowerCycle (s : State) : exec .aonPowerCycle s = execAonPowerCycle s := rfl
theorem exec_aonWake (s : State) : exec .aonWake s = execAonWake s := rfl
theorem exec_wake (src : Option Nat) (s : State) : exec (.wake src) s = execWake src s := rfl
theorem exec_vidAck (s : State) : exec .vidAck s = execVidAck s := rfl
theorem exec_powerState (q : Nat) (s : State) : exec (.powerState q) s = runCommand 0x46 q powerStateEff s := rfl
theorem exec_powerLoss (s : State) : exec .powerLoss s = .next (settle (powerLoss s)) := rfl

/-- The island's start from a readable OTP. -/
theorem aonStart_of_readable {s : State} (hread : (decodeOtp s.otp).state ≠ lcUnreadable)
    (hvoid : (decodeOtp s.otp).voidPending = false) : aonStart s =
      putDecode { s with aon := { up := true, out := s.aon.out }, lcc := { state := (decodeOtp s.otp).state } } (decodeOtp s.otp) := by
  simp only [aonStart]
  rw [if_neg hread, if_neg (by simp [hvoid])]

theorem faultRecordAnswer_of_no_key {s : State} (h : s.aon.deviceKey = none) (nonce : BitVec 256) :
    faultRecordAnswer s nonce = aonRespond s 0x02 0x01 (s.frs.record ++ zeros 96 ++ zeros 3312) := by
  simp only [faultRecordAnswer, h]

/-- A sleeping rail with nothing under way is asked for the code of B0. -/
theorem takeWake_of_asleep {s : State} (hentry : s.pwr.entry = none) (hwaking : s.pwr.waking = none) (hcurrent : s.pwr.current ≠ 0)
    (hentering : s.pwr.entering = none) (n : Nat) :
    takeWake s n = { s with pwr := { s.pwr with waking := some n, vidReq := some (vidCode s 0) } } := by
  simp only [takeWake, hentry, hwaking, hentering, Option.isSome_none, Option.isNone_none, Bool.false_eq_true, if_false, hcurrent,
    false_and, or_self]
  rfl

theorem wake_of_enabled {s : State} {src : Nat} (h : mayWake s src = true) :
    wake s (some src) = takeWake { s with bec := { s.bec with latched := mark s.bec.latched src true } } src := if_pos h

/-- The rail's acknowledgement of an entry. -/
theorem vidAck_of_entering {s : State} {v : BitVec 8} {n : Nat} (hreq : s.pwr.vidReq = some v) (hentering : s.pwr.entering = some n)
    (hwaking : s.pwr.waking = none) : (vidAck s).pwr.vid = v ∧ (vidAck s).pwr.current = n ∧ (vidAck s).pwr.last = n ∧
      (vidAck s).pwr.entering = none ∧ (vidAck s).pwr.vidReq = none := by
  simp only [vidAck, hreq, hentering, hwaking, Option.isSome_none, Bool.false_eq_true, if_false, drawNat, and_self]

/-! ### POWER_STATE (R440, R441) -/

section PowerState
variable {u : State} {c : Started} {n id : Nat} (hn : n = fld (wd c.words 8) 1 0)
include hn

omit hn in
theorem powerStateEff_of_dry (hdry : inDry u = true) : powerStateEff id c u = .done .rejected 0x02 0 u := if_pos hdry

section Awake
variable (hdry : inDry u = false)
include hdry

theorem powerStateEff_of_zero (h : n = 0) : powerStateEff id c u = .done .ok 0 0 u := by
  subst hn
  simp only [powerStateEff]
  rw [if_neg (by simp [hdry]), if_pos h]; rfl

theorem powerStateEff_of_not_admitted (h : n = 3) (hadmits : lcAdmits u maskPFS = false) :
    powerStateEff id c u = .done .rejected 0x04 0 u := by
  subst hn
  simp only [powerStateEff]
  rw [if_neg (by simp [hdry]), if_neg (by omega), if_pos ⟨h, by simp [hadmits]⟩]; rfl

section Admitted
variable (h : n = 1 ∨ n = 2 ∨ (n = 3 ∧ lcAdmits u maskPFS = true))
include h

theorem powerStateEff_of_flash_write (hjob : u.cfg.job.isSome = true) : powerStateEff id c u = .done .rejected 0x03 0 u := by
  subst hn
  have hadmitted : ¬ (fld (wd c.words 8) 1 0 = 3 ∧ (!lcAdmits u maskPFS) = true) := by
    rintro ⟨h3, hno⟩; rcases h with h | h | ⟨-, h⟩
    · omega
    · omega
    · simp [h] at hno
  simp only [powerStateEff]
  rw [if_neg (by simp [hdry]), if_neg (by omega), if_neg hadmitted, if_pos hjob]; rfl

theorem powerStateEff_of_entry (hjob : u.cfg.job = none) : powerStateEff id c u =
    .wait (.wakeUp n) (let y := if n = 3 then endGrant u else u
      { y with pwr := { y.pwr with entry := some { cmd := id, target := n, since := y.time } } }) := by
  subst hn
  have hadmitted : ¬ (fld (wd c.words 8) 1 0 = 3 ∧ (!lcAdmits u maskPFS) = true) := by
    rintro ⟨h3, hno⟩; rcases h with h | h | ⟨-, h⟩
    · omega
    · omega
    · simp [h] at hno
  simp only [powerStateEff]
  rw [if_neg (by simp [hdry]), if_neg (by omega), if_neg hadmitted, if_neg (by simp [hjob])]

end Admitted
end Awake
end PowerState

/-! ### Power loss (R444) -/

theorem updCopy_eq (s : State) (c : Fin 3) (f : LcCopy → LcCopy) : ∃ o, updCopy s c f = { s with otp := o } :=
  match c with
  | 0 => ⟨_, rfl⟩
  | 1 => ⟨_, rfl⟩
  | 2 => ⟨_, rfl⟩

theorem programWord_eq (s : State) (w : OtpWord) (mask : BitVec 32) : ∃ o, programWord s w mask = { s with otp := o } := by
  cases w with
  | start | done | code | voidStart | voidDone => simpa only [programWord] using updCopy_eq s _ _
  | root k i v =>
    match k with
    | 0 => exact ⟨_, rfl⟩
    | 1 => exact ⟨_, rfl⟩
    | 2 => exact ⟨_, rfl⟩
  | serial | ownerDigest | tokenDigest | compare | clearTenants => exact ⟨_, rfl⟩

/-- Power loss leaves the flash and the queue of commands; a word being programmed may be left half programmed. -/
theorem powerLoss_frame (s : State) : (powerLoss s).up = false ∧ (powerLoss s).aon.up = false ∧ (powerLoss s).mpes = [] ∧
    (powerLoss s).ports = [] ∧ (s.lcc.target = none → (powerLoss s).otp = s.otp) ∧ (powerLoss s).cfg.flash = s.cfg.flash ∧
    (powerLoss s).pending = s.pending := by
  unfold powerLoss
  dsimp only [drawNat]
  split
  case h_1 a w rest htarget hprog =>
    obtain ⟨o, ho⟩ := programWord_eq { s with draws := s.draws + 1 } w (BitVec.ofNat 32 (Config.freeNat s.draws))
    rw [ho]
    exact ⟨rfl, rfl, rfl, rfl, fun hnone => by simp [hnone] at htarget, rfl, rfl⟩
  case h_2 => exact ⟨rfl, rfl, rfl, rfl, fun _ => rfl, rfl, rfl⟩

/-- Settles O53: each event passes its guard, and its function's lemma says what it does. -/
theorem islandAndPower : Obligations.IslandAndPower := by
  intro s u q n c nonce
  refine ⟨fun hdown hread hvoid => ?start, fun hup => ?again, fun fails hup hblock => ?block,
    fun hup => ⟨?status, fun hkey => ?record, ?zeroize, ?cycle, fun hentry hwaking hcurrent hentering => ?aonWake⟩,
    fun src hup hasleep hmay hentry hwaking hcurrent hentering => ?wake, fun v hup hreq hentering hwaking => ?ack, fun celsius => rfl,
    fun hbegin hn => ⟨fun hdry => ?dry, fun hdry hzero => ?zero, fun hdry h3 hadmits => ?shut, fun hdry h hjob => ?flash,
      fun hdry h hjob => ?enter, fun y hdry h3 hadmits hjob hy => ?deep⟩, ⟨_, exec_powerLoss s, powerLoss_frame s⟩⟩
  case start =>
    have hexec : exec .aonStart s = .next (settle (aonStart s)) := by
      rw [exec_aonStart, execAonStart, if_neg (by simp [hdown])]
    rw [aonStart_of_readable hread hvoid] at hexec
    exact ⟨_, hexec, rfl, rfl, rfl, rfl⟩
  case again => rw [exec_aonStart, execAonStart, if_pos hup]
  case block => rw [exec_blockStart, execBlockStart, if_pos ⟨hup, hblock.imp_left fun h => by simp [h]⟩]
  case status => rw [exec_aonStatus, execAonStatus, if_pos hup]
  case record => rw [exec_aonFaultRecord, execAonFaultRecord, if_pos hup, faultRecordAnswer_of_no_key hkey]
  case zeroize => rw [exec_aonZeroize, execAonZeroize, if_pos hup]
  case cycle => rw [exec_aonPowerCycle, execAonPowerCycle, if_pos hup]
  case aonWake =>
    rw [exec_aonWake, execAonWake, if_pos hup,
      takeWake_of_asleep (s := aonRespond s 0x05 0x00 []) hentry hwaking hcurrent hentering noSource]
    rfl
  case wake =>
    have hexec : exec (.wake (some src)) s = .next (settleAll (wake s (some src))) := by
      rw [exec_wake, execWake, if_pos ⟨hup, hasleep⟩]
    rw [wake_of_enabled hmay, takeWake_of_asleep (s := { s with bec := { s.bec with latched := mark s.bec.latched src true } })
      hentry hwaking hcurrent hentering] at hexec
    exact ⟨_, hexec, rfl, rfl, rfl, rfl⟩
  case ack =>
    exact ⟨_, by rw [exec_vidAck, execVidAck, if_pos ⟨hup, by simp [hreq]⟩], vidAck_of_entering hreq hentering hwaking⟩
  case dry => exact runCommand_done hbegin powerStateEff (powerStateEff_of_dry hdry)
  case zero => exact runCommand_done hbegin powerStateEff (powerStateEff_of_zero hn hdry hzero)
  case shut => exact runCommand_done hbegin powerStateEff (powerStateEff_of_not_admitted hn hdry h3 hadmits)
  case flash => exact runCommand_done hbegin powerStateEff (powerStateEff_of_flash_write hn hdry h hjob)
  case enter =>
    refine runCommand_wait hbegin powerStateEff ?_
    rw [powerStateEff_of_entry hn hdry (by omega) hjob, if_neg (by omega)]
  case deep =>
    subst hy
    refine runCommand_wait hbegin powerStateEff ?_
    rw [powerStateEff_of_entry hn hdry (.inr (.inr ⟨h3, hadmits⟩)) hjob, if_pos h3]

end Sys2Proof.Machine

/-! ## O54: the idle step -/

namespace Sys2Proof.Machine
open Sys2Proof

theorem step_of_no_command {s : State} (h : s.pending = []) : step s = .next (idleBlock s) := by
  simp only [step, h]

theorem idle_of_running {s : State} (h : running s = true) :
    idle s = settleAll (flashTick (endJob (endRung1 (releaseHolds (tick s))))) := if_pos h

theorem idle_of_not_running {s : State} (h : ¬ running s = true) : idle s = tick s := if_neg h

theorem time_tick_of_running {s : State} (h : running s = true) : (tick s).time = s.time + 1 := by
  simp only [tick, h, if_true]
  split <;> rfl

/-- Where the hub does not run, only the island's time goes on. -/
theorem tick_of_not_running {s : State} (h : ¬ running s = true) :
    (tick s).time = s.time ∧ (tick s).sessions = s.sessions ∧ (tick s).hubMem = s.hubMem := by
  simp only [tick, if_neg h]
  split <;> exact ⟨rfl, rfl, rfl⟩

/-- Settles O54: the idle step is the model's `idleBlock`, and its two cases are those of `idle` and `tick`. -/
theorem idleStep : Obligations.IdleStep := by
  intro s hpending
  refine ⟨step_of_no_command hpending, fun hrun => ⟨idle_of_running hrun, time_tick_of_running hrun⟩, fun hrun => ?_⟩
  have hstopped : ¬ running s = true := by simp [hrun]
  exact ⟨idle_of_not_running hstopped, tick_of_not_running hstopped⟩

end Sys2Proof.Machine

/-! ## O56: life-cycle transitions and debug grants -/

namespace Sys2Proof.Machine
open Sys2Proof

theorem exec_lcTransition (q : Nat) (s : State) : exec (.lcTransition q) s = runCommand 0x40 q lcTransitionEff s := rfl
theorem exec_lccPlainProbeClosed (w : World) (s : State) : exec (.lccPlainProbeClosed w) s = execLccPlainProbeClosed w s := rfl
theorem exec_lccPlainVoid (w : World) (s : State) : exec (.lccPlainVoid w) s = execLccPlainVoid w s := rfl
theorem exec_otpWordProgrammed (s : State) : exec .otpWordProgrammed s = execOtpWordProgrammed s := rfl
theorem exec_lcDecode (s : State) : exec .lcDecode s = execLcDecode s := rfl
theorem exec_debugAuth (q : Nat) (s : State) : exec (.debugAuth q) s = runCommand 0x41 q debugAuthEff s := rfl
theorem exec_revoke (w : World) (s : State) : exec (.revoke w) s = execRevoke w s := rfl
theorem exec_grantExpiry (s : State) : exec .grantExpiry s = execGrantExpiry s := rfl
theorem exec_debugDoorbell (w : World) (v : BitVec 32) (s : State) : exec (.debugDoorbell w v) s = execDebugDoorbell w v s := rfl

/-! ### Transitions (R367 to R369, R373) -/

theorem lcTransitionEff_plain {u : State} {c : Started} {target id : Nat} (ht : target = fld (wd c.words 8) 3 0)
    (hno : wd2 c.words 9 = 0) (hnone : u.lcc.target = none) (hok : plainRefusal u target = none) :
    lcTransitionEff id c u = .wait .lifeCycle (beginPlain u target) := by
  subst ht
  simp only [lcTransitionEff]
  rw [if_neg (by simp [hnone]), if_pos hno, hok]

theorem lcTransitionEff_again {u : State} {c : Started} {target id : Nat} (ht : target = fld (wd c.words 8) 3 0)
    (hsame : u.lcc.target = some target) : lcTransitionEff id c u = .done .busy 0 0 u := by
  subst ht
  simp only [lcTransitionEff, hsame]
  exact if_pos ⟨rfl, fun ⟨hvoid, hne⟩ => hne (congrArg some hvoid)⟩

/-- LCC_PLAIN by a world that may write it, with no transition running. -/
theorem lccPlain_of_allowed {s : State} {w : World} {target : Nat} (hnone : s.lcc.target = none) (hw : plainWorld s w = true)
    (hok : plainRefusal s target = none) : lccPlain s w target = beginPlain s target := by
  simp only [lccPlain]
  rw [if_neg (by simp [hnone]), if_neg (by simp [hw]), hok]

theorem lcAdvance_of_word {s : State} {target : Nat} {y : OtpWord} {rest : List OtpWord} (hprog : s.lcc.prog = y :: rest)
    (hy : y ≠ .compare) : lcAdvance s target = s := by
  simp [lcAdvance, hprog, hy]

/-- The word in progress is programmed, and the next begins. -/
theorem otpWordProgrammed_of_word {s : State} {target : Nat} {x y : OtpWord} {rest : List OtpWord}
    (htarget : s.lcc.target = some target) (hprog : s.lcc.prog = x :: y :: rest) (hx : x ≠ .clearTenants) (hy : y ≠ .compare) :
    otpWordProgrammed s = { programWord s x 0xFFFFFFFF with
      lcc := { (programWord s x 0xFFFFFFFF).lcc with prog := y :: rest } } := by
  obtain ⟨o, ho⟩ := programWord_eq s x 0xFFFFFFFF
  simp only [otpWordProgrammed, htarget, hprog]
  rw [if_neg hx, lcAdvance_of_word (y := y) (rest := rest) rfl hy]
  simp only [ho, htarget]

theorem lcDecode_of_same {s : State} (hsame : (decodeOtp s.otp).state = s.lcc.state) (hread : s.lcc.state ≠ lcUnreadable) :
    lcDecode s = putDecode s (decodeOtp s.otp) := by
  simp only [lcDecode]
  refine if_neg ?_
  rintro (h | h)
  · exact hread (hsame.symm.trans h)
  · exact h hsame

/-! ### Debug grants (R374 to R379) -/

section DebugAuth
variable {u v : State} {c : Started} {b : Bytes} {i j id : Nat} (hdrbg : noEntropy u = false)
  (hspace : spaceCheck (viaPf (sessionOf u c)) (some (defaultSpace (viaPf (sessionOf u c)))) (wd2 c.words 8).toNat 8512 = none)
  (hread : readSpace u (viaPf (sessionOf u c)) (defaultSpace (viaPf (sessionOf u c))) (wd2 c.words 8) 8512 = (v, some b))
  (hcert : certFailure v b = none) (hi : freeIndex v .session = some i) (hj : freeIndex v .queue = some j)
include hdrbg hspace hread hcert hi hj

/-- A certificate that passes opens the grant's session. -/
theorem debugAuthEff_of_good : debugAuthEff id c u = .done .ok 0
    (handle (grantNow v (viaPf (sessionOf u c)).world b i j) ⟨.session, i⟩) (newNonce (grantNow v (viaPf (sessionOf u c)).world b i j)) := by
  simp only [debugAuthEff, hdrbg, Bool.false_eq_true, if_false, debugAuthCheck, hspace, hread, hcert, hi, hj,
    Eff.result]

end DebugAuth

theorem grant_endGrant (s : State) : (endGrant s).dbg.grant = none := by
  unfold endGrant
  split
  case h_1 h => exact h
  case h_2 => rfl

/-- The DEBUG world's doorbell at the queue of the grant's session. -/
theorem debugDoorbell_of_grant {s : State} {g : Grant} {j : Nat} (hgrant : s.dbg.grant = some g)
    (hq : (queuesOf s g.session).head? = some j) (v : BitVec 32) : debugDoorbell s .debug v =
      { s with queues := tupd s.queues j fun x => { x with tail := fld v 31 16 % 16 } } := by
  simp only [debugDoorbell, hgrant, hq, ne_eq, not_true_eq_false, if_false]

theorem debugDoorbell_of_other {s : State} {w : World} (h : w ≠ .debug ∨ s.dbg.grant = none) (v : BitVec 32) :
    debugDoorbell s w v = s := by
  unfold debugDoorbell
  split
  case h_1 => rfl
  case h_2 g hgrant => exact if_pos (h.resolve_right (by simp [hgrant]))

/-- Settles O56: each row's guard holds, and the row's own lemma says what it does. -/
theorem lifeCycleAndGrant : Obligations.LifeCycleAndGrant := by
  intro s u q target c w v
  refine ⟨fun hbegin ht hno hnone hok => runCommand_wait hbegin lcTransitionEff (lcTransitionEff_plain ht hno hnone hok),
    fun hbegin ht hsame => runCommand_done hbegin lcTransitionEff (lcTransitionEff_again ht hsame),
    fun hrun hnone hw hok => ?probe, fun hrun hnone hw hok => ?void, fun x y rest hup htarget hprog hx hy => ?word,
    fun hup hnone hsame hread => ?decode,
    fun v b i j hbegin hdrbg hspace hread hcert hi hj =>
      runCommand_done hbegin debugAuthEff (debugAuthEff_of_good hdrbg hspace hread hcert hi hj),
    fun hup => ?revoke, fun hrun => ⟨?expiry, grant_endGrant s⟩, fun g j hup hgrant hq => ?ring, fun hup hother => ?otherRing⟩
  case probe =>
    rw [exec_lccPlainProbeClosed, execLccPlainProbeClosed, if_pos hrun, lccPlain_of_allowed hnone hw hok]
    rfl
  case void =>
    rw [exec_lccPlainVoid, execLccPlainVoid, if_pos hrun, lccPlain_of_allowed hnone hw hok]
    rfl
  case word =>
    rw [exec_otpWordProgrammed, execOtpWordProgrammed, if_pos hup, otpWordProgrammed_of_word htarget hprog hx hy]
  case decode => rw [exec_lcDecode, execLcDecode, if_pos ⟨hup, by simp [hnone]⟩, lcDecode_of_same hsame hread]
  case revoke =>
    simp only [exec_revoke, execRevoke, if_pos hup]
    exact ⟨rfl, rfl, rfl⟩
  case expiry => rw [exec_grantExpiry, execGrantExpiry, if_pos hrun]
  case ring => rw [exec_debugDoorbell, execDebugDoorbell, if_pos hup, debugDoorbell_of_grant hgrant hq]
  case otherRing => rw [exec_debugDoorbell, execDebugDoorbell, if_pos hup, debugDoorbell_of_other hother]

end Sys2Proof.Machine

/-! ## O57: stops, watches and configuration writes -/

namespace Sys2Proof.Machine
open Sys2Proof

theorem exec_globalStop (q : Nat) (s : State) : exec (.globalStop q) s = runCommand 0x42 q globalStopEff s := rfl
theorem exec_stopFlit (p : Nat) (f : Bytes) (s : State) : exec (.stopFlit p f) s = execStopFlit p f s := rfl
theorem exec_resume (s : State) : exec .resume s = execResume s := rfl
theorem exec_scan (s : State) : exec .scan s = execScan s := rfl
theorem exec_stopCtrlReset (s : State) : exec .stopCtrlReset s = execStopCtrlReset s := rfl
theorem exec_tensorWatch (q : Nat) (s : State) : exec (.tensorWatch q) s = runCommand 0x43 q tensorWatchEff s := rfl
theorem exec_configUpdate (q : Nat) (s : State) : exec (.configUpdate q) s = runCommand 0x44 q configUpdateEff s := rfl
theorem exec_trimWrite (q : Nat) (s : State) : exec (.trimWrite q) s = runCommand 0x45 q trimWriteEff s := rfl

/-! ### Global stop (R380 to R384) -/

theorem globalStopEff_of_no_domain {u : State} {c : Started} {g : Grant} {id : Nat} (hgrant : u.dbg.grant = some g)
    (hlevel : g.levels.getLsbD levelStop = true) (hstop : u.dbg.stop = .running) (hdomain : g.stopDomain = 0) :
    globalStopEff id c u = .done .ok 0 0 { u with dbg := { u.dbg with stop := .stopped } } := by
  have hgood : globalStopEff id c u = .good (stopNow u) := by
    simp only [globalStopEff, hgrant]
    rw [if_neg (by simp [hlevel]), if_neg (by simp [hstop]), if_pos hdomain]
  exact hgood

theorem globalStopEff_of_no_grant {u : State} {c : Started} {id : Nat} (hgrant : u.dbg.grant = none) :
    globalStopEff id c u = .done .rejected 0x05 0 u := by
  simp only [globalStopEff, hgrant, Eff.reject]

/-- STOP flits go out over the ports, and change nothing else. -/
theorem sendStops_eq (s : State) (but : Option Nat) (domain seq hops : Nat) :
    { sendStops s but domain seq hops with ports := s.ports } = s := by
  have hkeeps : ({ sendStops s but domain seq hops with ports := [] } : State) = { s with ports := [] } :=
    foldl_keeps (g := fun t : State => ({ t with ports := [] } : State)) (fun t e => by split <;> rfl) _ s
  exact (congrArg (fun t : State => { t with ports := s.ports }) hkeeps :)

theorem dbg_sendStops (s : State) (but : Option Nat) (domain seq hops : Nat) : (sendStops s but domain seq hops).dbg = s.dbg :=
  (congrArg State.dbg (sendStops_eq s but domain seq hops) :)

theorem stopFlit_of_no_grant {s : State} (h : s.dbg.grant = none) (f : Bytes) : stopFlit s f = s := by
  simp only [stopFlit, h]

/-- A STOP flit of the grant's domain, not seen before and with hops left. -/
theorem stopFlit_of_domain {s : State} {g : Grant} {f : Bytes} (hgrant : s.dbg.grant = some g)
    (hlevel : g.levels.getLsbD levelStop = true) (hdomain : g.stopDomain.toNat = leField f 16 4) (hzero : leField f 16 4 ≠ 0)
    (hseen : s.dbg.seen.contains (BitVec.ofNat 32 (leField f 20 4)) = false) (hhops : leField f 24 1 < 15) :
    ∃ t, t = sendStops s (some (leField f 2 2)) (leField f 16 4) (leField f 20 4) (leField f 24 1 + 1) ∧
      stopFlit s f = stopNow { t with dbg := { t.dbg with seen := t.dbg.seen ++ [BitVec.ofNat 32 (leField f 20 4)] } } := by
  refine ⟨_, rfl, ?_⟩
  simp only [stopFlit, hgrant]
  exact if_pos ⟨hlevel, hdomain, hzero, by simp only [hseen, Bool.not_false], hhops⟩

/-- A scan destroys every slot and every accord's key context. -/
theorem scanNow_destroys (s : State) : (scanNow s).dbg.stop = .scanned ∧ (scanNow s).slots = [] ∧
    ∀ a, (getAccord (scanNow s) a).ctx = none := by
  have hctx : ∀ (t : Tab Accord) a, (tgetD (tmap t fun _ x => { x with ctx := none }) a {}).ctx = none := fun t a => by
    induction t with
    | nil => rfl
    | cons e t ih =>
      by_cases he : e.1 = a
      · simp [tgetD, tget, tmap, he]
      · simpa [tgetD, tget, tmap, he] using ih
  refine ⟨rfl, ?_, fun a => ?_⟩
  · simp only [scanNow]; split <;> rfl
  · refine Eq.trans (congrArg (fun t : Tab Accord => (tgetD t a {}).ctx) ?_) (hctx s.accords a)
    simp only [scanNow]; split <;> rfl

/-! ### Watches and slot writes (R385, R89 to R93) -/

theorem tensorWatchEff_of_tenant {u : State} {c : Started} {g : Grant} {a id : Nat} {r : Region} (hgrant : u.dbg.grant = some g)
    (hlevel : g.levels.getLsbD levelWatch = true) (hregion : watchRegion u c = some (a, r)) (ha : 2 ≤ a)
    (hgid : gidOf u a = g.watchGid) (hfence : watchFenceOk u a = true) :
    tensorWatchEff id c u = .wait .watch { u with dbg := { u.dbg with chunks := 0 } } := by
  simp only [tensorWatchEff, hgrant, hlevel, hregion, Bool.not_true, Bool.false_eq_true, if_false]
  exact if_neg (by simp [hgid, hfence]; omega)

/-- The slot write that CONFIG_UPDATE begins. -/
def updateJob (x : State) (id : Nat) (h b : Bytes) : FlashJob :=
  { cmd := id, slotB := !x.cfg.selected, header := withSeq h (usedSeq x + 1), body := b }

/-- The slot write that TRIM_WRITE begins: the image goes out twice, so that both slots hold the trims. -/
def trimJob (v : State) (id n : Nat) (t : Bytes) : FlashJob :=
  { cmd := id, slotB := !v.cfg.selected, header := withSeq (bslice (withTrims v t) 0 64) (n + 1)
    body := (withTrims v t).drop 64, again := some (withSeq (bslice (withTrims v t) 0 64) (n + 2)) }

section ConfigUpdate
variable {u v x : State} {c : Started} {h b : Bytes} {id : Nat} (hmay : mayWriteSlot u (sessionOf u c) = true)
  (hjob : u.cfg.job = none) (hseq : usedSeq u ≠ 0xFFFFFFFE)
  (hspace : spaceCheck (sessionOf u c) (some .hub) (wd2 c.words 8).toNat 64 = none)
  (hhead : readSpace u (sessionOf u c) .hub (wd2 c.words 8) 64 = (v, some h)) (hlo : 64 ≤ leField h 8 4)
  (hhi : leField h 8 4 ≤ slotSize) (hspace2 : spaceCheck (sessionOf u c) (some .hub) (wd2 c.words 8).toNat (leField h 8 4) = none)
  (hbody : readSpace v (sessionOf u c) .hub (wd2 c.words 8 + 64) (leField h 8 4 - 64) = (x, some b))
include hmay hjob hseq hspace hhead hlo hhi hspace2 hbody

/-- CONFIG_UPDATE of a readable image that fits the slot. -/
theorem configUpdateEff_of_image : configUpdateEff id c u =
    .wait .configWrite { x with cfg := { x.cfg with job := some (updateJob x id h b) } } := by
  have hlen : ¬ (leField h 8 4 < 64 ∨ slotSize < leField h 8 4) := by omega
  simp only [configUpdateEff, hmay, hjob, hspace, hhead, hspace2, hbody, Option.isSome_none, Bool.not_true, Bool.false_eq_true,
    if_false, if_neg hseq, if_neg hlen, updateJob]

end ConfigUpdate

section TrimWrite
variable {u v : State} {c : Started} {t : Bytes} {id : Nat} (hjob : u.cfg.job = none) (hseq : usedSeq u < 0xFFFFFFFD)
  (hspace : spaceCheck (sessionOf u c) (some .hub) (wd2 c.words 8).toNat 48 = none)
  (hread : readSpace u (sessionOf u c) .hub (wd2 c.words 8) 48 = (v, some t))
include hjob hseq hspace hread

/-- TRIM_WRITE of readable trims. -/
theorem trimWriteEff_of_trims : trimWriteEff id c u =
    .wait .configWrite { v with cfg := { v.cfg with job := some (trimJob v id (usedSeq u) t) } } := by
  have hroom : ¬ usedSeq u ≥ 0xFFFFFFFD := by omega
  simp only [trimWriteEff, hjob, hspace, hread, Option.isSome_none, Bool.false_eq_true, if_false, if_neg hroom, trimJob]

end TrimWrite

/-- Settles O57: each row's guard holds, and the row's own lemma says what it does. -/
theorem stopWatchAndConfig : Obligations.StopWatchAndConfig := by
  intro s u q p c g f
  refine ⟨fun hbegin hgrant hlevel hstop hdomain =>
      runCommand_done hbegin globalStopEff (globalStopEff_of_no_domain hgrant hlevel hstop hdomain),
    fun hbegin hgrant => runCommand_done hbegin globalStopEff (globalStopEff_of_no_grant hgrant),
    fun hrun hport hgrant hlevel hdomain hzero hseen hhops => ?flit, fun hrun hport hgrant => ?noGrant,
    fun hlevel hstop => ⟨?resume, ⟨_, ?scan, scanNow_destroys s⟩, ⟨_, ?reset, rfl, rfl, rfl⟩⟩,
    fun a r hbegin hgrant hlevel hregion ha hgid hfence =>
      runCommand_wait hbegin tensorWatchEff (tensorWatchEff_of_tenant hgrant hlevel hregion ha hgid hfence),
    fun v x h b hbegin hmay hjob hseq hspace hhead hlo hhi hspace2 hbody => ⟨_, runCommand_wait hbegin configUpdateEff
      (configUpdateEff_of_image hmay hjob hseq hspace hhead hlo hhi hspace2 hbody), rfl, rfl, rfl⟩,
    fun v t hbegin hjob hseq hspace hread =>
      ⟨_, runCommand_wait hbegin trimWriteEff (trimWriteEff_of_trims hjob hseq hspace hread), rfl, rfl⟩⟩
  case flit =>
    obtain ⟨t, ht, hflit⟩ := stopFlit_of_domain hgrant hlevel hdomain hzero hseen hhops
    have hframe : { t with ports := s.ports } = s := by rw [ht]; exact sendStops_eq s _ _ _ _
    have hdbg : t.dbg = s.dbg := (congrArg State.dbg hframe :)
    refine ⟨_, by rw [exec_stopFlit, execStopFlit, if_pos ⟨hrun, hport⟩], ?_⟩
    rw [hflit]
    exact ⟨rfl, congrArg (fun d : Dbg => d.seen ++ _) hdbg, (congrArg (fun y : State => { y with dbg := s.dbg }) hframe :)⟩
  case noGrant => rw [exec_stopFlit, execStopFlit, if_pos ⟨hrun, hport⟩, stopFlit_of_no_grant hgrant]
  case resume => rw [exec_resume, execResume, if_pos ⟨hlevel, hstop⟩]
  case scan => rw [exec_scan, execScan, if_pos ⟨hlevel, hstop⟩]
  case reset => rw [exec_stopCtrlReset, execStopCtrlReset, if_pos ⟨hlevel, .inl hstop⟩]

end Sys2Proof.Machine

/-! ## O58: management messages -/

namespace Sys2Proof.Machine
open Sys2Proof

theorem exec_command (ws : List Word) (s : State) : exec (.command ws) s = message (.command ws) s := rfl
theorem exec_cplRead (s : State) : exec .cplRead s = message .cplRead s := rfl
theorem exec_stageWrite (offset : BitVec 32) (d : Bytes) (s : State) :
    exec (.stageWrite offset d) s = message (.stageWrite offset d) s := rfl
theorem exec_stageRead (offset : BitVec 32) (len : BitVec 16) (s : State) :
    exec (.stageRead offset len) s = message (.stageRead offset len) s := rfl
theorem exec_regRead (so sv first : BitVec 32) (count : BitVec 8) (s : State) :
    exec (.regRead so sv first count) s = message (.regRead so sv first count) s := rfl
theorem exec_moduleReport (port : BitVec 8) (d : Bytes) (s : State) :
    exec (.moduleReport port d) s = message (.moduleReport port d) s := rfl
theorem exec_dbgAccess (offset : BitVec 32) (write : Bool) (v : BitVec 32) (s : State) :
    exec (.dbgAccess offset write v) s = execDbgAccess offset write v s := rfl
theorem exec_mgmtSessionEnd (s : State) : exec .mgmtSessionEnd s = execMgmtSessionEnd s := rfl

/-! ### When a message is handled (R398) -/

theorem message_of_not_bound {s : State} (h : s.mgmt.sec ≠ .bound) (m : Instr) : message m s = .next s := if_neg fun hb => h hb.1

section Bound
variable {s : State} (hrun : running s = true) (hbound : s.mgmt.sec = .bound) (hheld : s.mgmt.held = []) (hawaits : s.mgmt.awaits = none)
include hrun hbound hheld hawaits

/-- The only message held is handled, where the hub runs and nothing is outstanding. -/
theorem serveMessages_of_one (m : Instr) :
    serveMessages { s with mgmt := { s.mgmt with held := s.mgmt.held ++ [m] } } = fabricSettle (handleMessage s m) := by
  have hserve : serveOne { s with mgmt := { s.mgmt with held := [m] } } =
      fabricSettle (handleMessage { s with mgmt := { s.mgmt with held := [] } } m) :=
    if_pos (show (running s && s.mgmt.sec == .bound && s.mgmt.awaits.isNone) = true by simp [hrun, hbound, hawaits])
  have hsame : ({ s with mgmt := { s.mgmt with held := [] } } : State) = s := by rw [← hheld]
  rw [hheld, List.nil_append]
  exact hserve.trans (by rw [hsame])

theorem message_of_free (m : Instr) : message m s = .next (settle (applyFences (fabricSettle (handleMessage s m)))) := by
  have hup : s.up = true := by
    simp only [running, Bool.and_eq_true, beq_iff_eq] at hrun; exact hrun.1.1.1
  rw [message, if_pos ⟨hbound, hup⟩, serveMessages_of_one hrun hbound hheld hawaits]

/-- In a running hub the debug unit serves no message apart. -/
theorem execDbgAccess_of_free (offset : BitVec 32) (write : Bool) (v : BitVec 32) : execDbgAccess offset write v s =
    .next (settle (applyFences (fabricSettle (dbgAccessMessage s offset write v)))) := by
  have hstop : s.dbg.stop = .running := by
    simp only [running, Bool.and_eq_true, beq_iff_eq] at hrun; exact hrun.2
  rw [execDbgAccess, if_neg fun h => h.2.2 hstop, message_of_free hrun hbound hheld hawaits]
  rfl

end Bound

/-! ### What each message does (R399 to R401) -/

theorem stageWriteMessage_of_fits {s : State} {offset : BitVec 32} {d : Bytes} (hdry : inDry s = false)
    (hfits : stagingFits offset.toNat d.length = true) : stageWriteMessage s offset d =
      answerMgmt { s with hubMem := memWriteBytes s.hubMem 0 (0x80000000 + offset.toNat) d } 0x00 [] := by
  simp only [stageWriteMessage, hdry, Bool.false_eq_true, if_false]
  exact if_pos hfits

theorem stageWriteMessage_of_outside {s : State} {offset : BitVec 32} {d : Bytes} (hdry : inDry s = false)
    (hfits : stagingFits offset.toNat d.length = false) : stageWriteMessage s offset d = answerMgmt s 0x02 [] := by
  simp only [stageWriteMessage, hdry, hfits, Bool.false_eq_true, if_false, mgmtRange]

theorem stageReadMessage_of_fits {s : State} {offset : BitVec 32} {len : BitVec 16} (hdry : inDry s = false)
    (hfits : stagingFits offset.toNat len.toNat = true) : stageReadMessage s offset len =
      answerMgmt s 0x00 (memReadBytes s.hubMem 0 (0x80000000 + offset.toNat) len.toNat) := by
  simp only [stageReadMessage, hdry, Bool.false_eq_true, if_false]
  exact if_pos hfits

/-- Open registers read without a selection. -/
theorem regReadMessage_of_open {s v : State} {first : BitVec 32} {count : BitVec 8} {b : Bytes} (hlo : 1 ≤ count.toNat)
    (hhi : count.toNat ≤ 16) (hopen : (List.range count.toNat).all (fun i => openReg (first.toNat + 4 * i)) = true)
    (hread : readRegs s first.toNat count.toNat = (v, b)) : regReadMessage s 0 0 first count = answerMgmt v 0x00 b := by
  simp only [regReadMessage]
  rw [if_neg (by omega), if_neg (by simp)]
  simp only [if_true, hopen, hread, mgmtOk]

theorem moduleReportMessage_of_port {s : State} {port : BitVec 8} {d : Bytes} (hlen : d.length = 61) (hport : port.toNat < 32)
    (hstate : (getPort s port.toNat).state = .unidentified ∨ (getPort s port.toNat).state = .up) :
    moduleReportMessage s port d = answerMgmt (reportModule s port.toNat (moduleIdOf d)) 0x00 [] := by
  simp only [moduleReportMessage]
  rw [if_neg (by simp [hlen]), if_pos ⟨hport, hstate⟩]
  rfl

theorem dbgAccessMessage_of_no_grant {s : State} (h : mayAperture s .mgmt = false) (offset : BitVec 32) (write : Bool) (v : BitVec 32) :
    dbgAccessMessage s offset write v = answerMgmt s 0x03 [] := if_pos (by simp [h])

theorem dbgAccessMessage_of_write {s : State} (h : mayAperture s .mgmt = true) (offset v : BitVec 32) :
    dbgAccessMessage s offset true v =
      answerMgmt (apertureWrite { s with dbg := { s.dbg with winAddr := offset &&& 0x00FFFFFC } } v) 0x00 [] := by
  simp only [dbgAccessMessage]
  rw [if_neg (by simp [h]), if_pos trivial]
  rfl

/-- A COMMAND takes the next slot of queue 1. -/
theorem commandMessage_of_room {s : State} {x : Queue} {ws : List Word} (hdry : inDry s = false) (hx : tget s.queues 1 = some x)
    (hunread : s.mgmt.unread.length < 64) (hroom : (x.tail + 1) % 2 ^ x.log2 ≠ x.head) : commandMessage s ws =
      { s with queues := tset s.queues 1 { x with slots := tset x.slots x.tail ((List.range 16).map (wd ws))
                                                  tail := (x.tail + 1) % 2 ^ x.log2 }
               mgmt := { s.mgmt with awaits := some (x.tail, s.time) } } := by
  simp only [commandMessage, hdry, hx]
  rw [if_neg (by simp), if_neg (by simp [hroom]; omega)]

/-- Settles O58: a free message is handled at once, and each handler's lemma says what it does. -/
theorem managementMessages : Obligations.ManagementMessages := by
  intro s offset d len ws
  refine ⟨fun hrun hbound hheld hawaits => ?handled,
    fun h => ⟨(exec_command ws s).trans (message_of_not_bound h _), (exec_stageWrite offset d s).trans (message_of_not_bound h _)⟩,
    fun h => ⟨endMgmtSession s, ?ended, rfl, rfl, rfl, rfl, rfl⟩⟩
  case handled =>
    have hfree := message_of_free hrun hbound hheld hawaits
    have hdbg := execDbgAccess_of_free hrun hbound hheld hawaits
    refine ⟨?_, fun hdry hfits => ?_, fun hdry hfits => ?_, fun hdry hfits => ?_, fun first count v b hlo hhi hopen hread => ?_,
      fun port hlen hport hstate => ?_, fun v hmay => ?_, fun v hmay => ?_, fun x hdry hx hunread hroom => ?_⟩
    · rw [exec_cplRead, hfree]; rfl
    · rw [exec_stageWrite, hfree, handleMessage, stageWriteMessage_of_fits hdry hfits]
    · rw [exec_stageWrite, hfree, handleMessage, stageWriteMessage_of_outside hdry hfits]
    · rw [exec_stageRead, hfree, handleMessage, stageReadMessage_of_fits hdry hfits]
    · rw [exec_regRead, hfree, handleMessage, regReadMessage_of_open hlo hhi hopen hread]
    · rw [exec_moduleReport, hfree, handleMessage, moduleReportMessage_of_port hlen hport hstate]
    · rw [exec_dbgAccess, hdbg, dbgAccessMessage_of_no_grant hmay]
    · rw [exec_dbgAccess, hdbg, dbgAccessMessage_of_write hmay]
    · rw [exec_command, hfree, handleMessage, commandMessage_of_room hdry hx hunread hroom]
  case ended => rw [exec_mgmtSessionEnd, execMgmtSessionEnd, if_neg h]

end Sys2Proof.Machine

/-! ## O59: attestation over PCIe and I3C -/

namespace Sys2Proof.Machine
open Sys2Proof

theorem exec_getVersion (t : Transport) (s : State) : exec (.getVersion t) s = execGetVersion t s := rfl
theorem exec_getCapabilities (t : Transport) (s : State) :
    exec (.getCapabilities t) s = serveOrTake t 2 0x61 (Config.spdmMessage 0xE1 []) (capabilitiesRequest t) s := rfl
theorem exec_negotiateAlgorithms (t : Transport) (s : State) :
    exec (.negotiateAlgorithms t) s = serveOrTake t 3 0x63 (Config.spdmMessage 0xE3 []) (algorithmsRequest t) s := rfl
theorem exec_getDigests (t : Transport) (s : State) :
    exec (.getDigests t) s = serveOrTake t 4 0x01 (Config.spdmMessage 0x81 []) (digestsRequest t) s := rfl
theorem exec_getCertificate (t : Transport) (slot : BitVec 8) (offset length : BitVec 16) (s : State) :
    exec (.getCertificate t slot offset length) s = execGetCertificate t slot offset length s := rfl
theorem exec_challenge (t : Transport) (nonce : BitVec 256) (s : State) : exec (.challenge t nonce) s = execChallenge t nonce s := rfl
theorem exec_getMeasurements (t : Transport) (index : BitVec 8) (signed : Bool) (nonce : BitVec 256) (s : State) :
    exec (.getMeasurements t index signed nonce) s = execGetMeasurements t index signed nonce s := rfl
theorem exec_getPqChain (t : Transport) (r : Bytes) (s : State) :
    exec (.getPqChain t r) s = serveRequest t (vendorMessage 0x0001 []) (pqChainRequest t r) s := rfl
theorem exec_getPqSignature (t : Transport) (s : State) :
    exec (.getPqSignature t) s = serveRequest t (vendorMessage 0x0002 []) (pqSignatureRequest t) s := rfl
theorem exec_getAccordCert (t : Transport) (gid : BitVec 32) (s : State) :
    exec (.getAccordCert t gid) s = serveRequest t (vendorMessage 0x0003 (toLE gid.toNat 4)) (accordCertRequest t gid) s := rfl
theorem exec_accordQuote (t : Transport) (gid : BitVec 32) (nonce : BitVec 256) (s : State) :
    exec (.accordQuote t gid nonce) s = execAccordQuote t gid nonce s := rfl

/-! ### Requests on a wire -/

section Wire
variable {s : State} {t : Transport} (hrun : running s = true) (ht : t = .pcie ∨ t = .i3c)
include hrun ht

/-- A request over PCIe or I3C is served at once. -/
theorem serveRequest_of_wire (m : Bytes) (f : State → State) : serveRequest t m f s = .next (fabricSettle (f s)) := by
  unfold serveRequest
  rw [if_neg (by simp [hrun])]
  rcases ht with rfl | rfl <;> rfl

theorem serveOrTake_of_wire (step code : Nat) (m : Bytes) (f : State → State) :
    serveOrTake t step code m f s = .next (fabricSettle (f s)) := by
  refine Eq.trans ?_ (serveRequest_of_wire hrun ht m f)
  rcases ht with rfl | rfl <;> rfl

end Wire

section OnWire
variable {t : Transport} (ht : t = .pcie ∨ t = .i3c)
include ht

/-- What forgetting a pending signature keeps. -/
theorem stage_clearPending (s : State) : (getSpdm (clearPending s t) t).stage = (getSpdm s t).stage := by
  rcases ht with rfl | rfl <;> rfl

theorem fullOffer_clearPending (s : State) : fullOffer (clearPending s t) = fullOffer s := by
  rcases ht with rfl | rfl <;> rfl

theorem sec_clearPending (s : State) : (clearPending s t).mgmt.sec = s.mgmt.sec := by
  rcases ht with rfl | rfl <;> rfl

theorem afterMeasurements_of_wire (s : State) : afterMeasurements t s = s := by
  rcases ht with rfl | rfl <;> rfl

/-- The negotiation of R393, behind a request and before it. -/
theorem negotiated_of_stage {s : State} (hoffer : fullOffer s = true) (hstage : 3 ≤ (getSpdm s t).stage) (f : State → State) :
    negotiated s t f = f (clearPending s t) := by
  simp only [negotiated, fullOffer_clearPending ht, stage_clearPending ht, hoffer]
  rw [if_neg (by simp), if_neg (by omega)]

theorem negotiated_of_early {s : State} (hoffer : fullOffer s = true) (hstage : (getSpdm s t).stage < 3) (f : State → State) :
    negotiated s t f = replyError (clearPending s t) t errUnexpected := by
  simp only [negotiated, fullOffer_clearPending ht, stage_clearPending ht, hoffer]
  rw [if_neg (by simp), if_pos hstage]

/-! ### The requests (R392 to R397) -/

theorem capabilitiesRequest_of_version {s : State} (h : 1 ≤ (getSpdm s t).stage) : capabilitiesRequest t s =
    reply (setSpdm (clearPending s t) t { getSpdm (clearPending s t) t with stage := Nat.max 2 (getSpdm s t).stage })
      t 0xE1 [] 0x61 (toLE (capabilityFlags t) 4) := by
  simp only [capabilitiesRequest, stage_clearPending ht]
  exact if_neg (by omega)

theorem algorithmsRequest_of_capabilities {s : State} (h : 2 ≤ (getSpdm s t).stage) : algorithmsRequest t s =
    reply (setSpdm (clearPending s t) t { getSpdm (clearPending s t) t with stage := 3 }) t 0xE3 [] 0x63 (algorithmSelection t) := by
  simp only [algorithmsRequest, stage_clearPending ht]
  exact if_neg (by omega)

section Negotiated
variable {s v : State} (hv : v = clearPending s t) (hoffer : fullOffer s = true) (hstage : 3 ≤ (getSpdm s t).stage)
include hv hoffer hstage

theorem certificateRequest_of_portion {offset length : BitVec 16} {n : Nat} (hoff : offset.toNat < (slotChain v).length)
    (hn : n = Nat.min length.toNat ((slotChain v).length - offset.toNat)) : certificateRequest t 0 offset length s =
      reply v t 0x82 (0 :: toLE offset.toNat 2 ++ toLE length.toNat 2) 0x02
        (0 :: toLE n 2 ++ toLE ((slotChain v).length - offset.toNat - n) 2 ++ bslice (slotChain v) offset.toNat n) := by
  subst hv hn
  rw [certificateRequest, negotiated_of_stage ht hoffer hstage]
  exact if_neg (by simp; omega)

omit hoffer in
theorem measurementsRequest_of_blocks {index : BitVec 8} {nonce : BitVec 256} {n : Nat} {b : Bytes}
    (hblocks : blocksFor v index.toNat = some (n, b)) : measurementsRequest t index false nonce s =
      reply v t 0xE0 [index, 0] 0x60 (toLE n 1 ++ toLE b.length 3 ++ b) := by
  subst hv
  have hlate : ¬ (getSpdm s t).stage < 3 := by omega
  simp only [measurementsRequest, stage_clearPending ht, hblocks, Bool.false_eq_true, false_and, if_false, hlate]
  rfl

/-- Outside a new session GET_PQ_CHAIN takes no chain of the requester. -/
theorem pqChainRequest_of_no_session (hsec : s.mgmt.sec = .none) (r : Bytes) : pqChainRequest t r s =
    vendorReply v t 0x0001 [] ((slotLayers v).flatMap (layerPq v)) := by
  subst hv
  rw [pqChainRequest, negotiated_of_stage ht hoffer hstage]
  simp only [sec_clearPending ht, hsec]
  exact if_neg (by simp)

theorem accordCertRequest_of_accord {gid : BitVec 32} {a : Nat} (ha : accordByGid v gid = some a) : accordCertRequest t gid s =
    vendorReply v t 0x0003 (toLE gid.toNat 4) (accordCerts v a) := by
  subst hv
  rw [accordCertRequest, negotiated_of_stage ht hoffer hstage, ha]

theorem quoteRequest_of_accord {gid : BitVec 32} {nonce : BitVec 256} {a : Nat} (ha : accordByGid v gid = some a) :
    quoteRequest t gid nonce s = vendorReply v t 0x0004 (toLE gid.toNat 4 ++ toLE nonce.toNat 32) (quote v a nonce) := by
  subst hv
  rw [quoteRequest, negotiated_of_stage ht hoffer hstage, ha]

end Negotiated
end OnWire

theorem pqSignatureRequest_of_pending {s : State} {t : Transport} {h : BitVec 384} (hoffer : fullOffer s = true)
    (hpending : (getSpdm s t).pending = some h) : pqSignatureRequest t s = vendorReply s t 0x0002 [] (signMl s (toBE h.toNat 48)) := by
  simp only [pqSignatureRequest, hoffer, hpending]
  rfl

/-- Settles O59: a request on a wire is served, and each request's lemma says what it answers. -/
theorem attestationRequests : Obligations.AttestationRequests := by
  intro s v t nonce gid hrun ht hv
  have hserve := serveRequest_of_wire hrun ht
  have htake := serveOrTake_of_wire hrun ht
  refine ⟨?version, fun h => ?capabilities, fun h => ?algorithms, fun hoffer hstage => ?early, fun hoffer hstage =>
    ⟨?digests, fun offset length hoff => ⟨_, rfl, ?portion⟩, ?challenge, fun index n b hblocks => ?measurements,
      fun hsec r => ?chain, fun h hpending => ?signature, fun a ha => ⟨?cert, ?quote⟩⟩⟩
  case version =>
    refine Eq.trans ?_ (htake 1 0x04 (Config.spdmMessage 0x84 []) (versionRequest t))
    rw [exec_getVersion]
    rcases ht with rfl | rfl <;> rfl
  case capabilities => rw [exec_getCapabilities, htake, capabilitiesRequest_of_version ht h, hv]
  case algorithms => rw [exec_negotiateAlgorithms, htake, algorithmsRequest_of_capabilities ht h, hv]
  case early => rw [exec_getDigests, htake, digestsRequest, negotiated_of_early ht hoffer hstage, hv]
  case digests => rw [exec_getDigests, htake, digestsRequest, negotiated_of_stage ht hoffer hstage, hv]
  case portion =>
    rw [exec_getCertificate, execGetCertificate, htake, certificateRequest_of_portion ht hv hoffer hstage hoff rfl]
  case challenge => rw [exec_challenge, execChallenge, htake, challengeRequest, negotiated_of_stage ht hoffer hstage, hv]
  case measurements =>
    rw [exec_getMeasurements, execGetMeasurements, htake, afterMeasurements_of_wire ht,
      measurementsRequest_of_blocks ht hv hstage hblocks]
  case chain => rw [exec_getPqChain, hserve, pqChainRequest_of_no_session ht hv hoffer hstage hsec]
  case signature => rw [exec_getPqSignature, hserve, pqSignatureRequest_of_pending hoffer hpending]
  case cert => rw [exec_getAccordCert, hserve, accordCertRequest_of_accord ht hv hoffer hstage ha]
  case quote => rw [exec_accordQuote, execAccordQuote, hserve, quoteRequest_of_accord ht hv hoffer hstage ha]

end Sys2Proof.Machine

/-! ## O60: the secured session on I3C -/

namespace Sys2Proof.Machine
open Sys2Proof

theorem exec_keyExchange (t : Transport) (r : Bytes) (s : State) :
    exec (.keyExchange t r) s = serveRequest t (Config.spdmMessage 0xE4 r) (keyExchangeRequest t r) s := rfl
theorem exec_finish (t : Transport) (r chain : Bytes) (s : State) :
    exec (.finish t r chain) s = serveRequest t (Config.spdmMessage 0xE5 r) (finishRequest t r chain) s := rfl
theorem exec_heartbeat (t : Transport) (s : State) :
    exec (.heartbeat t) s = serveRequest t (Config.spdmMessage 0xE8 []) (heartbeatRequest t) s := rfl
theorem exec_endSession (t : Transport) (s : State) :
    exec (.endSession t) s = serveRequest t (Config.spdmMessage 0xEC []) (endSessionRequest t) s := rfl
theorem exec_keyUpdate (t : Transport) (r : Bytes) (s : State) :
    exec (.keyUpdate t r) s = serveRequest t (Config.spdmMessage 0xE9 r) (keyUpdateRequest t r) s := rfl
theorem exec_pqBind (t : Transport) (r : Bytes) (s : State) :
    exec (.pqBind t r) s = serveRequest t (vendorMessage 0x0005 r) (pqBindRequest t r) s := rfl

/-! ### What an answer on I3C keeps -/

/-- An answer changes the responder's own part of the management state alone. -/
theorem reply_i3c_eq (s : State) (req : Nat) (args : Bytes) (code : Nat) (body : Bytes) :
    ∃ x, reply s .i3c req args code body = setSpdm s .i3c x := ⟨_, rfl⟩

/-- Outside the management state an answer on I3C keeps everything. -/
theorem reply_i3c_frame (s : State) (req : Nat) (args : Bytes) (code : Nat) (body : Bytes) (m : Mgmt) :
    { reply s .i3c req args code body with mgmt := m } = { s with mgmt := m } := by
  obtain ⟨x, hx⟩ := reply_i3c_eq s req args code body
  rw [hx, setSpdm]

theorem mgmtSession_clearPending (s : State) : mgmtSession (clearPending s .i3c) = mgmtSession s := rfl

section Negotiated
variable {s v : State} (hoffer : fullOffer s = true) (hstage : 3 ≤ (getSpdm s .i3c).stage) (hv : v = clearPending s .i3c)
include hoffer hstage hv

/-- A request of the I3C alone, behind the negotiation. -/
theorem onI3c_of_stage (f : State → State) : onI3c s .i3c f = f v := by
  rw [onI3c, if_pos rfl, negotiated_of_stage (.inr rfl) hoffer hstage, hv]

theorem inSession_of_session (hsession : mgmtSession s = true) (f : State → State) : inSession s .i3c f = f v := by
  rw [inSession, onI3c_of_stage hoffer hstage hv, hv]
  exact if_pos hsession

/-! ### The session's requests (R398, R402) -/

/-- KEY_EXCHANGE with randomness at hand and no session. -/
theorem keyExchangeRequest_of_free {w : State} {r secret seed : Bytes} (hsec : s.mgmt.sec = .none) (hdrbg : noEntropy v = false)
    (hdraw : drawFresh v 56 = (w, seed)) (hecdh : Config.ecdhX seed (exchangeData r) = some secret) :
    ∃ x, keyExchangeRequest .i3c r s = { x with mgmt := { x.mgmt with sec := .exchanged, dhe := secret } } ∧
      x = clearPending (signedReply w .i3c 0xE4 r 0x64 (exchangeTerms ++ bslice (Config.ecdhPublic seed) 0 96)) .i3c := by
  have hnone : v.mgmt.sec = .none := by rw [hv]; exact hsec
  refine ⟨_, ?_, rfl⟩
  rw [keyExchangeRequest, onI3c_of_stage hoffer hstage hv]
  rw [if_neg (by simp [hnone]), if_neg (by simp [hdrbg])]
  simp only [hdraw, hecdh]

theorem keyExchangeRequest_of_session {r : Bytes} (hsec : s.mgmt.sec ≠ .none) :
    keyExchangeRequest .i3c r s = replyError v .i3c errSessionLimit := by
  rw [keyExchangeRequest, onI3c_of_stage hoffer hstage hv, hv]
  exact if_pos hsec

/-- FINISH whose signature and verify data hold. -/
theorem finishRequest_of_verified {r chain root leaf : Bytes} {h : BitVec 384} (hsec : s.mgmt.sec = .exchanged)
    (hh : h = Config.spdmHash 0xE5 ((getSpdm v .i3c).transcript ++ chain)) (hkeys : Config.certKeys chain = some (root, leaf))
    (hsig : Config.ecdsaVerify leaf (Config.spdmSigned 0xE5 h) (finishSignature r) = true)
    (hmac : finishMac r = Config.spdmMac 0xE5 s.mgmt.dhe h) :
    (finishRequest .i3c r chain s).mgmt.sec = .finished ∧ (finishRequest .i3c r chain s).mgmt.reqRoot = root ∧
      (finishRequest .i3c r chain s).mgmt.reqLeaf = leaf ∧ { finishRequest .i3c r chain s with mgmt := s.mgmt } = s := by
  have hexchanged : v.mgmt.sec = .exchanged := by rw [hv]; exact hsec
  have hdhe : v.mgmt.dhe = s.mgmt.dhe := by rw [hv]; rfl
  rw [finishRequest, onI3c_of_stage hoffer hstage hv, if_neg (by simp [hexchanged])]
  simp only [← hh, hkeys, hdhe]
  rw [if_neg (by simp [hsig, hmac])]
  have hframe := reply_i3c_frame v 0xE5 r 0x65 (Config.spdmMac 0x65 s.mgmt.dhe h) s.mgmt
  generalize reply v .i3c 0xE5 r 0x65 (Config.spdmMac 0x65 s.mgmt.dhe h) = t at hframe ⊢
  exact ⟨rfl, rfl, rfl, hframe.trans (by rw [hv]; rfl)⟩

section InSession
variable (hsession : mgmtSession s = true)
include hsession

/-- KEY_UPDATE of the requester's keys. -/
theorem keyUpdateRequest_of_one {r : Bytes} (hop : leField r 2 1 = 1) :
    (keyUpdateRequest .i3c r s).mgmt.reqKeys = s.mgmt.reqKeys + 1 ∧ (keyUpdateRequest .i3c r s).mgmt.rspKeys = s.mgmt.rspKeys ∧
      { keyUpdateRequest .i3c r s with mgmt := s.mgmt } = s := by
  rw [keyUpdateRequest, inSession_of_session hoffer hstage hv hsession, hv]
  rw [if_neg (by omega)]
  simp only [hop]
  exact ⟨rfl, rfl, reply_i3c_frame _ 0xE9 r 0x69 (bslice r 2 2) s.mgmt⟩

theorem pqBindRequest_of_verified {r : Bytes} (hsec : s.mgmt.sec ≠ .finished)
    (hsig : Config.mldsaVerify s.mgmt.reqMldsa (toBE s.mgmt.th2.toNat 48) (bslice r 0 3309) = true) : pqBindRequest .i3c r s =
      vendorReply { v with mgmt := { v.mgmt with sec := .bound } } .i3c 0x0005 r (signMl v (toBE s.mgmt.th2.toNat 48)) := by
  have hth2 : v.mgmt.th2 = s.mgmt.th2 := by rw [hv]; rfl
  have hkey : v.mgmt.reqMldsa = s.mgmt.reqMldsa := by rw [hv]; rfl
  have hlate : v.mgmt.sec ≠ .finished := by rw [hv]; exact hsec
  rw [pqBindRequest, inSession_of_session hoffer hstage hv hsession]
  simp only [hth2, hkey, if_neg hlate]
  exact if_neg (by simp [hsig])

end InSession
end Negotiated

/-- Settles O60: each request passes the negotiation's guard, and its lemma says what it does. -/
theorem securedSession : Obligations.SecuredSession := by
  intro s v w r chain secret seed hrun hoffer hstage hv
  have hserve := serveRequest_of_wire hrun (.inr rfl : Transport.i3c = .pcie ∨ Transport.i3c = .i3c)
  refine ⟨fun hsec hdrbg hdraw hecdh => ?exchange, fun hsec => ?limit, fun root leaf h hsec hh hkeys hsig hmac => ?finish,
    fun hsession => ⟨?heartbeat, ?ended, fun hop => ?update, fun hsec hsig => ?bind⟩⟩
  case exchange =>
    obtain ⟨x, hx, heq⟩ := keyExchangeRequest_of_free hoffer hstage hv hsec hdrbg hdraw hecdh
    exact ⟨x, by rw [exec_keyExchange, hserve, hx], heq⟩
  case limit => rw [exec_keyExchange, hserve, keyExchangeRequest_of_session hoffer hstage hv hsec]
  case finish =>
    exact ⟨_, by rw [exec_finish, hserve], finishRequest_of_verified hoffer hstage hv hsec hh hkeys hsig hmac⟩
  case heartbeat => rw [exec_heartbeat, hserve, heartbeatRequest, inSession_of_session hoffer hstage hv hsession]
  case ended => rw [exec_endSession, hserve, endSessionRequest, inSession_of_session hoffer hstage hv hsession]
  case update => exact ⟨_, by rw [exec_keyUpdate, hserve], keyUpdateRequest_of_one hoffer hstage hv hsession hop⟩
  case bind => rw [exec_pqBind, hserve, pqBindRequest_of_verified hoffer hstage hv hsession hsec hsig]

end Sys2Proof.Machine

namespace Sys2Proof.Machine

/-! ## What work in the memory leaves alone

A request served, a write, a read, a fill or a write-back changes the engines, the faults raised, the draws, the accords (their owner
events, sillage and contexts), the order of use, and by its answers the core groups, the responses, the ports and the doorbells'
queues. Nothing else. -/

/-- The block without what work in the memory touches. -/
def beyondMemory (s : State) : State :=
  { s with mpes := [], frs := {}, draws := 0, accords := [], stamp := 0, cores := [], responses := [], ports := [], queues := []
           foreignDb := 0, fills := 0, spills := 0, flaconSeq := [], keyObjs := [] }

/-- A branch with its answer leaves alone what both sides do. -/
theorem beyondMemory_ite {β : Type} {p : Prop} [Decidable p] {x y : State × β} {u : State} (hx : beyondMemory x.1 = u)
    (hy : beyondMemory y.1 = u) : beyondMemory (if p then x else y).1 = u := by
  split
  · exact hx
  · exact hy

section

variable (s : State) (n b : Nat)

@[simp] theorem beyondMemory_updMpe (f : Mpe → Mpe) : beyondMemory (updMpe s n f) = beyondMemory s := rfl

@[simp] theorem beyondMemory_updAccord (f : Accord → Accord) : beyondMemory (updAccord s n f) = beyondMemory s := rfl

@[simp] theorem beyondMemory_updPort (f : Port → Port) : beyondMemory (updPort s n f) = beyondMemory s := rfl

@[simp] theorem beyondMemory_raise (f : Raised) : beyondMemory (raise s f) = beyondMemory s := by
  unfold raise
  split <;> rfl

@[simp] theorem beyondMemory_drawNat : beyondMemory (drawNat s).1 = beyondMemory s := rfl

@[simp] theorem beyondMemory_ownerEvent (e : Nat) : beyondMemory (ownerEvent s n e) = beyondMemory s := rfl

@[simp] theorem beyondMemory_touchAccord : beyondMemory (touchAccord s n) = beyondMemory s := by
  unfold touchAccord
  split <;> rfl

/-! ### Lines of the metadata cache and of the tree -/

@[simp] theorem beyondMemory_dirtyLine (level idx : Nat) (body : BitVec 448) :
    beyondMemory (dirtyLine s n level idx body) = beyondMemory s := rfl

@[simp] theorem beyondMemory_setParentCtr (level idx c : Nat) :
    beyondMemory (setParentCtr s n level idx c) = beyondMemory s := by
  unfold setParentCtr
  split
  · rfl
  · split <;> simp

@[simp] theorem beyondMemory_putNode (level idx c : Nat) (body : BitVec 448) :
    beyondMemory (putNode s n level idx c body) = beyondMemory s := rfl

@[simp] theorem beyondMemory_makeSticky (level idx : Nat) : beyondMemory (makeSticky s n level idx).1 = beyondMemory s := by
  unfold makeSticky
  dsimp only
  split
  · rfl
  · split
    · rfl
    · split <;> rfl

@[simp] theorem beyondMemory_storeLine (level idx : Nat) : beyondMemory (storeLine s n level idx) = beyondMemory s := by
  unfold storeLine
  split <;> simp

@[simp] theorem beyondMemory_capstoneFail : beyondMemory (capstoneFail s n) = beyondMemory s := by
  unfold capstoneFail
  split <;> simp

@[simp] theorem beyondMemory_writeBackLine (level idx : Nat) :
    beyondMemory (writeBackLine s n level idx) = beyondMemory s := by
  have h := beyondMemory_makeSticky (storeLine s n level idx) n level idx
  grind [writeBackLine, beyondMemory_storeLine, beyondMemory_capstoneFail]

@[simp] theorem beyondMemory_cacheTrim : beyondMemory (cacheTrim s n) = beyondMemory s := by
  unfold cacheTrim
  dsimp only
  split
  · rfl
  · split
    · rfl
    · rw [beyondMemory_updMpe]
      split <;> simp

@[simp] theorem beyondMemory_fetchNode (level idx : Nat) (sup : Supplied) :
    beyondMemory (fetchNode s n level idx sup).1 = beyondMemory s := by
  unfold fetchNode
  split <;> rfl

@[simp] theorem beyondMemory_loadLine (level idx : Nat) (sup : Supplied) :
    beyondMemory (loadLine s n level idx sup).1 = beyondMemory s := by
  unfold loadLine
  split
  · rfl
  next =>
    rcases hfetch : fetchNode s n level idx sup with ⟨t, l, ue⟩
    have ht : beyondMemory t = beyondMemory s := by simpa [hfetch] using beyondMemory_fetchNode s n level idx sup
    dsimp only
    split
    · exact ht
    · split
      · simpa using ht
      · split
        next v hsticky =>
          have hv := congrArg (fun x => beyondMemory x.1) hsticky
          simp only [beyondMemory_makeSticky, beyondMemory_updMpe] at hv
          rw [beyondMemory_cacheTrim, ← hv, ht]
        next v hsticky =>
          have hv := congrArg (fun x => beyondMemory x.1) hsticky
          simp only [beyondMemory_makeSticky, beyondMemory_updMpe] at hv
          rw [← hv, ht]

@[simp] theorem beyondMemory_loadCourse (sup : Supplied) : beyondMemory (loadCourse s n b sup).1 = beyondMemory s := by
  have h (t : State) (level idx : Nat) := beyondMemory_loadLine t n level idx sup
  grind [loadCourse]

@[simp] theorem beyondMemory_countLookup (m : Mpe) : beyondMemory (countLookup s n b m) = beyondMemory s := rfl

@[simp] theorem beyondMemory_putRec (r : Rec) : beyondMemory (putRec s n b r) = beyondMemory s := by
  unfold putRec
  split <;> simp

@[simp] theorem beyondMemory_metadataLost (level idx : Nat) :
    beyondMemory (metadataLost s n level idx) = beyondMemory s := by
  unfold metadataLost
  dsimp only
  rw [foldl_keeps (g := beyondMemory) fun t a => beyondMemory_ownerEvent t a 2, beyondMemory_updMpe,
    foldl_keeps (g := beyondMemory) fun t x => beyondMemory_putNode ..]
  simp

@[simp] theorem beyondMemory_loadFault (l : Loaded) : beyondMemory (loadFault s n l) = beyondMemory s := by
  unfold loadFault
  split <;> simp

@[simp] theorem beyondMemory_loadErr (l : Loaded) : beyondMemory (loadErr s n l).1 = beyondMemory s := by
  unfold loadErr
  split <;> simp

@[simp] theorem beyondMemory_editRec (f : Rec → Rec) : beyondMemory (editRec s n b f) = beyondMemory s := by
  have h := beyondMemory_loadCourse s n b []
  grind [editRec, beyondMemory_putRec, beyondMemory_loadFault]

/-! ### Answers -/

theorem beyondMemory_forwardDoorbell (a : Nat) (w : Word) : beyondMemory (forwardDoorbell s a w) = beyondMemory s :=
  (congrArg beyondMemory (outsideDoorbells_forwardDoorbell s a w) :)

@[simp] theorem beyondMemory_respond (cg : Nat) (tag : BitVec 16) (ok : Bool) (d : Bytes) :
    beyondMemory (respond s cg tag ok d) = beyondMemory s :=
  foldl_keeps (f := fun s (d : Word × List (BitVec 16)) => forwardDoorbell s _ d.1) (g := beyondMemory)
    (fun t d => beyondMemory_forwardDoorbell t _ d.1) _ _

@[simp] theorem beyondMemory_answer (r : Req) (e : Option MemErr) (d : Bytes) :
    beyondMemory (answer s r e d) = beyondMemory s := by
  unfold answer
  split
  · split
    · rw [beyondMemory_respond]
      unfold refusedData
      split <;> rfl
    · simp
  · rfl
  · rfl

@[simp] theorem beyondMemory_raiseMem (r : Req) (e : MemErr) : beyondMemory (raiseMem s n r e) = beyondMemory s := by
  unfold raiseMem
  dsimp only
  rw [beyondMemory_raise]
  split <;> split <;> rfl

@[simp] theorem beyondMemory_refuse (r : Req) (e : MemErr) : beyondMemory (refuse s n r e) = beyondMemory s := by
  simp [refuse]

/-! ### Reads and writes of a stretcher -/

@[simp] theorem beyondMemory_hbmWrite (a : Nat) (d : Bytes) : beyondMemory (hbmWrite s n a d) = beyondMemory s := rfl

@[simp] theorem beyondMemory_storeStretcher (k : StretcherKey) (d : Bytes) :
    beyondMemory (storeStretcher s n k d) = beyondMemory s := rfl

@[simp] theorem beyondMemory_planRead (st a : Nat) (place : Option (Nat × RtEntry)) :
    beyondMemory (planRead s n b st a place).1 = beyondMemory s := by
  have h := beyondMemory_loadCourse s n b []
  have herr (t : State) (l : Loaded) := beyondMemory_loadErr t n l
  grind [planRead]

@[simp] theorem beyondMemory_readErrors : beyondMemory (readErrors s).1 = beyondMemory s := rfl

@[simp] theorem beyondMemory_noteRetry (j : ReadLuck) : beyondMemory (noteRetry s n j) = beyondMemory s := by
  unfold noteRetry
  split <;> rfl

@[simp] theorem beyondMemory_readStretcherNow (st a : Nat) (place : Option (Nat × RtEntry)) :
    beyondMemory (readStretcherNow s n b st a place).1 = beyondMemory s := by
  have h := beyondMemory_planRead s n b st a place
  have hluck (t : State) := beyondMemory_readErrors t
  grind [readStretcherNow, beyondMemory_noteRetry, beyondMemory_editRec]

@[simp] theorem beyondMemory_writeBrickC (e : RtEntry) (r : Rec) (d : Bytes) :
    beyondMemory (writeBrickC s n b e r d) = beyondMemory s := by
  have hstore (r : Rec) : beyondMemory (storeBrickC s n b e.owner r d) = beyondMemory s :=
    foldl_keeps (g := beyondMemory) (fun t st => by split <;> rfl) _ _
  unfold writeBrickC
  dsimp only
  split <;> simp [hstore]

@[simp] theorem beyondMemory_otherData (st a : Nat) : beyondMemory (otherData s n b st a).1 = beyondMemory s := by
  unfold otherData
  split
  · split <;> simp
  · simp

@[simp] theorem beyondMemory_reencrypt (e : RtEntry) (new : Option (Nat × Bytes)) (q : Req) :
    beyondMemory (reencrypt s n b e new q) = beyondMemory s := by
  have hother (t : State) (st a : Nat) := beyondMemory_otherData t n b st a
  unfold reencrypt
  dsimp only
  have hfold := foldl_keeps (g := fun x : State × Bytes × Bool => beyondMemory x.1) (f := fun x st =>
    if new.any (·.1 == st) then (x.1, x.2.1 ++ ((new.map (·.2)).getD []), x.2.2)
    else match otherData x.1 n b st (heldRec (getMpe s n) b).owner with
      | (s, .ok d) => (s, x.2.1 ++ d, x.2.2)
      | (s, .error f) => (raiseMem s n { q with brick := b, off := 256 * st } f, x.2.1 ++ zeros 256, x.2.2 || f == .integrity))
    (fun x st => by grind [beyondMemory_raiseMem]) (List.range 16) (s, [], false)
  split
  · rw [beyondMemory_editRec, beyondMemory_writeBrickC]
    exact hfold
  · rw [beyondMemory_writeBrickC]
    exact hfold

/-- The stretcher's new bytes of a class C write. -/
theorem beyondMemory_mergedStretcher (e : RtEntry) (q : Req) : beyondMemory
    (if q.op = .writeStretcher then (s, Except.ok q.data)
      else match readStretcherNow s n b (q.off / 256) q.accord (some (0, e)) with
        | (s, .ok d) => (s, Except.ok (bput d (q.off % 256 / 64 * 64)
            (mergeMask (bslice d (q.off % 256 / 64 * 64) 64) q.data q.mask)))
        | (s, .error x) => (s, Except.error x)).1 = beyondMemory s := by
  have hread := beyondMemory_readStretcherNow s n b (q.off / 256) q.accord (some (0, e))
  split
  · rfl
  · split <;> simp_all

@[simp] theorem beyondMemory_writeC (e : RtEntry) (q : Req) (inline : Bool) :
    beyondMemory (writeC s n e q inline).1 = beyondMemory s := by
  have hcourse := beyondMemory_loadCourse s n q.brick []
  unfold writeC
  dsimp only
  split
  next t hload =>
    rw [hload] at hcourse
    have hcounted : beyondMemory (countLookup t n q.brick (getMpe s n)) = beyondMemory s := hcourse
    generalize countLookup t n q.brick (getMpe s n) = u at hcounted ⊢
    have hplain := beyondMemory_mergedStretcher u n q.brick e q
    generalize (if q.op = .writeStretcher then _ else _ : State × Except MemErr Bytes) = plain at hplain ⊢
    rw [← hcounted]
    refine beyondMemory_ite rfl (beyondMemory_ite rfl (beyondMemory_ite rfl (beyondMemory_ite rfl (beyondMemory_ite rfl
      (beyondMemory_ite ?_ (beyondMemory_ite ?_ ?_))))))
    · rw [beyondMemory_updMpe, beyondMemory_writeBrickC]
    · rw [beyondMemory_writeBrickC]
    split
    · exact hplain
    refine beyondMemory_ite (beyondMemory_ite ?_ hplain) ?_
    · rw [beyondMemory_reencrypt, beyondMemory_updMpe, hplain]
    split
    · exact hplain
    · dsimp only
      split <;> simp only [beyondMemory_updMpe, beyondMemory_putRec, beyondMemory_storeStretcher, hplain]
  next t l _ hload =>
    rw [hload] at hcourse
    simpa using hcourse

@[simp] theorem beyondMemory_sealLine (st l : Nat) (e : RtEntry) (d : Bytes) :
    beyondMemory (sealLine s n b st l e d) = beyondMemory s := by
  unfold sealLine
  split
  · rfl
  · dsimp only
    split <;> simp

@[simp] theorem beyondMemory_writeR (e : RtEntry) (q : Req) : beyondMemory (writeR s n e q).1 = beyondMemory s := by
  have hcourse := beyondMemory_loadCourse s n q.brick []
  unfold writeR
  dsimp only
  split
  · rfl
  split
  · rfl
  split
  next t hload =>
    rw [hload] at hcourse
    have hcounted : beyondMemory (countLookup t n q.brick (getMpe s n)) = beyondMemory s := hcourse
    generalize countLookup t n q.brick (getMpe s n) = u at hcounted ⊢
    rw [← hcounted]
    cases q.op <;> refine beyondMemory_ite rfl (beyondMemory_ite rfl (beyondMemory_ite rfl (beyondMemory_ite rfl
      (beyondMemory_ite rfl ?_))))
    case writeLine => exact beyondMemory_ite rfl (by simp)
    case writeStretcher => dsimp only; split <;> simp
    all_goals exact (beyondMemory_putRec _ _ _ _).trans (foldl_keeps (g := beyondMemory) (fun s st => by split <;> simp) _ _)
  next t l _ hload =>
    rw [hload] at hcourse
    simpa using hcourse

@[simp] theorem beyondMemory_writeS (e : RtEntry) (q : Req) : beyondMemory (writeS s n e q).1 = beyondMemory s := by
  have hluck := beyondMemory_readErrors s
  have hfold (a : Nat) (new : Bytes) := foldl_keeps (g := beyondMemory) (f := fun s k =>
      if fld q.mask (16 * k) (16 * k) = 0 then s else hbmWrite s n (a + 16 * k) (bslice new (16 * k) 16))
    (fun s k => by split <;> simp) (List.range 4) s
  unfold writeS
  dsimp only
  split
  · rfl
  split
  · split
    · rfl
    split
    · exact hfold _ _
    · split <;> simp_all
  · simp

@[simp] theorem beyondMemory_writeCore (q : Req) (inline : Bool) : beyondMemory (writeCore s n q inline).1 = beyondMemory s := by
  unfold writeCore
  split
  · rfl
  · split <;> simp

@[simp] theorem beyondMemory_dropEntry (x : Nat) : beyondMemory (dropEntry s n x) = beyondMemory s := rfl

@[simp] theorem beyondMemory_requeueWaiting (x : Nat) : beyondMemory (requeueWaiting s n x) = beyondMemory s := by
  unfold requeueWaiting
  split <;> rfl

@[simp] theorem beyondMemory_writeUnlogged (q : Req) : beyondMemory (writeUnlogged s n q).1 = beyondMemory s := by
  unfold writeUnlogged
  dsimp only
  split
  · simp
  · split
    · rfl
    · rw [beyondMemory_writeCore, beyondMemory_dropEntry, beyondMemory_requeueWaiting]
      split <;> simp

@[simp] theorem beyondMemory_appendSillage (a : Nat) (q : Req) : beyondMemory (appendSillage s n b a q) = beyondMemory s := by
  have hwrite (n : Nat) (q : Req) := beyondMemory_writeUnlogged s n q
  grind [appendSillage, beyondMemory_updAccord, beyondMemory_raise, beyondMemory_ownerEvent, beyondMemory_raiseMem]

@[simp] theorem beyondMemory_logWrite (q : Req) : beyondMemory (logWrite s n b q) = beyondMemory s := by
  unfold logWrite
  dsimp only
  split
  · rfl
  · split
    · rfl
    · split
      · rfl
      · split
        · split <;> simp
        · simp

@[simp] theorem beyondMemory_writeLogged (q : Req) (inline : Bool) :
    beyondMemory (writeLogged s n q inline).1 = beyondMemory s := by
  have h := beyondMemory_writeCore s n q inline
  grind [writeLogged, beyondMemory_logWrite]

/-! ### Entries of the coalescing store -/

@[simp] theorem beyondMemory_putEntry (x : Nat) (e : StoreEntry) : beyondMemory (putEntry s n x e) = beyondMemory s := rfl

@[simp] theorem beyondMemory_countOp (hit : Bool) : beyondMemory (countOp s n hit) = beyondMemory s := rfl

@[simp] theorem beyondMemory_applyOp (x : Nat) (r : Req) (en : StoreEntry) : beyondMemory (applyOp s n x r en) = beyondMemory s := by
  unfold applyOp noteCells
  simp

@[simp] theorem beyondMemory_opOnEntry (x : Nat) (r : Req) (en : StoreEntry) (hit : Bool) :
    beyondMemory (opOnEntry s n x r en hit) = beyondMemory s := by
  unfold opOnEntry
  split
  · simp
  · split <;> simp

@[simp] theorem beyondMemory_readEntry (r : Req) (en : StoreEntry) (hit : Bool) :
    beyondMemory (readEntry s n r en hit) = beyondMemory s := by
  unfold readEntry
  split
  · simp
  · split <;> simp

@[simp] theorem beyondMemory_answerEmpty (r : Req) (old : Option Bytes) : beyondMemory (answerEmpty s r old) = beyondMemory s := by
  unfold answerEmpty
  split
  · simp
  · split <;> simp

@[simp] theorem beyondMemory_serveWaiting (x : Nat) (r : Req) : beyondMemory (serveWaiting s n x r) = beyondMemory s := by
  unfold serveWaiting
  split
  · rfl
  · split
    · split <;> simp
    · simp

@[simp] theorem beyondMemory_fillComplete (x : Nat) : beyondMemory (fillComplete s n x) = beyondMemory s := by
  unfold fillComplete
  split
  · rfl
  · split
    · rfl
    · rw [foldl_keeps (g := beyondMemory) fun t r => beyondMemory_refuse .., beyondMemory_dropEntry]
    · rw [foldl_keeps (g := beyondMemory) fun t r => beyondMemory_serveWaiting .., beyondMemory_putEntry]

@[simp] theorem beyondMemory_forceFill (x : Nat) : beyondMemory (forceFill s n x) = beyondMemory s := by
  have hread (a : Nat) (place : Option (Nat × RtEntry)) := beyondMemory_readStretcherNow s n (x / 16) (x % 16) a place
  grind [forceFill, beyondMemory_fillComplete, beyondMemory_updMpe]

@[simp] theorem beyondMemory_writeBackEntry (x : Nat) (qos : Qos) : beyondMemory (writeBackEntry s n x qos) = beyondMemory s := by
  have hwrite (t : State) (q : Req) := beyondMemory_writeLogged t n q true
  grind [writeBackEntry, beyondMemory_raise, beyondMemory_updMpe, beyondMemory_ownerEvent, beyondMemory_raiseMem, chargeStretcher]

@[simp] theorem beyondMemory_flushStore (f : Nat → StoreEntry → Bool) : beyondMemory (flushStore s n f) = beyondMemory s :=
  foldl_keeps (g := beyondMemory) (fun t e => by simp) _ _

@[simp] theorem beyondMemory_clearEntries (q : Req) : beyondMemory (clearEntries s n q).1 = beyondMemory s :=
  foldl_keeps (g := fun x : State × Option MemErr => beyondMemory x.1)
    (fun x i => by
      dsimp only
      split
      · rfl
      · split
        · simp
        · split <;> simp) _ _

@[simp] theorem beyondMemory_writeNow (q : Req) : beyondMemory (writeNow s n q).1 = beyondMemory s := by
  have hclear := beyondMemory_clearEntries s n q
  have hwrite (t : State) := beyondMemory_writeLogged t n q true
  grind [writeNow]

@[simp] theorem beyondMemory_writeBrickBytes (a off : Nat) (d : Bytes) (o : Origin) :
    beyondMemory (writeBrickBytes s n b a off d o).1 = beyondMemory s :=
  foldl_keeps (g := fun x : State × Option MemErr => beyondMemory x.1)
    (fun x i => by
      dsimp only
      split
      · rfl
      · simp) _ _

/-! ### The hot set -/

@[simp] theorem beyondMemory_finishReenc (x : Reenc) : beyondMemory (finishReenc s n x) = beyondMemory s := by
  unfold finishReenc resumeHeld
  dsimp only
  rw [beyondMemory_updMpe]
  have hstart : beyondMemory (updMpe s n fun m => { m with reenc := m.reenc.erase x }) = beyondMemory s := rfl
  generalize updMpe s n (fun m => { m with reenc := m.reenc.erase x }) = t at hstart
  have hcourse := beyondMemory_loadCourse t n x.brick []
  have hwrite := beyondMemory_writeLogged t n x.req true
  rw [← hstart]
  split
  · split
    · rfl
    · split
      next u hload =>
        rw [hload] at hcourse
        split <;> simpa using hcourse
      next u l _ hload =>
        rw [hload] at hcourse
        simpa using hcourse
  · split
    next u e hlogged =>
      rw [hlogged] at hwrite
      simpa using hwrite
    next u r _ hlogged =>
      rw [hlogged] at hwrite
      simpa using hwrite

@[simp] theorem beyondMemory_spillContext (a : Nat) (c : KeyContext) : beyondMemory (spillContext s a c) = beyondMemory s := rfl

@[simp] theorem beyondMemory_evict (a : Nat) : beyondMemory (evict s a) = beyondMemory s := by
  unfold evict
  split
  · rfl
  · rw [beyondMemory_spillContext]
    refine foldl_keeps (g := beyondMemory) (fun t k => ?_) _ _
    rw [beyondMemory_flushStore, foldl_keeps (g := beyondMemory) fun t x => beyondMemory_finishReenc ..]

@[simp] theorem beyondMemory_makeResident (a : Nat) : beyondMemory (makeResident s a).1 = beyondMemory s := by
  have hroom : beyondMemory (if (residents s).length < hotSetSize then (s, true)
      else match victim s with
        | some v => (evict s v, true)
        | none => (s, false)).1 = beyondMemory s := by
    split
    · rfl
    · split <;> simp
  unfold makeResident
  split
  · simp
  · split
    · rfl
    · dsimp only
      generalize (if (residents s).length < hotSetSize then _ else _ : State × Bool) = t at hroom
      rw [← hroom]
      split
      · rfl
      · split
        · rw [beyondMemory_touchAccord, beyondMemory_updAccord]
          rfl
        · simp

/-! ### Writes to a space -/

@[simp] theorem beyondMemory_writeDpa (a dpa : Nat) (d : Bytes) (o : Origin) :
    beyondMemory (writeDpa s a dpa d o).1 = beyondMemory s := by
  unfold writeDpa
  dsimp only
  rw [foldl_keeps (g := fun x : State × Bool => beyondMemory x.1), beyondMemory_makeResident]
  intro x i
  have hwrite (k c a off : Nat) (d : Bytes) := beyondMemory_writeBrickBytes x.1 k c a off d o
  grind

end

end Sys2Proof.Machine

namespace Sys2Proof.Machine
open Sys2Proof

/-! ## What the end of a command leaves of a flip and of a move

A command that ends writes its entry, signals its fence and drops its references, and an object whose last reference goes is torn
down. None of this starts or ends a flip of a bond, and none of it starts or ends a move. -/

/-- A bond's flip of the sending direction, with its salts, and the move engine's invalidation. -/
def flipView (b : Nat) (s : State) : Bool × Tab Word × Option Nat :=
  ((getBond s b).flipping, (getBond s b).newSalts, s.hpe.moveInv)

variable (b : Nat) (s : State)

theorem flipView_congr {b : Nat} {s t : State} (hbonds : t.bonds = s.bonds) (hmove : t.hpe.moveInv = s.hpe.moveInv) :
    flipView b t = flipView b s := by
  unfold flipView
  rw [getBond_of_bonds hbonds, hmove]

theorem flipView_of_beyondMemory {b : Nat} {s t : State} (h : beyondMemory t = beyondMemory s) : flipView b t = flipView b s :=
  flipView_congr (congrArg State.bonds h :) (congrArg (fun u : State => u.hpe.moveInv) h :)

theorem flipView_of_outsidePorts {b : Nat} {s t : State} (h : outsidePorts t = outsidePorts s) : flipView b t = flipView b s :=
  flipView_congr (congrArg State.bonds h :) (congrArg (fun u : State => u.hpe.moveInv) h :)

/-- A bond rewritten without its flip. -/
theorem flipView_updBond (k : Nat) {f : Bond → Bond} (hflip : ∀ x, (f x).flipping = x.flipping)
    (hsalts : ∀ x, (f x).newSalts = x.newSalts) : flipView b (updBond s k f) = flipView b s := by
  unfold flipView
  by_cases hb : b = k
  · rw [hb, getBond_updBond_self, hflip, hsalts]; rfl
  · rw [getBond_updBond_ne _ _ _ _ hb]; rfl

@[simp] theorem flipView_updPort (p : Nat) (f : Port → Port) : flipView b (updPort s p f) = flipView b s := rfl
@[simp] theorem flipView_updMpe (n : Nat) (f : Mpe → Mpe) : flipView b (updMpe s n f) = flipView b s := rfl
@[simp] theorem flipView_raise (f : Raised) : flipView b (raise s f) = flipView b s := by
  unfold raise; split <;> rfl
@[simp] theorem flipView_pulse (n : Nat) : flipView b (pulse s n) = flipView b s := rfl
@[simp] theorem flipView_bumpGen (r : ObjRef) : flipView b (bumpGen s r) = flipView b s := rfl
@[simp] theorem flipView_setWait (id : Nat) (w : Wait) : flipView b (setWait s id w) = flipView b s := rfl

/-! ### Windows of a bond -/

@[simp] theorem flipView_updS (n : Nat) (f : Stream → Stream) : flipView b (updS s n f) = flipView b s := by
  unfold updS
  split
  · exact flipView_updBond b s _ (fun _ => rfl) fun _ => rfl
  · rfl

@[simp] theorem flipView_sendFlits (n : Nat) (part : Bool) : flipView b (sendFlits s n part) = flipView b s := by
  unfold sendFlits
  split
  · simp
  · rfl

@[simp] theorem flipView_closeWindow (n : Nat) : flipView b (closeWindow s n) = flipView b s := by
  refine Eq.trans ?_ (flipView_sendFlits b s n true)
  unfold closeWindow
  dsimp only
  split
  · rw [flipView_updPort, apply_ite (flipView b), flipView_raise, ite_self, flipView_updS]
  · rfl

@[simp] theorem flipView_closeFull (n : Nat) : flipView b (closeFull s n) = flipView b s := by
  unfold closeFull
  split <;> simp

@[simp] theorem flipView_startWindow (n : Nat) : flipView b (startWindow s n) = flipView b s := flipView_updS b s n _

@[simp] theorem flipView_moveStream (n : Nat) : flipView b (moveStream s n) = flipView b s := by
  unfold moveStream
  dsimp only
  split
  · rfl
  · split <;> simp

@[simp] theorem flipView_addEntry (n : Nat) (e : Bytes) : flipView b (addEntry s n e) = flipView b s := by
  unfold addEntry
  simp

theorem flipView_packEntry {b : Nat} {s t : State} {n : Nat} {e : Bytes} (h : packEntry s n e = some t) :
    flipView b t = flipView b s := by
  unfold packEntry at h
  split at h
  · cases h
  · split at h
    · split at h
      · cases h; simp
      · cases h
    · dsimp only at h
      split at h
      · cases h; simp
      · cases h

@[simp] theorem flipView_flushFlit (n : Nat) : flipView b (flushFlit s n) = flipView b s := by
  unfold flushFlit
  simp

@[simp] theorem flipView_controlMessage (k type : Nat) (body : Bytes) : flipView b (controlMessage s k type body) = flipView b s :=
  flipView_updBond b s k (fun _ => rfl) fun _ => rfl

@[simp] theorem flipView_flushControl (k : Nat) : flipView b (flushControl s k) = flipView b s := by
  unfold flushControl
  dsimp only
  rw [flipView_flushFlit]
  refine foldl_keeps (g := flipView b) (fun s m => ?_) _ s
  split
  · rfl
  · split
    next hpack =>
      rw [flipView_updBond b]
      · exact flipView_packEntry hpack
      · exact fun _ => rfl
      · exact fun _ => rfl
    next => rfl

@[simp] theorem flipView_setBondState (k : Nat) (st : BondState) : flipView b (setBondState s k st) = flipView b s := by
  unfold setBondState
  exact (foldl_keeps (g := flipView b) (fun s p => flipView_pulse b s _) _ _).trans
    (flipView_updBond b s k (fun _ => rfl) fun _ => rfl)

@[simp] theorem flipView_closeBonds : flipView b (closeBonds s) = flipView b s := by
  unfold closeBonds
  refine foldl_keeps (g := flipView b) (fun s x => ?_) _ s
  split
  · dsimp only
    rw [flipView_updBond b]
    · simp
    · exact fun _ => rfl
    · exact fun _ => rfl
  · rfl

@[simp] theorem flipView_drainStream (p e : Nat) (handover : Bool) : flipView b (drainStream s p e handover) = flipView b s :=
  flipView_of_outsidePorts (outsidePorts_drainStream handover s p e)

@[simp] theorem flipView_closeBond (k : Nat) : flipView b (closeBond s k) = flipView b s := by
  unfold closeBond
  dsimp only
  split
  · exact (foldl_keeps (g := flipView b) (f := fun s (pe : Nat × Nat) => drainStream s pe.1 pe.2 false)
      (fun s pe => flipView_drainStream b s pe.1 pe.2 false) _ _).trans (flipView_setBondState b s k .closing)
  · rfl

/-! ### Memory and fences -/

@[simp] theorem flipView_writeAt (sp : Space) (fn a : Nat) (addr : BitVec 64) (d : Bytes) (o : Origin) :
    flipView b (writeAt s sp fn a addr d o).1 = flipView b s := by
  unfold writeAt
  split
  · rfl
  · rfl
  · exact flipView_of_beyondMemory (beyondMemory_writeDpa ..)

@[simp] theorem flipView_writeMirror (f : Fence) : flipView b (writeMirror s f) = flipView b s := by
  unfold writeMirror
  split
  · rfl
  · simp

@[simp] theorem flipView_applyUpdate (u : FenceUpdate) : flipView b (applyUpdate s u) = flipView b s := by
  unfold applyUpdate updateFence
  split
  · rfl
  · exact flipView_writeMirror b _ _

@[simp] theorem flipView_applyFences : flipView b (applyFences s) = flipView b s := by
  unfold applyFences
  refine foldl_keeps (g := flipView b) (fun s _ => ?_) _ s
  unfold fenceCycle
  split
  · rfl
  · exact flipView_applyUpdate b _ _

@[simp] theorem flipView_endFence (words : List Word) (ok : Bool) (st : Status) (code : Option (BitVec 8)) :
    flipView b (endFence s words ok st code) = flipView b s := by
  unfold endFence
  split
  · rfl
  · split
    · rfl
    · split <;> rfl

/-! ### Objects torn down -/

@[simp] theorem flipView_setCounts (r : ObjRef) (h d : Nat) : flipView b (setCounts s r h d) = flipView b s := by
  unfold setCounts
  split
  case h_5 =>
    unfold flipView
    have hget : ∀ t : Tab Bond, (tgetD (tupd t r.index fun x => { x with href := h, dref := d }) b {}).flipping = (tgetD t b {}).flipping ∧
        (tgetD (tupd t r.index fun x => { x with href := h, dref := d }) b {}).newSalts = (tgetD t b {}).newSalts := fun t => by
      by_cases hb : b = r.index
      · subst hb; simp only [tgetD, tget_tupd_self]; cases tget t r.index <;> exact ⟨rfl, rfl⟩
      · simp only [tgetD, tget_tupd_ne _ _ _ _ hb, and_self]
    exact Prod.ext (hget s.bonds).1 (Prod.ext (hget s.bonds).2 rfl)
  all_goals rfl

@[simp] theorem flipView_flushStore (n : Nat) (f : Nat → StoreEntry → Bool) : flipView b (flushStore s n f) = flipView b s :=
  flipView_of_beyondMemory (beyondMemory_flushStore ..)

theorem flipView_reap (r : ObjRef) : flipView b (reap s r) = flipView b s := by
  unfold reap
  split
  · split
    · unfold tearFence
      split
      · exact flipView_applyFences b s
      · rfl
    · unfold tearRegion
      split
      · rfl
      · exact flipView_flushStore b _ _ _
    · unfold tearBond
      simp
    · unfold tearKey
      split
      · rfl
      · dsimp only
        split <;> rfl
    · rfl
  · rfl

@[simp] theorem flipView_subRef (r : ObjRef) (side : Side) (k : Nat) : flipView b (subRef s r side k) = flipView b s := by
  unfold subRef
  split
  · rfl
  · dsimp only
    rw [flipView_reap]
    split <;> simp

/-! ### The end of a command -/

@[simp] theorem flipView_writeEntry (q : Nat) (words : List Word) (ring : Nat) (st : Status) (detail result : Word) :
    flipView b (writeEntry s q words ring st detail result) = flipView b s := by
  unfold writeEntry
  split
  · rfl
  · dsimp only
    split
    · split
      · unfold mgmtEntry
        dsimp only
        split <;> rfl
      · rfl
    · exact flipView_writeAt b _ _ _ _ _ _ _

@[simp] theorem flipView_notify (q : Nat) (words : List Word) : flipView b (notify s q words) = flipView b s := by
  unfold notify
  split
  · split <;> rfl
  · rfl

@[simp] theorem flipView_endCommand (q ring : Nat) (words : List Word) (refs : List ObjRef) (ok : Bool) (st : Status)
    (detail result : Word) (code : Option (BitVec 8)) :
    flipView b (endCommand s q ring words refs ok st detail result code) = flipView b s := by
  unfold endCommand
  dsimp only
  rw [foldl_keeps (g := flipView b) fun s r => flipView_subRef b s r _ _]
  rw [flipView_endFence, flipView_notify]
  split <;> simp

@[simp] theorem flipView_stopQueue (q : Nat) : flipView b (stopQueue s q) = flipView b s := by
  unfold stopQueue discardFetched
  split
  · rfl
  · exact foldl_keeps (g := flipView b) (fun s f => flipView_endCommand ..) _ _

@[simp] theorem flipView_finish (id : Nat) (st : Status) (detail result : Word) :
    flipView b (finish s id st detail result) = flipView b s := by
  unfold finish finishWith
  split
  · rfl
  · dsimp only
    split
    · split
      · exact flipView_endFence b _ _ _ _ _
      · rfl
    · unfold afterEnd
      split
      · rw [flipView_stopQueue]; exact flipView_endCommand b _ _ _ _ _ _ _ _ _ _
      · exact flipView_endCommand b _ _ _ _ _ _ _ _ _ _

@[simp] theorem flipView_finishOpt (id : Option Nat) (st : Status) (detail result : Word) :
    flipView b (finishOpt s id st detail result) = flipView b s := by
  cases id
  · rfl
  · exact flipView_finish ..

/-- The re-keyings that a flip ends leave the flip as it is. -/
theorem flipView_rekeyDone (k : Nat) (rx : Bool) : flipView b (rekeyDone s k rx) = flipView b s := by
  unfold rekeyDone
  refine foldl_keeps (g := flipView b) (fun s e => ?_) _ s
  split
  · split
    · rfl
    · dsimp only
      split <;> simp
  · rfl

theorem flipView_dropOldTx (k : Nat) : flipView b (dropOldTx s k) = flipView b s := by
  unfold dropOldTx
  dsimp only
  split
  · exact flipView_updBond b s k (fun _ => rfl) fun _ => rfl
  · rfl

end Sys2Proof.Machine

/-! ## O36: control messages on streams, flips and re-agreements, and the link timers -/

namespace Sys2Proof.Machine
open Sys2Proof

theorem exec_phaseFlipStart (b : Nat) (s : State) : exec (.phaseFlipStart b) s = execPhaseFlipStart b s := rfl
theorem exec_reagreementStart (b : Nat) (s : State) : exec (.reagreementStart b) s = execReagreementStart b s := rfl
theorem exec_streamOpenTimeout (n : Nat) (s : State) : exec (.streamOpenTimeout n) s = execStreamOpenTimeout n s := rfl
theorem exec_streamDrainTimeout (n : Nat) (s : State) : exec (.streamDrainTimeout n) s = execStreamDrainTimeout n s := rfl

/-! ### Streams that open and close (R249 to R256) -/

theorem openReq_of_not_live {s : State} {b : Nat} (h : (getBond s b).state ≠ .live) (m : Bytes) :
    openReq s b m = controlMessage s b 0x0103 (toLE (leField m 52 2) 2 ++ [9]) := by
  simp only [openReq]
  exact if_pos h

/-- A stream as OPEN_ACK leaves it. -/
def ackStream (m : Bytes) (y : Stream) : Stream :=
  { y with state := .opened, peerStream := leField m 6 2, peerPort := leField m 8 1, rxSalt := BitVec.ofNat 32 (leField m 10 4) }

section OpenAck
variable {s : State} {b n : Nat} {m : Bytes} (hn : n = leField m 4 2) (hopening : (getStream s (n / 256) (n % 256)).state = .opening)
  (hbond : (getStream s (n / 256) (n % 256)).bond = b)
include hn hopening hbond

/-- OPEN_ACK opens the stream and ends its STREAM_OPEN; a stream that must not stay drains at once. -/
theorem openAck_of_opening : ∃ w, w = endStreamOpen (updStream s (n / 256) (n % 256) (ackStream m)) n .ok 0 (BitVec.ofNat 32 n) ∧
    openAck s b m = if mustDrain w (n / 256) (getStream s (n / 256) (n % 256))
      then drainStream w (n / 256) (n % 256) (!boundTo w .port (n / 256) (getStream s (n / 256) (n % 256)).accord) else w := by
  subst hn
  refine ⟨_, rfl, ?_⟩
  have hown : ¬ ((getStream s (leField m 4 2 / 256) (leField m 4 2 % 256)).state ≠ .opening ∨
      (getStream s (leField m 4 2 / 256) (leField m 4 2 % 256)).bond ≠ b) := by simp [hopening, hbond]
  simp only [openAck]
  rw [if_neg hown]
  rfl

end OpenAck

/-- Where no STREAM_OPEN waits, none ends. -/
theorem endStreamOpen_of_none {s : State} {n : Nat} (h : ∀ e ∈ s.started, e.2.wait ≠ .streamOpen n) (st : Status) (detail result : Word) :
    endStreamOpen s n st detail result = s := by
  have hnone : (s.started.filter fun e => e.2.wait == .streamOpen n) = [] :=
    List.filter_eq_nil_iff.mpr fun e he => by simp [h e he]
  simp only [endStreamOpen, hnone, List.foldl_nil]

/-- Whether a stream must drain does not depend on the streams themselves. -/
theorem mustDrain_updStream (s : State) (p e q : Nat) (f : Stream → Stream) (y : Stream) :
    mustDrain (updStream s p e f) q y = mustDrain s q y := by
  have hport : (getPort (updStream s p e f) q).state = (getPort s q).state := by
    by_cases hq : q = p
    · rw [hq, updStream, getPort_updPort_self]
    · rw [updStream, getPort_updPort_ne _ _ _ _ hq]
  simp only [mustDrain, hport]
  rfl

theorem state_getStream_closeEntry (s : State) (p e : Nat) : (getStream (closeEntry s p e) p e).state = .closed := by
  simp [closeEntry, getStream, tgetD]

theorem refuseOpen_of_opening {s : State} {n : Nat} (h : (getStream s (n / 256) (n % 256)).state = .opening) (code : Word) :
    refuseOpen s n code = endStreamOpen (closeEntry s (n / 256) (n % 256)) n .rejected code 0 := if_pos h

theorem drainStream_frame {s : State} {p e : Nat} (h : (getStream s p e).state = .opened) (handover : Bool) :
    { drainStream s p e handover with ports := s.ports } = s := by
  rw [drainStream_of_opened handover h]
  rfl

/-! ### Flips (R263 to R270) -/

/-- PHASE_PREPARE without a new root and without salts. -/
theorem phasePrepare_of_old_root {s : State} {b : Nat} {m : Bytes} (hlive : (getBond s b).state = .live)
    (hidle : (getBond s b).rxFlipping = false) (hgen : leField m 0 2 = ((getBond s b).rxGen + 1) % 65536) (hchange : leField m 2 1 = 0)
    (hsalts : leField m 4 2 = 0) : phasePrepare s b m = controlMessage
      (updBond s b fun x => { x with oldRx := some x.rxRoot, rxGen := leField m 0 2, rxFlipping := true }) b 0x0106
      (toLE (leField m 0 2) 2) := by
  have hok : ¬ ((getBond s b).state ≠ .live ∨ (getBond s b).rxFlipping = true ∨ leField m 0 2 ≠ ((getBond s b).rxGen + 1) % 65536 ∨
      ((leField m 2 1 == 1) = true ∧ (getBond s b).nextRoot.isNone = true)) := by simp [hlive, hidle, ← hgen, hchange]
  simp only [phasePrepare]
  rw [if_neg hok, hsalts, hchange]
  rfl

/-- A flip of the sending direction that changes no root. -/
theorem startFlip_of_no_root {s : State} {b : Nat} (hlive : (getBond s b).state = .live) (hidle : (getBond s b).flipping = false)
    (hroot : (getBond s b).nextRoot = none) (hgens : (getBond s b).rootGens < 65536) : startFlip s b = controlMessage
      (updBond s b fun x => { x with flipping := true, flipDue := false, flipRoot := none, newSalts := [] }) b 0x0105
      (toLE (((getBond s b).txGen + 1) % 65536) 2 ++ [0, 0, 0, 0]) := by
  have hchange : rootChange (getBond s b) = false := by simp [rootChange, hroot]
  have hworn : rootWornOut (getBond s b) = false := by simp [rootWornOut, hgens]
  have hbody : toLE (((getBond s b).txGen + 1) % 65536) 2 ++ toLE (b2n false) 1 ++ [0] ++ toLE 0 2 ++ [] =
      toLE (((getBond s b).txGen + 1) % 65536) 2 ++ [0, 0, 0, 0] := by
    simp only [List.append_nil, List.append_assoc]; rfl
  simp only [startFlip, hchange, hworn, hlive, hidle]
  rw [if_neg (by simp), if_neg (by simp)]
  exact congrArg (controlMessage _ b 0x0105) hbody

theorem withoutCtl_moveStream (s : State) (n b : Nat) : withoutCtl (getBond (moveStream s n) b) = withoutCtl (getBond s b) := by
  unfold moveStream
  dsimp only
  split
  · rfl
  · split
    · rw [withoutCtl_closeWindow, withoutCtl_startWindow, withoutCtl_updS]
    · rfl

theorem withoutCtl_moveStreams (s : State) (k b : Nat) : withoutCtl (getBond (moveStreams s k) b) = withoutCtl (getBond s b) :=
  foldl_keeps (g := fun s => withoutCtl (getBond s b)) (fun s n => withoutCtl_moveStream s n b) _ s

/-- A bond's fields that PHASE_READY sets. -/
def sentFlip (x : Bond) : Nat × Bytes × Option Bytes × Bool := (x.txGen, x.root, x.oldTx, x.flipping)

theorem sentFlip_of_withoutCtl {x y : Bond} (h : withoutCtl x = withoutCtl y) : sentFlip x = sentFlip y :=
  (congrArg sentFlip h :)

theorem sentFlip_clearRoot (s : State) (b : Nat) : sentFlip (getBond (clearRoot s b) b) = sentFlip (getBond s b) := by
  unfold clearRoot
  dsimp only
  split
  · rw [getBond_updBond_self]; rfl
  · rfl

/-- PHASE_READY puts the announced generation in force; the flip goes on until PHASE_DONE. -/
theorem sentFlip_readyFlip {s : State} {b g : Nat} (hflip : (getBond s b).flipping = true) (hg : g = ((getBond s b).txGen + 1) % 65536) :
    sentFlip (getBond (readyFlip s b g) b) =
      (g, (getBond s b).flipRoot.getD (getBond s b).root, some (getBond s b).root, true) := by
  have hgo : ¬ ((!(getBond s b).flipping) = true ∨ g ≠ ((getBond s b).txGen + 1) % 65536) := by simp [hflip, ← hg]
  simp only [readyFlip]
  rw [if_neg hgo, apply_ite (getBond · b), getBond_of_bonds (raise_bonds _ _), ite_self, sentFlip_clearRoot,
    sentFlip_of_withoutCtl (withoutCtl_moveStreams _ b b), getBond_withPorts, getBond_updBond_self]
  simp only [sentFlip, hflip]

/-- PHASE_DONE ends the flip: what it ends with it touches no flip. -/
theorem flip_doneFlip {s : State} {b g : Nat} (hflip : (getBond s b).flipping = true) (hg : g = (getBond s b).txGen) :
    (getBond (doneFlip s b g) b).flipping = false ∧ (getBond (doneFlip s b g) b).newSalts = [] := by
  have hgo : ¬ ((!(getBond s b).flipping) = true ∨ g ≠ (getBond s b).txGen) := by simp [hflip, ← hg]
  have hview : flipView b (doneFlip s b g) = (false, [], s.hpe.moveInv) := by
    simp only [doneFlip]
    rw [if_neg hgo, flipView_rekeyDone, flipView_dropOldTx, flipView, getBond_updBond_self]
    rfl
  simp only [flipView, Prod.mk.injEq] at hview
  exact ⟨hview.1, hview.2.1⟩

/-! ### Re-agreement (R271) -/

theorem length_bslice (d : Bytes) (off n : Nat) : (bslice d off n).length = n := by
  simp only [bslice, List.length_append, List.length_replicate, List.length_take, List.length_drop]
  omega

/-- An offer of a re-agreement goes out with fresh keys. -/
theorem offerAgreement_sends {s : State} {b : Nat} (hdrbg : noEntropy s = false) :
    ∃ body : Bytes, (getBond (offerAgreement s b) b).outbox = (getBond s b).outbox ++ [(0x0108, body)] ∧ body.length = 1664 ∧
      (getBond (offerAgreement s b) b).reagreeing = true := by
  have hdrawn : ∀ t : State, ∃ d, getBond (drawSecrets t b) b = { getBond t b with secret := d } := fun t => by
    rcases hd : drawFresh t 152 with ⟨v, d⟩
    have hv : getBond v b = getBond t b := by have := getBond_drawFresh t 152 b; rwa [hd] at this
    exact ⟨d, by rw [drawSecrets, hd]; simp only [getBond_updBond_self, hv]⟩
  obtain ⟨d, hd⟩ := hdrawn (updBond s b fun x => { x with reagreeing := true })
  rw [getBond_updBond_self] at hd
  simp only [offerAgreement, hdrbg, Bool.false_eq_true, if_false, controlMessage, getBond_updBond_self, hd]
  exact ⟨_, rfl, by simp only [List.length_append, length_bslice], trivial⟩

/-! ### What timers start (R255, R257, R264, R271) -/

theorem execReagreementStart_of_due {s : State} {b : Nat} (hlive : live s = true) (hbond : (getBond s b).state = .live)
    (hinit : (getBond s b).initiator = true) (hidle : (getBond s b).reagreeing = false) (hroot : (getBond s b).nextRoot = none)
    (hworn : 65024 ≤ (getBond s b).txGen ∨ 65024 ≤ (getBond s b).rxGen ∨ 2 ^ 31 ≤ (getBond s b).salt) :
    execReagreementStart b s = .next (fabricSettle (offerAgreement s b)) := by
  rw [execReagreementStart, onFabric_of_live hlive]
  have hdue : (getBond s b).state = .live ∧ (getBond s b).initiator = true ∧ (!(getBond s b).reagreeing) = true ∧
      (getBond s b).nextRoot.isNone = true ∧
      ((getBond s b).txGen ≥ 65024 ∨ (getBond s b).rxGen ≥ 65024 ∨ (getBond s b).salt ≥ 2 ^ 31) :=
    ⟨hbond, hinit, by simp [hidle], by simp [hroot], hworn⟩
  exact congrArg (fun t => Host.Outcome.next (fabricSettle t)) (if_pos hdue)

/-- Settles O36: each message and timer by its own lemma; that PHASE_DONE leaves the flip ended rests on what the end of a command
keeps. -/
theorem linkEvents : Obligations.LinkEvents := by
  refine ⟨fun s b n m => ⟨fun h => openReq_of_not_live h m, fun hn hopening hbond hstay hnone => ?opened,
    fun hn hopening hbond => ?openedAny, fun hopening code => ?refused, fun hlive hidle hgen hchange hsalts => ?prepare,
    fun hlive hidle hroot hgens => ?flip, fun hflip hg => ?ready, fun hflip hg => flip_doneFlip hflip hg, fun hopened => ?drain,
    fun hdrbg => offerAgreement_sends hdrbg⟩, fun s b n hlive => ⟨fun hfull => ?start, fun hfull => ?noStart,
    fun hbond hinit hidle hroot hworn => execReagreementStart_of_due hlive hbond hinit hidle hroot hworn,
    fun hopening => ?openTimeout, fun hdraining => ?drainTimeout⟩⟩
  case opened =>
    obtain ⟨w, hw, hack⟩ := openAck_of_opening hn hopening hbond
    rw [endStreamOpen_of_none (by exact hnone)] at hw
    rw [hack, hw, if_neg (by rw [mustDrain_updStream, hstay]; decide)]
    exact ⟨getStream_updStream_self s _ _ (ackStream m), rfl⟩
  case openedAny =>
    obtain ⟨w, hw, hack⟩ := openAck_of_opening hn hopening hbond
    refine ⟨updStream s (n / 256) (n % 256) (ackStream m), w, getStream_updStream_self s _ _ (ackStream m), rfl, hw, ?_⟩
    rw [hack]
    split
    · exact .inr ⟨_, rfl⟩
    · exact .inl rfl
  case refused => exact ⟨_, refuseOpen_of_opening hopening code, state_getStream_closeEntry s _ _, rfl⟩
  case prepare => exact ⟨_, phasePrepare_of_old_root hlive hidle hgen hchange hsalts, getBond_updBond_self s b _, rfl⟩
  case flip => exact ⟨_, startFlip_of_no_root hlive hidle hroot hgens, getBond_updBond_self s b _, rfl⟩
  case ready =>
    have h := sentFlip_readyFlip hflip hg
    simp only [sentFlip, Prod.mk.injEq] at h
    exact h
  case drain =>
    exact ⟨by rw [getStream_drainStream_of_opened false hopened], drainStream_frame hopened false⟩
  case start => rw [exec_phaseFlipStart, execPhaseFlipStart, onFabric_of_live hlive, if_pos hfull]
  case noStart =>
    rw [exec_phaseFlipStart, execPhaseFlipStart, onFabric_of_live hlive, if_neg (by rw [hfull]; decide)]
  case openTimeout =>
    rw [exec_streamOpenTimeout, execStreamOpenTimeout, onFabric_of_live hlive, refuseOpen_of_opening hopening]
    rfl
  case drainTimeout => rw [exec_streamDrainTimeout, execStreamDrainTimeout, if_pos hlive, drainExpired, if_pos hdraining]

end Sys2Proof.Machine

/-! ## O43: miss replies and invalidations -/

namespace Sys2Proof.Machine
open Sys2Proof

theorem exec_otuMissReply (q : Nat) (s : State) : exec (.otuMissReply q) s = runLink 0x39 q missReplyEff s := rfl
theorem exec_otuInvalidate (q : Nat) (s : State) : exec (.otuInvalidate q) s = runLink 0x38 q otuInvalidateEff s := rfl
theorem exec_invalidationDrained (k : Nat) (s : State) : exec (.invalidationDrained k) s = execInvalidationDrained k s := rfl

/-! ### OTU_MISS_REPLY (R307 to R310) -/

section Reply
variable {u : State} {o slot id : Nat} {c : Started} (ho : o = fld (wd c.words 8) 15 12) (hslot : slot = fld (wd c.words 8) 7 0)
  (hlo : o ≤ 8)
include ho hslot hlo

theorem missReplyEff_of_free (hmiss : tget (getOtu u o).misses slot = none) :
    missReplyEff id c u = .done .rejected 0x03 0 u := by
  subst ho hslot
  simp only [missReplyEff, hmiss]
  exact if_neg (by omega)

section Slot
variable {m : Miss} (hmiss : tget (getOtu u o).misses slot = some m)
include hmiss

theorem missReplyEff_of_stale (hgen : (tgetD (getOtu u o).gens slot 0).toNat ≠ fld (wd c.words 8) 23 16) :
    missReplyEff id c u = .done .rejected 0x03 0 u := by
  subst ho hslot
  simp only [missReplyEff, hmiss]
  rw [if_neg (by omega), if_pos hgen]
  rfl

section Current
variable (hgen : (tgetD (getOtu u o).gens slot 0).toNat = fld (wd c.words 8) 23 16) (hres : fld (wd c.words 9) 26 24 = 0)
  (hres2 : fld (wd c.words 9) 15 14 = 0) (hres12 : wd c.words 12 = 0)
include hgen hres hres2 hres12

/-- A fault refuses what waits for the slot. -/
theorem missReplyEff_of_fault {f : XFault} (hvalid : bit (wd c.words 9) 31 = false)
    (hf : xfaultOf (fld (wd c.words 9) 23 16) = some f) :
    missReplyEff id c u = .done .ok 0 0 (m.waiting.foldl (fun s r => xlateFault s o r f) (freeMiss u o slot)) := by
  subst ho hslot
  simp only [missReplyEff, hmiss, hgen, hres, hres2, hres12, hvalid, hf]
  rw [if_neg (by omega), if_neg (by simp), if_neg (by simp), if_pos (by simp)]
  rfl

/-- A good entry is installed, and what waits for the slot goes on through it. -/
theorem missReplyEff_of_entry {e : TlbEntry} (hvalid : bit (wd c.words 9) 31 = true) (hfault : fld (wd c.words 9) 23 16 = 0)
    (he : e = { accord := m.accord
                base := 4096 * m.page / pageSizeOf (fld (wd c.words 9) 30 29) * pageSizeOf (fld (wd c.words 9) 30 29)
                size := pageSizeOf (fld (wd c.words 9) 30 29), writable := bit (wd c.words 9) 28, host := bit (wd c.words 9) 27
                target := wd2 c.words 10, counter := fld (wd c.words 9) 13 0 })
    (hsize : replySizeOk u m.accord e.host e.target e.size = true) (hmove : movesInto u m.accord e = false) :
    missReplyEff id c u = .done .ok 0 0
      (m.waiting.foldl (fun s r => throughEntry s o r e) (freeMiss (installEntry u o e) o slot)) := by
  subst ho hslot
  have hgood : ¬ (fld (wd c.words 9) 23 16 ≠ 0 ∨ (!replySizeOk u m.accord e.host e.target e.size) = true) := by simp [hfault, hsize]
  have hstay : ¬ movesInto u m.accord e = true := by simp [hmove]
  subst he
  simp only [missReplyEff, hmiss, hgen, hres, hres2, hres12, hvalid]
  rw [if_neg (by omega), if_neg (by simp), if_neg (by simp), if_neg (by simp), if_neg hgood, if_neg hstay]
  rfl

end Current
end Slot
end Reply

/-! ### OTU_INVALIDATE (R312) -/

section Invalidate
variable {u v : State} {c : Started} {id i : Nat} (hworld : (sessionOf u c).world ≠ .root) (hall : fld (wd c.words 8) 3 0 = 15)
  (hstage : bit (wd c.words 8) 4 = false) (hbase : (wd2 c.words 9).toNat % 4096 = 0) (htop : (wd2 c.words 9).toNat < 2 ^ 57)
  (hlen : (wd c.words 11).toNat % 4096 = 0)
include hworld hall hstage hbase htop hlen

/-- An invalidation of a range over all OTUs of the session's accord. -/
theorem otuInvalidateEff_of_range (hstart : startInvalidation u (sessionOf u c).accord (rootOtus u (sessionOf u c).accord)
      (if (wd c.words 11).toNat = 0 then none else some ((wd2 c.words 9).toNat, (wd c.words 11).toNat)) (some id) none [] = (v, i)) :
    otuInvalidateEff id c u = .wait (.invalidation i) v := by
  have hplaced : ¬ (wd2 c.words 9).toNat ≥ 2 ^ 57 := by omega
  simp only [otuInvalidateEff, if_neg hworld, hall, hstage, hbase, hlen, hstart, hplaced, Bool.false_eq_true, if_false, ne_eq,
    not_true_eq_false, or_self, false_or, false_and, and_false, if_true]

end Invalidate

/-! ### Invalidations that end (R313) -/

theorem invalidationDrained_of_early {s : State} {k : Nat} {x : Invalidation} (hx : tget s.invalidations k = some x)
    (hdrained : drainedInvalidation s x = false) : invalidationDrained s k = s := by
  simp only [invalidationDrained, hx, hdrained, Bool.not_false, if_true]

theorem moveReady_of_no_move {s : State} (h : s.hpe.moveInv = none) (k : Nat) : moveReady s k = (s, true) := by
  simp only [moveReady, h, reduceCtorEq, if_false]

/-- A move that is not under way stays so over the end of a command. -/
theorem moveInv_finishOpt (s : State) (id : Option Nat) (st : Status) (detail result : Word) :
    (finishOpt s id st detail result).hpe.moveInv = s.hpe.moveInv :=
  congrArg (fun v : Bool × Tab Word × Option Nat => v.2.2) (flipView_finishOpt 0 s id st detail result)

theorem invalidationDrained_of_drained {s : State} {k : Nat} {x : Invalidation} (hx : tget s.invalidations k = some x)
    (hdrained : drainedInvalidation s x = true) (hfence : x.fence = none) (hmove : s.hpe.moveInv = none) :
    invalidationDrained s k = advanceAccords (finishOpt { s with
      invalidations := tdel s.invalidations k
      hpe := { s.hpe with counters := s.hpe.counters.filter fun c => !x.counters.contains c.1 } } x.cmd .ok 0 0) := by
  have hend (t : State) (h : t.hpe.moveInv = none) : (if t.hpe.moveInv = some k then moveFinish t else t) = t :=
    if_neg (by rw [h]; simp)
  simp only [invalidationDrained, hx, hdrained, hfence, moveReady_of_no_move hmove, Bool.not_true, Bool.false_eq_true, if_false]
  exact congrArg advanceAccords (hend _ ((moveInv_finishOpt ..).trans hmove))

/-! ### Entries taken out -/

theorem tlb_bumpMiss (s : State) (o slot : Nat) : (getOtu (bumpMiss s o slot) o).tlb = (getOtu s o).tlb := by
  rw [bumpMiss, getOtu_updOtu_self]

theorem tlb_postMiss (s : State) (o slot : Nat) : (getOtu (postMiss s o slot) o).tlb = (getOtu s o).tlb := by
  unfold postMiss
  split
  · rfl
  · dsimp only
    rw [getOtu_updOtu_self]

theorem tlb_repostMisses (s : State) (o a : Nat) (f : Nat → Bool) : (getOtu (repostMisses s o a f) o).tlb = (getOtu s o).tlb :=
  foldl_keeps (g := fun s => (getOtu s o).tlb) (f := fun s (m : Nat × Miss) => postMiss (bumpMiss s o m.1) o m.1)
    (fun s m => (tlb_postMiss _ o m.1).trans (tlb_bumpMiss s o m.1)) _ s

theorem mem_tlb_invalidateOtu (s : State) (o a : Nat) (range : Option (Nat × Nat)) (e : TlbEntry) :
    e ∈ (getOtu (invalidateOtu s o a range) o).tlb ↔
      e ∈ (getOtu s o).tlb ∧ ¬ (e.accord = a ∧ meetsRange e.base e.size range = true) := by
  simp only [invalidateOtu, tlb_repostMisses, getOtu_updOtu_self, List.mem_filter, Bool.not_eq_true', Bool.and_eq_false_iff,
    beq_eq_false_iff_ne, Classical.not_and_iff_not_or_not, Bool.not_eq_true]

/-- Settles O43: the reply and the invalidation by their effects, the drain by what the end of a command keeps of a move. -/
theorem translationCommands : Obligations.TranslationCommands := by
  refine ⟨fun s u q o slot c m ho hslot hlo => ⟨fun hbegin hmiss hgen hres hres2 hres12 => ⟨fun f hvalid hf => ?fault,
      fun e hvalid hfault he hsize hmove => ?entry⟩, fun hbegin hmiss hgen => ?stale, fun hbegin hmiss => ?free,
    fun v i hbegin hworld hall hstage hbase htop hlen hstart => ?invalidate,
    fun k x hlive hx hdrained hfence hmove => ?drained, fun k x hlive hx hdrained => ?early⟩, mem_tlb_invalidateOtu⟩
  case fault =>
    exact runLink_done hbegin missReplyEff (missReplyEff_of_fault ho hslot hlo hmiss hgen hres hres2 hres12 hvalid hf)
  case entry =>
    exact runLink_done hbegin missReplyEff
      (missReplyEff_of_entry ho hslot hlo hmiss hgen hres hres2 hres12 hvalid hfault he hsize hmove)
  case stale => exact runLink_done hbegin missReplyEff (missReplyEff_of_stale ho hslot hlo hmiss hgen)
  case free => exact runLink_done hbegin missReplyEff (missReplyEff_of_free ho hslot hlo hmiss)
  case invalidate =>
    exact runLink_wait hbegin otuInvalidateEff (otuInvalidateEff_of_range hworld hall hstage hbase htop hlen hstart)
  case drained =>
    rw [exec_invalidationDrained, execInvalidationDrained, if_pos hlive, invalidationDrained_of_drained hx hdrained hfence hmove]
  case early => rw [exec_invalidationDrained, execInvalidationDrained, if_pos hlive, invalidationDrained_of_early hx hdrained]

end Sys2Proof.Machine
